-- ==== Sys2Proof/Word.lean ====
section
/-! DEFINITION. The word types of the machine and their plainest arithmetic. -/
namespace Sys2Proof

/-- A 32-bit word: an instruction word, or one lane of a vector register (02 R25, 03 R49). -/
abbrev Word := BitVec 32
/-- A 64-bit uniform register value (03 R49). -/
abbrev DWord := BitVec 64
/-- One byte. -/
abbrev Byte := BitVec 8
/-- A set of the 128 lanes of a group: bit i is lane i. -/
abbrev LaneSet := BitVec 128

/-- Low word of a 64-bit value. -/
def DWord.lo (x : DWord) : Word := x.extractLsb' 0 32
/-- High word of a 64-bit value. -/
def DWord.hi (x : DWord) : Word := x.extractLsb' 32 32
/-- The 64-bit value with the given high and low words. -/
def DWord.ofWords (hi lo : Word) : DWord := hi ++ lo

/-- Number of set bits of a lane set. -/
def LaneSet.count (m : LaneSet) : Nat :=
  (List.range 128).foldl (fun n i => if m.getLsbD i then n + 1 else n) 0

/-- The lanes of a set in ascending order. -/
def LaneSet.toList (m : LaneSet) : List Nat :=
  (List.range 128).filter fun i => m.getLsbD i

/-- The lane set holding exactly the lanes that satisfy a test. -/
def LaneSet.ofTest (p : Nat → Bool) : LaneSet :=
  (List.range 128).foldl (fun (m : LaneSet) i => if p i then m ||| (1#128 <<< i) else m) 0#128

/-- The lanes below n. -/
def LaneSet.below (n : Nat) : LaneSet := LaneSet.ofTest fun i => decide (i < n)

/-- Every lane. -/
def LaneSet.all : LaneSet := BitVec.allOnes 128

end Sys2Proof
end

