-- ==== Sys2Proof/Machine/Elements.lean ====
section
/-! DEFINITION. Element encodings (05 Tables 5.1 to 5.4): what an element code names. -/
namespace Sys2Proof.Machine

/-- A float format: its number of exponent bits, of trailing bits, its bias, whether it has a sign, infinities, and
whether it is one of the binary8 formats of R97 and R98 (whose NaN and zero are single codes). -/
structure FloatFmt where
  expBits : Nat
  fracBits : Nat
  bias : Nat
  signed : Bool
  inf : Bool
  tiny : Bool
  deriving DecidableEq, Repr

/-- FP32 (Table 5.1). -/
def FloatFmt.f32 : FloatFmt := ⟨8, 23, 127, true, true, false⟩
/-- FP16 (Table 5.1). -/
def FloatFmt.f16 : FloatFmt := ⟨5, 10, 15, true, true, false⟩
/-- BF16 (Table 5.1). -/
def FloatFmt.bf16 : FloatFmt := ⟨8, 7, 127, true, true, false⟩
/-- f8sP, f8nP and their forms with infinities (R97, R98): E = 8 - P or 9 - P, T = P - 1, bias 2^(E-1). -/
def FloatFmt.f8 (p : Nat) (unsigned inf : Bool) : FloatFmt :=
  let e := if unsigned then 9 - p else 8 - p
  ⟨e, p - 1, 2 ^ (e - 1), !unsigned, inf, true⟩

/-- Width of the format in bits. -/
def FloatFmt.width (f : FloatFmt) : Nat := f.expBits + f.fracBits + (if f.signed then 1 else 0)

/-- What an element code names. -/
inductive Elem where
  | int (signed : Bool) (bits : Nat)
  | float (f : FloatFmt)
  deriving DecidableEq, Repr

/-- Table 5.4: the encoding an element code names; none for 0x00 and every reserved code. -/
def elemOfCode (c : BitVec 8) : Option Elem :=
  let n := c.toNat
  if n = 0x01 then some (.int false 8) else if n = 0x02 then some (.int true 8)
  else if n = 0x03 then some (.int false 16) else if n = 0x04 then some (.int true 16)
  else if n = 0x05 then some (.int false 32) else if n = 0x06 then some (.int true 32)
  else if n = 0x07 then some (.float .f16) else if n = 0x08 then some (.float .bf16)
  else if n = 0x09 then some (.float .f32) else if n = 0x0A then some (.int false 64)
  else if 0x11 ≤ n ∧ n ≤ 0x17 then some (.float (.f8 (n - 0x10) false false))
  else if 0x19 ≤ n ∧ n ≤ 0x1F then some (.float (.f8 (n - 0x18) false true))
  else if 0x21 ≤ n ∧ n ≤ 0x27 then some (.float (.f8 (n - 0x20) true false))
  else if 0x29 ≤ n ∧ n ≤ 0x2F then some (.float (.f8 (n - 0x28) true true))
  else none

/-- Width of an element in bits. -/
def Elem.bits : Elem → Nat
  | .int _ n => n
  | .float f => f.width

/-- Width of an element in bytes. -/
def Elem.bytes (e : Elem) : Nat := e.bits / 8

/-- The element is one of the 8-bit float formats. -/
def Elem.isF8 : Elem → Bool
  | .int _ _ => false
  | .float f => f.tiny

/-- The element is a float. -/
def Elem.isFloat : Elem → Bool
  | .int _ _ => false
  | .float _ => true

/-- Width in bits of the element a code names; 0 for an invalid code. -/
def codeBits (c : BitVec 8) : Nat := match elemOfCode c with | some e => e.bits | none => 0
/-- The code names an 8-bit float. -/
def codeIsF8 (c : BitVec 8) : Bool := match elemOfCode c with | some e => e.isF8 | none => false
/-- The code names a float. -/
def codeIsFloat (c : BitVec 8) : Bool := match elemOfCode c with | some e => e.isFloat | none => false
/-- The code is valid (Table 5.4). -/
def codeValid (c : BitVec 8) : Bool := (elemOfCode c).isSome

end Sys2Proof.Machine
end

