-- ==== Sys2Proof/Syntax.lean ====
section
/-! DEFINITION. The instructions and events of the machine: one constructor per row of spec/opcode_table.json.

An instruction carries the fields of its format (02 R29-R42); an event row of the table has no encoding and carries
what names the operation concerned, or the data that the world outside supplies. -/
namespace Sys2Proof

/-- Guard of word 0 (Table 2.3, R34): reg 0 is unguarded; neg is GNG. -/
structure Guard where
  neg : Bool
  reg : BitVec 4
  deriving DecidableEq, Repr

/-- No guard. -/
def Guard.none : Guard := ⟨false, 0#4⟩

/-- Register operand field (Table 2.4): fe is FE; reg 0..383 name v0..v383, 384..511 name s0..s127. -/
structure Src where
  fe : Bool
  reg : BitVec 9
  deriving DecidableEq, Repr

/-- The all-zero operand field of an operand that is not used (R32). -/
def Src.zero : Src := ⟨false, 0#9⟩

/-- The third and fourth words of an instruction (R39, R41). -/
inductive Ext where
  | none                    -- V64: two words
  | w2 (w : Word)           -- V96: word 2
  | w23 (w2 w3 : Word)      -- E128: words 2 and 3
  deriving DecidableEq, Repr

/-- The fields of a V64, V96 or E128 instruction (Tables 2.3, 2.5). -/
structure Op where
  g : Guard
  fn : BitVec 8
  d : BitVec 9
  a : Src
  b : Src
  c : Src
  na : Bool
  nc : Bool
  ext : Ext
  deriving DecidableEq, Repr

/-- The fields of an I64 instruction (Table 2.6). -/
structure I64 where
  g : Guard
  fn : BitVec 8
  d : BitVec 9
  a : Src
  imm : BitVec 22
  deriving DecidableEq, Repr

/-- The fields of a B64 instruction (Table 2.7): offsets in 4-byte units from the branch's PC. -/
structure B64 where
  g : Guard
  fn : BitVec 8
  d : BitVec 9
  t16 : BitVec 16
  j16 : BitVec 16
  deriving DecidableEq, Repr

/-- The fields of an M64 instruction (Table 2.8); x is 0x3FF when there is no index register. -/
structure M64 where
  g : Guard
  fn : BitVec 8
  d : BitVec 9
  base : BitVec 7
  x : BitVec 10
  off : BitVec 15
  deriving DecidableEq, Repr

/-- A fabric access received from a node (26 R366): a write carries its bytes, a read its length. -/
structure FabricAccess where
  src : BitVec 8
  off : Nat
  write : Bool
  len : Nat
  data : List Byte
  deriving DecidableEq, Repr

/-- An image in module flash (27 R372): the CAP_ISA version that its header names, its bytes, the public key that comes with
it, and its signature. -/
structure BootImage where
  version : Nat
  bytes : List Byte
  keyX : Nat
  keyY : Nat
  sigR : Nat
  sigS : Nat
  deriving DecidableEq, Repr

/-- What the management core finds during power-on (27 R371 to R375, Table 27.1): whether the boot ROM runs, the digest of the
public key that it holds, the three images, whether the configuration image applies and what it lists, the results of the
self-test by core, slice, channel pair, torus link and port, whether step 5 ends well, what the core firmware image
holds, and the certificate in module flash (R377). -/
structure BootInputs where
  romOk : Bool
  keyDigest : List Byte
  management : BootImage
  core : BootImage
  config : BootImage
  configOk : Bool
  cfgCoresOff : DWord
  cfgStationsOff : BitVec 16
  cfgPortLimit : DWord
  lsizeGiB : Nat
  testCoresOff : DWord
  testSlicesOff : DWord
  testStationsOff : BitVec 16
  linksFailed : BitVec 128
  portWidth : DWord
  finishOk : Bool
  firmware : List Byte
  vec : Nat
  certificate : List Byte
  deriving DecidableEq, Repr

/-- One constructor per row of spec/opcode_table.json. -/
inductive Instr where
  /-- NOP (R27): The 64-bit all-zero instruction only advances the PC. -/
  | nop (o : Op)
  /-- SHORT_PAD (R27): A zero word at fetch-block offset 0x1C acts as a 4-byte nop, and execution continues at the next fetch block. -/
  | shortPad
  /-- BRA (R73): Branches the whole split, falls through, or diverges into two splits (or the serial form) with a new join record. -/
  | bra (o : B64)
  /-- JOIN (R75): If the split's innermost record has this join address, the split's owned lanes arrive at it, its entry is freed and a join event follows. -/
  | join (o : Op)
  /-- BRK (R78): Selected lanes break out of n nested regions and count as arrived at the n-th record. -/
  | brk (o : Op)
  /-- EXIT (R77): Selected lanes join the exited set E and stop; on a CT it ends the control program. -/
  | exit (o : Op)
  /-- CALL (R83): Writes a link value and jumps within the current overlay. -/
  | call (o : B64)
  /-- CALLO (R84): Resolves an overlay token, possibly issuing a fill and waiting, then writes the link and jumps to the entry or offset. -/
  | callo (o : I64)
  /-- RET (R85): Checks the link, resolves its token as callo.auto does, and returns to (token, offset). -/
  | ret (o : Op)
  /-- LOOP (R79): Starts hardware loop counter K with a count and a body ending at a given instruction, or skips the loop. -/
  | loop (o : I64)
  /-- WAIT (R86): The split waits until the group's counter of an engine class is at most n, delivering a pending deferred fault first. -/
  | wait (o : I64)
  /-- TRAP (R87): Raises the user trap 0x15 with a 16-bit code. -/
  | trap (o : I64)
  /-- BRKPT (R88): Raises the breakpoint trap 0x16 and freezes the whole group. -/
  | brkpt (o : Op)
  /-- YIELD (R90): Advances the PC and gives up the split's next issue opportunity if another split is ready. -/
  | yield (o : Op)
  /-- DQ_PUSH (R91): A CT pushes a 64-bit value onto its context's decision queue, waiting for space if it is full. -/
  | dqPush (o : Op)
  /-- DQ_POP (R91): A group marks its destination empty and takes the oldest queued value, or joins the pending pops. -/
  | dqPop (o : Op)
  /-- SPRD (R93): Reads a special register into a vector, uniform or mask register at issue. -/
  | sprd (o : I64)
  /-- SPWR (R93): Writes %exec, %fmt or %fflags from a register. -/
  | spwr (o : I64)
  /-- FMTSET (R94): Sets the issuing split's FMT register from a register or an immediate. -/
  | fmtset (o : Op)
  /-- SADD (R63): Uniform integer add, optionally saturating. -/
  | sadd (o : Op)
  /-- SSUB (R63): Uniform integer subtract, optionally saturating. -/
  | ssub (o : Op)
  /-- SMUL (R63): Uniform integer multiply, low or high half. -/
  | smul (o : Op)
  /-- SDIV (R63): Uniform integer quotient or remainder. -/
  | sdiv (o : Op)
  /-- SAND (R63): Uniform bitwise AND. -/
  | sand (o : Op)
  /-- SOR (R63): Uniform bitwise OR. -/
  | sor (o : Op)
  /-- SXOR (R63): Uniform bitwise XOR. -/
  | sxor (o : Op)
  /-- SSHL (R63): Uniform shift left. -/
  | sshl (o : Op)
  /-- SSHR (R63): Uniform arithmetic or logical shift right. -/
  | sshr (o : Op)
  /-- SMIN (R63): Uniform minimum. -/
  | smin (o : Op)
  /-- SMAX (R63): Uniform maximum. -/
  | smax (o : Op)
  /-- SCMP (R63): Uniform compare that writes a whole mask. -/
  | scmp (o : Op)
  /-- SSEL (R63): Uniform select on a mask. -/
  | ssel (o : Op)
  /-- SBFX (R63): Uniform bit-field extract. -/
  | sbfx (o : Op)
  /-- SBFI (R63): Uniform bit-field insert. -/
  | sbfi (o : Op)
  /-- SBIT (R63): Uniform population count, clz, ctz or bit reverse. -/
  | sbit (o : Op)
  /-- SMOV (R64): Moves a uniform register or an immediate into a uniform register. -/
  | smov (o : Op)
  /-- SLEA (R65): Computes an M64 address into a uniform register without accessing memory. -/
  | slea (o : M64)
  /-- SLD (R66): Uniform slice load, extended to 64 bits; the destination stays empty until the data arrive. -/
  | sld (o : M64)
  /-- SST (R67): Uniform slice store of 1, 2, 4 or 8 bytes. -/
  | sst (o : M64)
  /-- VTOS (R68): Copies one lane of a vector register into a uniform register. -/
  | vtos (o : Op)
  /-- MTOS (R69): Copies half of a mask into a uniform register. -/
  | mtos (o : Op)
  /-- STOM (R69): Sets a mask from two uniform registers. -/
  | stom (o : Op)
  /-- SCLK (R70): Reads the device clock count. -/
  | sclk (o : Op)
  /-- SID (R70): Reads an identity value such as %core or %launch. -/
  | sid (o : Op)
  /-- IADD (R119): Vector integer add. -/
  | iadd (o : Op)
  /-- ISUB (R119): Vector integer subtract. -/
  | isub (o : Op)
  /-- IMUL (R119): Vector integer multiply, low or high half. -/
  | imul (o : Op)
  /-- IMAD (R119): Vector integer multiply-add. -/
  | imad (o : Op)
  /-- IAND (R119): Vector bitwise AND. -/
  | iand (o : Op)
  /-- IOR (R119): Vector bitwise OR. -/
  | ior (o : Op)
  /-- IXOR (R119): Vector bitwise XOR. -/
  | ixor (o : Op)
  /-- ISHL (R119): Vector shift left. -/
  | ishl (o : Op)
  /-- ISHR (R119): Vector shift right. -/
  | ishr (o : Op)
  /-- IMIN (R119): Vector integer minimum. -/
  | imin (o : Op)
  /-- IMAX (R119): Vector integer maximum. -/
  | imax (o : Op)
  /-- ICMP (R119): Vector integer compare into a mask. -/
  | icmp (o : Op)
  /-- ISEL (R119): Vector per-lane select on a mask. -/
  | isel (o : Op)
  /-- IBFX (R119): Vector bit-field extract. -/
  | ibfx (o : Op)
  /-- IBFI (R119): Vector bit-field insert. -/
  | ibfi (o : Op)
  /-- IBIT (R119): Vector pop, clz, ctz or bit reverse. -/
  | ibit (o : Op)
  /-- FADD (R121): Vector float add. -/
  | fadd (o : Op)
  /-- FSUB (R121): Vector float subtract. -/
  | fsub (o : Op)
  /-- FMUL (R121): Vector float multiply. -/
  | fmul (o : Op)
  /-- FMA (R121): Vector fused multiply-add with one rounding. -/
  | fma (o : Op)
  /-- FMIN (R121): Vector float minimum. -/
  | fmin (o : Op)
  /-- FMAX (R121): Vector float maximum. -/
  | fmax (o : Op)
  /-- FCMP (R123): Vector float compare into a mask. -/
  | fcmp (o : Op)
  /-- FDIV (R121): Vector float divide, correctly rounded. -/
  | fdiv (o : Op)
  /-- FRCP (R124): Vector reciprocal. -/
  | frcp (o : Op)
  /-- FRSQ (R124): Vector reciprocal square root. -/
  | frsq (o : Op)
  /-- FSQRT (R124): Vector square root. -/
  | fsqrt (o : Op)
  /-- FEX2 (R124): Vector power of two. -/
  | fex2 (o : Op)
  /-- FLG2 (R124): Vector base-2 logarithm. -/
  | flg2 (o : Op)
  /-- FSIN (R124): Vector sine or cosine of an argument in turns. -/
  | fsin (o : Op)
  /-- FRND (R125): Vector round to an integral float value. -/
  | frnd (o : Op)
  /-- FDP3 (R126): Vector three-term dot product with one rounding. -/
  | fdp3 (o : Op)
  /-- CVT (R110): Converts one element between element codes. -/
  | cvt (o : Op)
  /-- QPACK (R111): Packs two or four FP32 values into narrow elements. -/
  | qpack (o : Op)
  /-- QUNPK (R112): Unpacks two or four narrow elements to FP32. -/
  | qunpk (o : Op)
  /-- FSCL (R113): Scales a value by a power of two. -/
  | fscl (o : Op)
  /-- FCLS (R114): Classifies a float into a one-hot class word. -/
  | fcls (o : Op)
  /-- FFRX (R115): Splits a float into fraction or exponent. -/
  | ffrx (o : Op)
  /-- SHFL (R128): Moves values between lanes using a cross-lane modifier. -/
  | shfl (o : Op)
  /-- LROT (R128): Rotates lanes by a run-time amount. -/
  | lrot (o : Op)
  /-- LBC (R128): Broadcasts one lane chosen at run time. -/
  | lbc (o : Op)
  /-- QSWP (R129): Exchanges values within quads horizontally, vertically or diagonally. -/
  | qswp (o : Op)
  /-- QDDX (R130): Quad derivative in x. -/
  | qddx (o : Op)
  /-- QDDY (R130): Quad derivative in y. -/
  | qddy (o : Op)
  /-- VOTE (R132): Votes all, any, uniform or ballot over the participating lanes. -/
  | vote (o : Op)
  /-- MLOG (R133): Applies a logical operation to masks. -/
  | mlog (o : Op)
  /-- MCNT (R134): Counts mask lanes among the participating lanes. -/
  | mcnt (o : Op)
  /-- MFST (R134): Finds the first or last set lane. -/
  | mfst (o : Op)
  /-- RED (R135): Reduces lane values to a uniform register by the fixed pairwise tree. -/
  | red (o : Op)
  /-- SCAN (R136): Computes a running prefix in ascending lane order. -/
  | scan (o : Op)
  /-- MGET (R133): Expands a mask into per-lane values. -/
  | mget (o : Op)
  /-- MSET (R133): Sets mask bits from nonzero lane values. -/
  | mset (o : Op)
  /-- LID (R137): Writes lane, quad, in-quad or rank identity. -/
  | lid (o : Op)
  /-- LPAK (R138): Packs the values of masked lanes into the low lanes. -/
  | lpak (o : Op)
  /-- LD (R144): Per-lane slice load; the destination stays empty until the data arrive. -/
  | ld (o : M64)
  /-- ST (R145): Per-lane slice store. -/
  | st (o : M64)
  /-- LDW (R146): Row load of 128 contiguous elements. -/
  | ldw (o : M64)
  /-- STW (R146): Row store of 128 contiguous elements. -/
  | stw (o : M64)
  /-- LDB (R154): Loads through a buffer record with indexing, expansion and conversion. -/
  | ldb (o : Op)
  /-- STB (R154): Stores through a buffer record with conversion. -/
  | stb (o : Op)
  /-- LDC (R144): Consume-ordered load that taints its destination. -/
  | ldc (o : M64)
  /-- LDA (R159): Acquire load at group or core scope. -/
  | lda (o : M64)
  /-- STL (R159): Release store at group or core scope. -/
  | stl (o : M64)
  /-- FENCE (R160): Orders the split's earlier slice accesses before its later ones at a scope. -/
  | fence (o : Op)
  /-- ATOM (R164): Per-lane integer read-modify-write that returns the old word. -/
  | atom (o : M64)
  /-- ACAS (R165): Per-lane compare and swap. -/
  | acas (o : M64)
  /-- AFADD (R166): Per-lane atomic float add. -/
  | afadd (o : M64)
  /-- TCLR (R162): Clears a register's taint bit. -/
  | tclr (o : Op)
  /-- SWADD (R172): Issues an element-wise add sweep. -/
  | swadd (o : Op)
  /-- SWMUL (R172): Issues an element-wise multiply sweep. -/
  | swmul (o : Op)
  /-- SWFMA (R172): Issues a fused multiply-add sweep. -/
  | swfma (o : Op)
  /-- SWMAX (R172): Issues an element-wise maximum sweep. -/
  | swmax (o : Op)
  /-- SWMIN (R172): Issues an element-wise minimum sweep. -/
  | swmin (o : Op)
  /-- SWCVT (R175): Issues a converting sweep. -/
  | swcvt (o : Op)
  /-- SWMOV (R172): Issues a move sweep. -/
  | swmov (o : Op)
  /-- SWFILL (R172): Issues a fill sweep. -/
  | swfill (o : Op)
  /-- SWRED (R174): Issues a reduction sweep that writes one element. -/
  | swred (o : Op)
  /-- SWSEL (R172): Issues a conditional select sweep. -/
  | swsel (o : Op)
  /-- CPY (R176): Issues a byte copy or a deposit into a back wing. -/
  | cpy (o : Op)
  /-- CPYX (R180): Issues a converting, expanding or transposing copy between a record tensor and plain rows. -/
  | cpyx (o : Op)
  /-- XST (R197): Issues a deposit of register rows into a back wing. -/
  | xst (o : Op)
  /-- WBIND (R194): Binds a wing pair to the phase or to a barrier object. -/
  | wbind (o : Op)
  /-- WFREE (R195): Unbinds a wing pair and leaves both halves as plain memory. -/
  | wfree (o : Op)
  /-- BINI (R199): Initialises or frees a barrier object. -/
  | bini (o : Op)
  /-- BARV (R200): Arrives at a barrier object, writes the generation tag and sends arrivals to the replicas. -/
  | barv (o : Op)
  /-- BWT (R201): Waits until the own replica's GEN differs from the tag; the return acquires. -/
  | bwt (o : Op)
  /-- WCNT (R169): Reads an engine counter. -/
  | wcnt (o : Op)
  /-- PARV (R186): Ends the compute superstep for a group or CT, checking divergence and waiting for counters and registers. -/
  | parv (o : B64)
  /-- XMOV (R205): Issues a slice-to-slice exchange transfer. -/
  | xmov (o : Op)
  /-- XPUT (R205): Issues a pattern fill transfer. -/
  | xput (o : Op)
  /-- XMC (R205): Issues a multicast transfer to a core mask. -/
  | xmc (o : Op)
  /-- XGM (R205): Issues a transfer with a device-virtual side. -/
  | xgm (o : Op)
  /-- XADD (R207): Issues element contributions to be added at the end of the stage. -/
  | xadd (o : Op)
  /-- XEND (R208): Marks the CT context done for this exchange superstep. -/
  | xend (o : Op)
  /-- PCNT (R189): Reads PHASE. -/
  | pcnt (o : Op)
  /-- XSYNC (R209): The CT waits at a stage end for all CT contexts of its context. -/
  | xsync (o : Op)
  /-- MACQ (R220): Requests ownership of the matrix engine and joins the owner queue. -/
  | macq (o : Op)
  /-- MREL (R221): Queues a release of the engine after the owner's earlier operations. -/
  | mrel (o : Op)
  /-- MGNG (R223): Enters the gang rendezvous that sets %gang. -/
  | mgng (o : Op)
  /-- MLDS (R227): Issues a load of rows into the shadow plane. -/
  | mlds (o : Op)
  /-- MFLP (R228): Queues an exchange of the active and shadow planes. -/
  | mflp (o : Op)
  /-- MSTR (R229): Issues an accumulation step from slice or register rows. -/
  | mstr (o : Op)
  /-- MOUT (R230): Issues a conversion of accumulator rows to the slice or to registers. -/
  | mout (o : Op)
  /-- MCLR (R231): Queues clearing of masked banks. -/
  | mclr (o : Op)
  /-- MCFG (R226): Sets the owner's matrix configuration. -/
  | mcfg (o : Op)
  /-- MPRM (R232): Lowers the workgroup's class. -/
  | mprm (o : Op)
  /-- GAPP (R242): Takes slots and returns handles for vertices to be published at the boundary. -/
  | gapp (o : Op)
  /-- GRD (R243): Reads words of a snapshot vertex record. -/
  | grd (o : Op)
  /-- GCON (R244): Computes connection geometry of two vertices. -/
  | gcon (o : Op)
  /-- GWGT (R245): Computes a connection weight. -/
  | gwgt (o : Op)
  /-- GMRG (R246): Gathers up to four merge candidates near an eye vertex. -/
  | gmrg (o : Op)
  /-- GRWT (R247): Computes a merge weight and 1/eta. -/
  | grwt (o : Op)
  /-- GRET (R248): Requests retirement of a vertex at the boundary. -/
  | gret (o : Op)
  /-- GKEP (R249): Requests setting or clearing of a vertex's KEPT bit. -/
  | gkep (o : Op)
  /-- GFRM_RHO (R251): Requests a new merge radius. -/
  | gfrmRho (o : Op)
  /-- GFRM_OPEN (R251): Requests that a free frame be opened. -/
  | gfrmOpen (o : Op)
  /-- GFRM_REL (R251): Requests release of a mask of frames. -/
  | gfrmRel (o : Op)
  /-- GSTA (R252): Reads graph state such as eta, rho, N or free slots. -/
  | gsta (o : Op)
  /-- TRC (R261): Traces rays against a published scene. -/
  | trc (o : Op)
  /-- TNX (R264): Rejects, accepts or terminates a candidate of an open trace. -/
  | tnx (o : Op)
  /-- RPAK (R265): Enters the repack rendezvous for listed groups. -/
  | rpak (o : Op)
  /-- RAST (R267): Emits up to 32 covered quads of a triangle in a tile. -/
  | rast (o : Op)
  /-- SRAT (R270): Combines shading rates. -/
  | srat (o : Op)
  /-- TWB (R271): Issues a tile write-back that writes only when the tile's signature changed. -/
  | twb (o : Op)
  /-- SCNB (R259): Issues a scene build into a slot's build structure. -/
  | scnb (o : Op)
  /-- SCNP (R260): Requests publication or withdrawal of a scene slot. -/
  | scnp (o : Op)
  /-- OVLD (R286): Requests that an overlay token be made resident, starting a fill if needed. -/
  | ovld (o : Op)
  /-- OVQ (R287): Reports a token's state, or the context's slot use with .q. -/
  | ovq (o : Op)
  /-- OVEV (R288): Makes a token evict-pending, or absent if it failed. -/
  | ovev (o : Op)
  /-- RGIV (R58): Returns the group's highest register blocks to the pool. -/
  | rgiv (o : Op)
  /-- RCLM (R59): Enqueues a claim for more register blocks and waits. -/
  | rclm (o : Op)
  /-- RPOL (R60): Reads the core's register pool state. -/
  | rpol (o : Op)
  /-- LNCH (R320): A CT enqueues a launch record on a device queue. -/
  | lnch (o : Op)
  /-- TRET (R311): Ends the current delivery and resumes the source. -/
  | tret (o : Op)
  /-- CSRD (R310): Reads a control and status register. -/
  | csrd (o : I64)
  /-- CSWR (R310): Writes a control and status register. -/
  | cswr (o : I64)
  /-- TINV (R312): Waits until translation caches drop the selected entries. -/
  | tinv (o : Op)
  /-- CTSV (R313): Saves a context's state on the core to an image and releases its residency. -/
  | ctsv (o : Op)
  /-- CTLD (R313): Restores a context image onto the core. -/
  | ctld (o : Op)
  /-- PDET_DET (R314): Detaches a context on every core at once. -/
  | pdetDet (o : Op)
  /-- PDET_ATT (R314): Rejoins a detached context from the next compute superstep. -/
  | pdetAtt (o : Op)
  /-- HALT (R311): Ends the delivery without resuming and appends a CLASS 7 record. -/
  | halt (o : Op)
  /-- VTOS_RESULT (R68), an event: The lane value arrives and the uniform destination becomes full. -/
  | vtosResult (core id : Nat)
  /-- LOAD_DATA_RETURN (R52), an event: The data of an outstanding load land in the destination registers, which become full. -/
  | loadDataReturn (core id : Nat)
  /-- ATOMIC_RESULT_RETURN (R163), an event: The old values of an atomic land and its register becomes full. -/
  | atomicResultReturn (core id : Nat)
  /-- SWEEP_EXECUTE (R173), an event: The engine checks the streams, performs every iteration or records a deferred fault, and completes on CPY. -/
  | sweepExecute (core id : Nat)
  /-- COPY_EXECUTE (R177), an event: The engine moves the bytes chunk by chunk, translating device-virtual chunks, and completes on CPY. -/
  | copyExecute (core id : Nat)
  /-- DEPOSIT_ARRIVAL (R196), an event: The target core checks a deposit, writes it into the back wing and counts it on a barrier, or refuses it. -/
  | depositArrival (id : Nat)
  /-- DEPOSIT_ACK (R344), an event: An acknowledgement or refusal completes the deposit on the sender's CPY counter. -/
  | depositAck (id : Nat)
  /-- BARRIER_ARRIVAL (R200), an event: A replica applies an arrival to its current or next generation. -/
  | barrierArrival (id : Nat)
  /-- HELD_ARRIVAL_RELEASE (R200), an event: A held arrival is sent on once its object is initialised or its GEN reaches g - 1. -/
  | heldArrivalRelease (id : Nat)
  /-- GROUP_PARK (R186), an event: Once counters are zero and registers full, the group delivers pending faults or parks. -/
  | groupPark (core g : Nat)
  /-- CT_ARRIVE (R187), an event: Once its counters are zero, the CT delivers pending faults or counts as arrived. -/
  | ctArrive (core ctx : Nat)
  /-- EXCHANGE_TRANSFER_EXECUTE (R204), an event: The engine checks the transfer, moves its bytes or drops it with an exchange fault, and completes on CPY. -/
  | exchangeTransferExecute (core id : Nat)
  /-- XSYNC_STAGE_END (R209), an event: Once every CT context has reached xsync or xend and its transfers are complete, xadd contributions apply and the stage ends. -/
  | xsyncStageEnd (ctx : Nat)
  /-- MACQ_GRANT (R220), an event: The head waiter becomes owner when no owner exists. -/
  | macqGrant (core : Nat)
  /-- ENGINE_RELEASE (R221), an event: Ownership ends and the engine passes to a pre-emptor, the top suspended owner or the queue head. -/
  | engineRelease (core : Nat)
  /-- PREEMPTION (R233), an event: An eligible higher-class waiter takes the idle engine after the planes are spilled and zeroed. -/
  | preemption (core : Nat)
  /-- GANG_RENDEZVOUS (R223), an event: When every listed group has issued mgng, each takes the gang mask. -/
  | gangRendezvous (core wg : Nat)
  /-- JOINT_INSTRUCTION_RELEASE (R224), an event: When every gang member has latched the same instruction it executes once. -/
  | jointInstructionRelease (core wg : Nat)
  /-- PLANE_LOAD (R227), an event: The engine writes shadow-plane rows from the slice. -/
  | planeLoad (core : Nat)
  /-- PLANE_FLIP (R228), an event: In queue order, the active and shadow planes exchange. -/
  | planeFlip (core : Nat)
  /-- ACCUMULATION_STEP (R214), an event: The engine streams rows and accumulates into a bank in the fixed order. -/
  | accumulationStep (core : Nat)
  /-- ACCUMULATOR_OUTPUT (R230), an event: The engine converts and writes accumulator rows, optionally clearing them. -/
  | accumulatorOutput (core : Nat)
  /-- BANK_CLEAR (R231), an event: In queue order, the banks in the mask become +0. -/
  | bankClear (core : Nat)
  /-- GRAPH_RESULT (R241), an event: A graph instruction's results land from the snapshot and its block becomes full. -/
  | graphResult (core id : Nat)
  /-- TRACE_RESULT (R263), an event: A lane receives a candidate or its final hit or miss, and its block becomes full. -/
  | traceResult (core id : Nat)
  /-- REPACK_STEP (R266), an event: Once all listed groups have latched and drained RAY, surviving lanes are gathered into the low groups. -/
  | repackStep (core wg : Nat)
  /-- RAST_COMPLETE (R269), an event: Rasteriser results, helper lanes and the token land, and the registers become full. -/
  | rastComplete (core id : Nat)
  /-- TWB_COMPLETE (R271), an event: The tile hash is computed, rows are copied if changed, and the result registers fill. -/
  | twbComplete (core id : Nat)
  /-- SCENE_BUILD_COMPLETE (R259), an event: The build copies the tables and writes its status, or fails with an address fault. -/
  | sceneBuildComplete (core id : Nat)
  /-- FILL_COMPLETE (R281), an event: A fill finishes reading and verifying the image and the token becomes resident or failed. -/
  | fillComplete (core id : Nat)
  /-- FILL_QUEUE_SERVE (R282), an event: A waiting fill starts once n free slots can be gathered. -/
  | fillQueueServe (core : Nat)
  /-- RCLM_CLAIM_SERVED (R59), an event: A claim at the head of the queue gets its blocks when the pool and quota allow. -/
  | rclmClaimServed (core : Nat)
  /-- RCLM_CLAIM_FAIL (R61), an event: Waiting claims fail with 0 once every other resident group is parked, exited, claiming or detached. -/
  | rclmClaimFail (core : Nat)
  /-- TRAP_DELIVERY (R303), an event: A queued trap or event starts in the supervisor state of the CT context with TCAUSE, TSRC, TPC and TADDR set. -/
  | trapDelivery (core ctx : Nat)
  /-- SPLIT_URGENT (R326), an event: A split ready for 32 consecutive clocks without issuing becomes urgent. -/
  | splitUrgent (core g entry : Nat)
  /-- C_TO_X_BOUNDARY (R190), an event: When all members have arrived, PHASE advances, wings flip, lantern changes apply and exchange programs start. -/
  | cToXBoundary
  /-- X_TO_C_BOUNDARY (R191), an event: When every CT has executed xend and transfers are done, the boundary window runs and parked parties resume. -/
  | xToCBoundary
  /-- CONTEXT_SAVE (R337), an event: REQ = 1 writes each core's context image at the next window and releases the context. -/
  | contextSave (ctx : Nat)
  /-- CONTEXT_RESTORE (R338), an event: REQ = 2 restores the images, possibly relocated, at the next window. -/
  | contextRestore (ctx : Nat)
  /-- CONTEXT_RESET (R339), an event: REQ = 3 discards the context's state at the next window and resets its pool and scenes. -/
  | contextReset (ctx : Nat)
  /-- DEADLINE_MISSED (R340), an event: A request still pending DL clocks after its REQ write detaches the context, which is then reset. -/
  | deadlineMissed (ctx : Nat)
  /-- STRAGGLER_EVENT (R334), an event: At PSTO1 each straggling core takes a straggler event for each member context that has not arrived. -/
  | stragglerEvent
  /-- STRAGGLER_DETACH (R332), an event: At PSTO2 every member with a straggling core is detached. -/
  | stragglerDetach
  /-- QUEUE_ENABLE (R315), an event: Setting EN enables a launch queue, sets RIDX to WIDX and restarts its sequence number. -/
  | queueEnable (q : Nat) (v : DWord)
  /-- WIDX_WRITE (R316), an event: A write of WIDX makes new ring records available, clipped to the ring size. -/
  | widxWrite (q : Nat) (v : DWord)
  /-- EXPLIM_WRITE (R366), an event: A write of EXPLIM sets the exported GDDR 7 limit, clamped below the lantern region. -/
  | explimWrite (v : DWord)
  /-- RING_ENABLE_WRITE (R368), an event: A write to the phase ring EN takes effect in the next boundary window. -/
  | ringEnableWrite (v : DWord)
  /-- REGISTER_WRITE (R329), an event: A host write to a command-window register without behaviour of its own stores the value if in range. -/
  | registerWrite (off : Nat) (v : DWord)
  /-- RING_ARRIVE (R368), an event: The leader receives ARRIVE and, once all members have arrived, sends RELEASE. -/
  | ringArrive (node : BitVec 8)
  /-- RING_RELEASE (R368), an event: A member that receives RELEASE runs its boundary. -/
  | ringRelease
  /-- RING_TIMEOUT (R369), an event: At RTO the leader drops the members that have not arrived and releases the rest. -/
  | ringTimeout
  /-- RING_DROP (R369), an event: A device that receives DROP sets DROP and clears EN. -/
  | ringDrop
  /-- FABRIC_ACCESS (R366), an event: A received fabric access reaches the command window or exported GDDR 7, or is refused. -/
  | fabricAccess (a : FabricAccess)
  /-- POWER_ON_RESET (R371), an event: The management core verifies images, configures, self-tests and brings the device up, or enters the safe talkative state. -/
  | powerOnReset (b : BootInputs)
  /-- ATTESTATION_REQUEST (R377), an event: Returns a report signed with the identity key, with measurements, self-test result and nonce. -/
  | attestationRequest (nonce : List Byte)
  /-- SUPPLY_DROOP_EVENT (R323), an event: A supply-droop event on a core adds to that core's droop count D, which placement scores read over the last 2^20 clocks. -/
  | supplyDroopEvent (core : Nat)
  deriving DecidableEq, Repr

end Sys2Proof
end

