-- ==== Sys2Proof/Machine/Fields.lean ====
section
/-! DEFINITION. Named fields inside instruction words, and the field checks of step 3 of Table 2.16 (02 R46): which
FN values are assigned, which fields must be zero, which guard and which block fields are allowed. -/
namespace Sys2Proof.Machine

/-- Bits [lo + n - 1 : lo] of a value, as a number. -/
def bits {w : Nat} (x : BitVec w) (lo n : Nat) : Nat := (x.extractLsb' lo n).toNat

/-! Guards. -/

/-- GNG is a must-be-zero bit when GRD = 0 (R34). -/
def guardOk (g : Guard) : Bool := !(g.neg && g.reg == 0#4)
/-- GRD and GNG are zero, as R34 asks of some instructions. -/
def noGuard (g : Guard) : Bool := !g.neg && g.reg == 0#4

/-! Operands. -/

/-- The operand field is all zero (R32). -/
def zeroS (s : Src) : Bool := !s.fe && s.reg == 0#9
/-- An operand field that names a mask: REG[8:4] and FE are zero (R50). -/
def maskS (s : Src) : Bool := !s.fe && decide (s.reg.toNat < 16)
/-- A D field that names a mask: D[8:4] is zero (R32). -/
def maskD (d : BitVec 9) : Bool := decide (d.toNat < 16)

/-- The instruction is V64. -/
def isV64 (o : Op) : Bool := match o.ext with | .none => true | _ => false
/-- The instruction is V96. -/
def isV96 (o : Op) : Bool := match o.ext with | .w2 _ => true | _ => false
/-- The instruction is E128. -/
def isE128 (o : Op) : Bool := match o.ext with | .w23 _ _ => true | _ => false
/-- Word 2, or 0. -/
def word2 (o : Op) : Word := match o.ext with | .none => 0 | .w2 w => w | .w23 w _ => w
/-- Word 3, or 0. -/
def word3 (o : Op) : Word := match o.ext with | .w23 _ w => w | _ => 0
/-- The 64-bit immediate of an E128 instruction (R41). -/
def imm64 (o : Op) : DWord := word3 o ++ word2 o
/-- MOD is zero (R35). -/
def noMod (o : Op) : Bool := !o.na && !o.nc
/-- FN[7], the immediate bit of rows 0x1, 0x3, 0x4, smov and fmtset (R30). -/
def immBit (o : Op) : Bool := o.fn.getLsbD 7

/-! Row 0x1 (Table 3.3) and row 0x3 (Table 6.1) FN fields. -/
/-- SUB, FN[6:3]. -/
def subF (o : Op) : Nat := bits o.fn 3 4
/-- SAT, FN[2]. -/
def satF (o : Op) : Bool := o.fn.getLsbD 2
/-- U, FN[1]. -/
def unsF (o : Op) : Bool := o.fn.getLsbD 1
/-- W, FN[0]. -/
def w32F (o : Op) : Bool := o.fn.getLsbD 0

/-! Row 0x4 FN fields (Table 6.3). -/
/-- TYPE, FN[6:5]. -/
def typeF (o : Op) : Nat := bits o.fn 5 2
/-- SUB, FN[2:0]. -/
def fsubF (o : Op) : Nat := bits o.fn 0 3

/-! Cross-lane block (Table 2.9). -/
/-- MODE. -/
def xMode (w : Word) : Nat := bits w 0 3
/-- K. -/
def xK (w : Word) : Nat := bits w 3 7
/-- FILL. -/
def xFill (w : Word) : Bool := w.getLsbD 10
/-- TARGET. -/
def xTarget (w : Word) : Bool := w.getLsbD 11

/-- R40: the cross-lane blocks that are no illegal encoding, for an instruction that does or does not read B. -/
def xBlockOk (readsB : Bool) (w : Word) : Bool :=
  bits w 12 20 == 0 && xMode w != 7
    && (xMode w != 0 || w == 0)
    && (!(decide (3 ≤ xMode w ∧ xMode w ≤ 6)) || !xFill w)
    && (xMode w != 6 || (xK w == 0 && !xTarget w && !readsB))
    && (!xTarget w || readsB)

/-! Row 0x5 control word (Table 5.7). -/
/-- X. -/
def cwX (w : Word) : Bool := w.getLsbD 26
/-- F. -/
def cwF (w : Word) : Bool := w.getLsbD 25
/-- SRN. -/
def cwSRN (w : Word) : Nat := bits w 20 5
/-- SR. -/
def cwSR (w : Word) : Bool := w.getLsbD 19
/-- SAT. -/
def cwSAT (w : Word) : Bool := w.getLsbD 18
/-- RM. -/
def cwRM (w : Word) : Nat := bits w 16 2
/-- SC. -/
def cwSC (w : Word) : BitVec 8 := w.extractLsb' 8 8
/-- DC. -/
def cwDC (w : Word) : BitVec 8 := w.extractLsb' 0 8

/-- R109: the control words of row 0x5 that are no illegal encoding. -/
def cwOk (w : Word) : Bool :=
  bits w 27 5 == 0 && codeValid (cwSC w) && codeValid (cwDC w)
    && (if cwF w then bits w 16 9 == 0
        else if cwSR w then decide (1 ≤ cwSRN w ∧ cwSRN w ≤ 16) else cwSRN w == 0)
    && (!cwX w || codeIsF8 (cwSC w) || codeIsF8 (cwDC w))

/-! Sweep block (Table 2.11). -/
/-- ITER. -/
def swIter (o : Op) : Nat := bits (word2 o) 0 12
/-- SA. -/
def swSA (o : Op) : Int := ((word2 o).extractLsb' 12 12).toInt
/-- SB. -/
def swSB (o : Op) : Int := ((word3 o).extractLsb' 0 12).toInt
/-- SD. -/
def swSD (o : Op) : Int := ((word3 o).extractLsb' 12 12).toInt
/-- TYPE of a sweep, FN[6:4] (Table 8.2). -/
def swType (o : Op) : Nat := bits o.fn 4 3
/-- SAT of a sweep. -/
def swSat (o : Op) : Bool := o.fn.getLsbD 3
/-- SUB of a sweep. -/
def swSub (o : Op) : Nat := bits o.fn 0 3
/-- Element width of a sweep TYPE in bytes (Table 8.3). -/
def swWidth (t : Nat) : Nat :=
  match t with | 3 => 2 | 4 => 2 | 5 => 1 | 6 => 8 | _ => 4

/-! Engine block (Table 2.12). -/
/-- CNT. -/
def ebCnt (o : Op) : Nat := bits (word2 o) 0 24
/-- REC. -/
def ebRec (o : Op) : BitVec 8 := (word2 o).extractLsb' 24 8
/-- BAR. -/
def ebBar (o : Op) : Nat := bits (word3 o) 0 8
/-- BV. -/
def ebBV (o : Op) : Bool := (word3 o).getLsbD 8
/-- WH. -/
def ebWH (o : Op) : Nat := bits (word3 o) 9 6
/-- WV. -/
def ebWV (o : Op) : Bool := (word3 o).getLsbD 15

/-- R42 and R32: an engine block whose unused fields are zero; C is zero when CNT gives the count. -/
def ebOk (o : Op) : Bool :=
  isE128 o && bits (word3 o) 16 16 == 0 && (ebCnt o == 0 || zeroS o.c)
    && (ebWV o || ebWH o == 0) && (ebBV o || ebBar o == 0)

/-! Special registers (Table 3.2). -/
/-- The kind of a special register. -/
inductive SprKind where
  | mask | vector | scalar
  deriving DecidableEq, Repr

/-- Table 3.2: the kind of a listed special register. -/
def sprKind (n : Nat) : Option SprKind :=
  if n ≤ 2 then some .mask else if n = 3 then some .vector
  else if (4 ≤ n ∧ n ≤ 8) ∨ (0x0C ≤ n ∧ n ≤ 0x17) then some .scalar else none
/-- Table 3.2: the special registers marked W. -/
def sprWritable (n : Nat) : Bool := n == 0 || n == 4 || n == 5

/-- R94, R51: an FMT value with a nonzero [23:19], or with SR = 1 and SRN outside 1..16, is refused. -/
def fmtOk (f : Word) : Bool :=
  bits f 19 5 == 0 && (!f.getLsbD 13 || decide (1 ≤ bits f 14 5 ∧ bits f 14 5 ≤ 16))

/-- R251: a radius that is NaN, infinite or has its sign bit set is out of range. -/
def rhoOk (w : Word) : Bool := !w.getLsbD 31 && bits w 23 8 != 255

/-! Row checks. -/

/-- A CSR that csrd may name (21 Table 21.1); any other number is an illegal encoding (R305). -/
def csrListed (n : Nat) : Bool :=
  decide (n ≤ 0x005 ∨ (0x010 ≤ n ∧ n ≤ 0x015) ∨ (0x020 ≤ n ∧ n ≤ 0x025) ∨ (0x040 ≤ n ∧ n ≤ 0x043) ∨ n = 0x045 ∨ n = 0x046
    ∨ (0x080 ≤ n ∧ n < 0x0C0))
/-- A CSR that cswr may name (21 Table 21.1, R305). -/
def csrWritable (n : Nat) : Bool :=
  csrListed n && !(n == 0x001 || n == 0x002 || n == 0x004 || n == 0x005 || (decide (0x010 ≤ n) && decide (n ≤ 0x014))
    || n == 0x020)

/-- Row 0x1: formats and FN (R62, Table 3.4). c says what C is: 0 unused, 1 a mask, 2 a register. -/
def urow (o : Op) (subs : Nat → Bool) (sat uns : Bool) (c : Nat) : Bool :=
  guardOk o.g && noMod o
    && (if immBit o then !isV64 o && zeroS o.b else isV64 o)
    && subs (subF o) && (sat || !satF o) && (uns || !unsF o)
    && (match c with | 0 => zeroS o.c | 1 => maskS o.c | _ => true)

/-- Row 0x3: formats and FN (R118, Table 6.2). Where an entry says that B must be zero, B may still name the index register of
idx mode (R40, log 93: DEDUCED). -/
def irow (o : Op) (readsB : Bool) (subs : Nat → Bool) (sat uns : Bool) (c : Nat) : Bool :=
  guardOk o.g && noMod o && !w32F o
    && (if immBit o then isV96 o && zeroS o.b && readsB
        else match o.ext with
          | .none => readsB || zeroS o.b
          | .w2 w => xBlockOk readsB w && (readsB || xMode w == 6 || zeroS o.b)
          | .w23 _ _ => false)
    && subs (subF o) && (sat || !satF o) && (uns || !unsF o)
    && (match c with | 0 => zeroS o.c | 1 => maskS o.c | _ => true)

/-- Row 0x4: formats and FN (R120, Table 6.4); idx mode as in row 0x3 (log 93: DEDUCED). -/
def frow (o : Op) (readsB readsC packed : Bool) (subMax : Nat) : Bool :=
  guardOk o.g && (readsC || !o.nc) && bits o.fn 3 2 == 0
    && (if immBit o then isV96 o && zeroS o.b && readsB
        else match o.ext with
          | .none => readsB || zeroS o.b
          | .w2 w => xBlockOk readsB w && (readsB || xMode w == 6 || zeroS o.b)
          | .w23 _ _ => false)
    && (readsC || zeroS o.c) && decide (typeF o < 3) && (packed || typeF o == 0) && decide (fsubF o ≤ subMax)

/-- A V64 instruction with MOD zero: which of A, B, C, D it uses, and its FN test. -/
def vrow (o : Op) (a b c d : Bool) (fn : Nat → Bool) : Bool :=
  guardOk o.g && isV64 o && noMod o && (a || zeroS o.a) && (b || zeroS o.b) && (c || zeroS o.c)
    && (d || o.d == 0#9) && fn o.fn.toNat

/-- The FN of a count held in FN[5:0] or, with FN[7] = 1, in register A (rgiv, rclm, wfree). -/
def cntFn (o : Op) : Bool :=
  if immBit o then bits o.fn 0 7 == 0 else bits o.fn 6 1 == 0 && zeroS o.a

/-- Row 0x5 (R109): V96 with a well-formed control word, MOD and C zero. -/
def crow (o : Op) : Bool :=
  guardOk o.g && isV96 o && noMod o && zeroS o.c && cwOk (word2 o)
    && (cwF (word2 o) || cwSR (word2 o) || zeroS o.b)

/-- Row 0x8 (R171): the sweep block's zero bits, ITER, and for each stream its use or zero fields and its step. -/
def srow (o : Op) (a b c : Bool) (types : Nat → Bool) (subs : Nat → Bool) (sat : Bool) : Bool :=
  guardOk o.g && isE128 o && noMod o && bits (word3 o) 24 8 == 0 && bits (word2 o) 24 8 == 0 && swIter o != 0
    && !o.fn.getLsbD 7 && types (swType o) && subs (swSub o)
    && (!swSat o || (sat && (swType o == 1 || swType o == 2)))
    && (if a then swSA o % swWidth (swType o) == 0 else zeroS o.a && swSA o == 0)
    && (if b then swSB o % swWidth (swType o) == 0 else zeroS o.b && swSB o == 0)
    && (c || zeroS o.c) && swSD o % swWidth (swType o) == 0

/-- An M64 instruction (R38) with its FN test. -/
def mrow (o : M64) (fn : Nat → Bool) : Bool := guardOk o.g && fn o.fn.toNat

/-- Row 0xB: the gang bit forbids a guard (R34, R216). -/
def gangGuard (o : Op) : Bool := !immBit o || noGuard o.g

/-- Row 0xB with an engine block: WV = BV = 0, word 3 zero, the count within its limit (R216, R217). -/
def mblock (o : Op) (lim : Nat) : Bool :=
  guardOk o.g && ebOk o && noMod o && word3 o == 0 && decide (ebCnt o ≤ lim) && gangGuard o

/-- Row 0xA transfers (R203): B, FN, WV and BV as Table 9.2 allows. -/
def xrow (o : Op) (b wv : Bool) (fnMax : Nat) : Bool :=
  guardOk o.g && ebOk o && noMod o && (b || zeroS o.b) && decide (o.fn.toNat ≤ fnMax) && ebRec o == 0#8
    && (wv || !ebWV o) && (!ebBV o || ebWV o)

/-- gfrm (Table 13.6): op in FN[1:0], R in FN[7], the operand in word 2 or register A. -/
def gfrow (o : Op) (op : Nat) : Bool :=
  guardOk o.g && isV96 o && noMod o && o.d == 0#9 && zeroS o.b && zeroS o.c && bits o.fn 0 2 == op && bits o.fn 2 5 == 0
    && (if immBit o then word2 o == 0 else zeroS o.a)

/-- Step 3 of Table 2.16 for every instruction: true when no field check fails. Event rows have no fields. -/
def fieldsOk : Instr → Bool
  | .nop o => noGuard o.g && o.fn == 0#8 && o.d == 0#9 && zeroS o.a && zeroS o.b && zeroS o.c && noMod o && isV64 o
  | .shortPad => true
  | .bra o => guardOk o.g && o.fn == 0#8 && o.d == 0#9
  | .join o => noGuard o.g && vrow o false false false false (· == 0)
  | .brk o => vrow o false false false false (fun n => decide (1 ≤ n ∧ n ≤ 7))
  | .exit o => vrow o false false false false (· == 0)
  | .call o => guardOk o.g && o.fn == 0#8 && o.j16 == 0#16
  | .callo o => guardOk o.g && bits o.fn 2 6 == 0 && (if o.fn.getLsbD 0 then o.imm == 0#22 else zeroS o.a)
  | .ret o => vrow o true false false false (· == 0)
  | .loop o => guardOk o.g && bits o.d 2 7 == 0 && decide (o.fn.toNat ≤ 1)
      && (!o.fn.getLsbD 0 || !zeroS o.a)
  | .wait o => guardOk o.g && decide (o.fn.toNat ≤ 4) && o.d == 0#9 && zeroS o.a && decide (o.imm.toNat ≤ 63)
  | .trap o => guardOk o.g && o.fn == 0#8 && o.d == 0#9 && zeroS o.a && bits o.imm 16 6 == 0
  | .brkpt o => vrow o false false false false (· == 0)
  | .yield o => vrow o false false false false (· == 0)
  | .dqPush o => vrow o true false false false (· == 0)
  | .dqPop o => vrow o false false false true (· == 1)
  | .sprd o => guardOk o.g && o.fn == 0#8 && zeroS o.a && bits o.imm 8 14 == 0
      && (match sprKind (bits o.imm 0 8) with | some .mask => maskD o.d | some _ => true | none => false)
  | .spwr o => guardOk o.g && o.fn == 1#8 && o.d == 0#9 && bits o.imm 8 14 == 0 && sprWritable (bits o.imm 0 8)
      && (bits o.imm 0 8 != 0 || maskS o.a)
  | .fmtset o => guardOk o.g && noMod o && bits o.fn 0 7 == 0 && o.d == 0#9 && zeroS o.b && zeroS o.c
      && (if immBit o then isV96 o && zeroS o.a && fmtOk (word2 o) else isV64 o)
  | .sadd o => urow o (· == 0) true true 0
  | .ssub o => urow o (· == 0) true true 0
  | .smul o => urow o (fun n => decide (n ≤ 1)) (subF o == 0) true 0
  | .sdiv o => urow o (fun n => decide (n ≤ 1)) false true 0
  | .sand o => urow o (· == 0) false false 0
  | .sor o => urow o (· == 0) false false 0
  | .sxor o => urow o (· == 0) false false 0
  | .sshl o => urow o (· == 0) false false 0
  | .sshr o => urow o (· == 0) false true 0
  | .smin o => urow o (· == 0) false true 0
  | .smax o => urow o (· == 0) false true 0
  | .scmp o => urow o (fun n => decide (n ≤ 5)) false true 0 && maskD o.d
  | .ssel o => urow o (· == 0) false false 1
  | .sbfx o => urow o (· == 0) false true 0
  | .sbfi o => urow o (· == 0) false false 2
  | .sbit o => urow o (fun n => decide (n ≤ 3)) false false 0 && !immBit o && zeroS o.b
  | .smov o => guardOk o.g && noMod o && bits o.fn 0 7 == 0 && zeroS o.b && zeroS o.c
      && (if immBit o then !isV64 o && zeroS o.a else isV64 o)
  | .slea o => mrow o (· == 0)
  | .sld o => mrow o (fun n => decide (n ≤ 6))
  | .sst o => mrow o (fun n => decide (n ≤ 3))
  | .vtos o => vrow o true true false true (fun _ => true) && (if immBit o then bits o.fn 0 7 == 0 else zeroS o.b)
  | .mtos o => vrow o true false false true (fun n => decide (n ≤ 1)) && maskS o.a
  | .stom o => vrow o true true false true (· == 0) && maskD o.d
  | .sclk o => vrow o false false false true (· == 0)
  | .sid o => vrow o false false false true (fun n => decide (n ≤ 7))
  | .iadd o => irow o true (· == 0) true true 0
  | .isub o => irow o true (· == 0) true true 0
  | .imul o => irow o true (fun n => decide (n ≤ 1)) (subF o == 0) true 0
  | .imad o => irow o true (· == 0) true true 2
  | .iand o => irow o true (· == 0) false false 0
  | .ior o => irow o true (· == 0) false false 0
  | .ixor o => irow o true (· == 0) false false 0
  | .ishl o => irow o true (· == 0) false false 0
  | .ishr o => irow o true (· == 0) false true 0
  | .imin o => irow o true (· == 0) false true 0
  | .imax o => irow o true (· == 0) false true 0
  | .icmp o => irow o true (fun n => decide (n ≤ 5)) false true 0 && maskD o.d
  | .isel o => irow o true (· == 0) false false 1
  | .ibfx o => irow o true (· == 0) false true 0
  | .ibfi o => irow o true (· == 0) false false 2
  | .ibit o => irow o false (fun n => decide (n ≤ 3)) false false 0
  | .fadd o => frow o true false true 0
  | .fsub o => frow o true false true 0
  | .fmul o => frow o true false true 0
  | .fma o => frow o true true true 0
  | .fmin o => frow o true false true 0
  | .fmax o => frow o true false true 0
  | .fcmp o => frow o true false false 7 && maskD o.d
  | .fdiv o => frow o true false false 0
  | .frcp o => frow o false false false 0
  | .frsq o => frow o false false false 0
  | .fsqrt o => frow o false false false 0
  | .fex2 o => frow o false false false 0
  | .flg2 o => frow o false false false 0
  | .fsin o => frow o false false false 1
  | .frnd o => frow o false false false 4
  | .fdp3 o => frow o true false false 0 && isV64 o && !immBit o
  | .cvt o => crow o && bits o.fn 5 3 == 0
      && (let sw := codeBits (cwSC (word2 o)); let sel := bits o.fn 0 2
          if sw == 8 then true else if sw == 16 then decide (sel ≤ 1) else sel == 0)
      && (let dw := codeBits (cwDC (word2 o)); let dpos := bits o.fn 2 2
          if o.fn.getLsbD 4 then (if dw == 8 then true else if dw == 16 then decide (dpos ≤ 1) else false)
          else dpos == 0)
  | .qpack o => crow o && o.fn == 0#8 && cwSC (word2 o) == 0x09#8
      && (codeBits (cwDC (word2 o)) == 8 || codeBits (cwDC (word2 o)) == 16)
  | .qunpk o => crow o && o.fn == 0#8 && zeroS o.b && cwDC (word2 o) == 0x09#8
      && (codeBits (cwSC (word2 o)) == 8 || codeBits (cwSC (word2 o)) == 16) && !cwSR (word2 o) && cwSRN (word2 o) == 0
  | .fscl o => vrow o true true false true (· == 0)
  | .fcls o => vrow o true false false true (fun _ => codeIsFloat o.fn)
  | .ffrx o => vrow o true false false true (fun n => decide (n ≤ 1))
  | .shfl o => guardOk o.g && noMod o && o.fn == 0#8 && zeroS o.c
      && (match o.ext with
          | .none => zeroS o.b
          | .w2 w => xBlockOk false w && (xMode w == 6 || zeroS o.b)
          | .w23 _ _ => false)
  | .lrot o => vrow o true true false true (fun _ => true) && (if immBit o then zeroS o.b else bits o.fn 0 7 == 0)
  | .lbc o => vrow o true true false true (fun _ => true) && (if immBit o then zeroS o.b else bits o.fn 0 7 == 0)
  | .qswp o => vrow o true false false true (fun n => decide (1 ≤ n ∧ n ≤ 3))
  | .qddx o => vrow o true false false true (fun n => decide (n ≤ 1))
  | .qddy o => vrow o true false false true (fun n => decide (n ≤ 1))
  | .vote o => vrow o true false false true (fun n => decide (n ≤ 3)) && maskD o.d && maskS o.a
  | .mlog o => vrow o true true false true (fun n => decide (n ≤ 5)) && maskD o.d && maskS o.a
      && maskS o.b && (decide (o.fn.toNat ≤ 3) || zeroS o.b)
  | .mcnt o => vrow o true false false true (· == 0) && maskS o.a
  | .mfst o => vrow o true false false true (fun n => decide (n ≤ 1)) && maskS o.a
  | .red o => vrow o true false false true (fun n => decide (n ≤ 7))
  | .scan o => vrow o true false false true (fun n => decide (n ≤ 15))
  | .mget o => vrow o true false false true (fun n => decide (n ≤ 1)) && maskS o.a
  | .mset o => vrow o true false false true (· == 0) && maskD o.d
  | .lid o => vrow o false false false true (fun n => decide (n ≤ 3))
  | .lpak o => vrow o true true false true (fun n => decide (n ≤ 1)) && maskS o.b
  | .ld o => mrow o (fun n => decide (n ≤ 6))
  | .st o => mrow o (fun n => decide (n ≤ 4))
  | .ldw o => mrow o (fun n => decide (n ≤ 5))
  | .stw o => mrow o (fun n => decide (n ≤ 3))
  | .ldb o => guardOk o.g && isV96 o && noMod o && o.fn == 0#8 && zeroS o.b && zeroS o.c && bits (word2 o) 10 22 == 0
  | .stb o => guardOk o.g && isV96 o && noMod o && o.fn == 0#8 && zeroS o.b && bits (word2 o) 10 22 == 0
  | .ldc o => mrow o (fun n => decide (n ≤ 6))
  | .lda o => mrow o (fun _ => bits o.fn 4 4 == 0 && (bits o.fn 0 3 == 4 || bits o.fn 0 3 == 5))
  | .stl o => mrow o (fun _ => bits o.fn 4 4 == 0 && (bits o.fn 0 3 == 2 || bits o.fn 0 3 == 3))
  | .fence o => vrow o false false false false (fun n => decide (n ≤ 1))
  | .atom o => mrow o (fun _ => decide (bits o.fn 0 4 ≤ 9))
  | .acas o => mrow o (fun _ => bits o.fn 0 4 == 0)
  | .afadd o => mrow o (fun _ => decide (bits o.fn 3 2 ≤ 2) && bits o.fn 0 3 == 0)
  | .tclr o => vrow o false false false true (· == 0)
  | .swadd o => srow o true true false (fun t => decide (t ≤ 4)) (· == 0) true
  | .swmul o => srow o true true false (fun t => decide (t ≤ 4)) (· == 0) true
  | .swfma o => srow o true true true (fun t => decide (t ≤ 4)) (· == 0) true
  | .swmax o => srow o true true false (fun t => decide (t ≤ 4)) (· == 0) false
  | .swmin o => srow o true true false (fun t => decide (t ≤ 4)) (· == 0) false
  | .swcvt o => guardOk o.g && isE128 o && noMod o && bits (word3 o) 24 8 == 0 && bits (word2 o) 24 8 == 0
      && swIter o != 0 && o.fn == 0#8
  | .swmov o => srow o true false false (fun t => t == 0 || t == 3 || t == 5 || t == 6) (· == 0) false
  | .swfill o => srow o false false true (fun t => t == 0 || t == 3 || t == 5 || t == 6) (· == 0) false
  | .swred o => srow o true false false (fun t => decide (t ≤ 4)) (fun n => decide (n ≤ 2)) false && swSD o == 0
  | .swsel o => srow o true true true (fun t => decide (t ≤ 4)) (fun n => decide (n ≤ 5)) false
  | .cpy o => guardOk o.g && ebOk o && noMod o && zeroS o.b && bits o.fn 6 2 == 0 && bits o.fn 0 4 == 0
      && (ebWV o || o.fn == 0#8) && ebRec o == 0#8 && (!ebBV o || ebWV o)
  | .cpyx o => guardOk o.g && ebOk o && noMod o && zeroS o.b && bits o.fn 3 5 == 0 && decide (bits o.fn 0 2 ≤ 1)
      && word3 o == 0 && (if bits o.fn 0 2 == 0 then zeroS o.a else o.d == 0#9)
  | .xst o => guardOk o.g && ebOk o && noMod o && zeroS o.b && bits o.fn 6 2 == 0 && bits o.fn 1 3 == 0
      && decide (ebCnt o ≤ 8) && ebWV o && ebRec o == 0#8
  | .wbind o => guardOk o.g && ebOk o && noMod o && zeroS o.b && o.d == 0#9 && o.fn == 0#8 && ebWV o && ebRec o == 0#8
  | .wfree o => vrow o true false false false (fun _ => cntFn o)
  | .bini o => vrow o true true false false (· == 0)
  | .barv o => vrow o true false false true (fun n => decide (n ≤ 3)) && noGuard o.g
  | .bwt o => vrow o true true false false (· == 0) && noGuard o.g
  | .wcnt o => vrow o false false false true (fun n => decide (n ≤ 4))
  | .parv o => noGuard o.g && o.fn == 0#8 && o.d == 0#9 && o.j16 == 0#16
  | .xmov o => xrow o false false 0
  | .xput o => xrow o false false 0
  | .xmc o => xrow o true true 0
  | .xgm o => xrow o false false 0
  | .xadd o => xrow o false false 3
  | .xend o => vrow o false false false false (· == 0) && noGuard o.g
  | .pcnt o => vrow o false false false true (· == 0)
  | .xsync o => vrow o false false false false (· == 0) && noGuard o.g
  | .macq o => vrow o true false false false (fun _ => bits o.fn 4 3 == 0 && bits o.fn 0 4 != 0) && gangGuard o
  | .mrel o => vrow o false false false false (fun _ => bits o.fn 0 7 == 0) && gangGuard o
  | .mgng o => vrow o true false false false (· == 0) && noGuard o.g
  | .mlds o => mblock o 256 && bits o.fn 0 7 == 0 && o.d == 0#9 && ebRec o == 0#8
  | .mflp o => vrow o false false false false (fun _ => bits o.fn 0 7 == 0) && gangGuard o
  | .mstr o => mblock o 128 && bits o.fn 0 3 == 0 && o.d == 0#9 && ebRec o == 0#8
  | .mout o => mblock o 128 && bits o.fn 0 2 == 0
      && (ebRec o == 0x07#8 || ebRec o == 0x08#8 || ebRec o == 0x09#8 || codeIsF8 (ebRec o))
  | .mclr o => vrow o false false false false (fun _ => bits o.fn 4 3 == 0 && bits o.fn 0 4 != 0) && gangGuard o
  | .mcfg o => guardOk o.g && isV96 o && noMod o && bits o.fn 0 7 == 0 && o.d == 0#9 && zeroS o.a && zeroS o.b
      && zeroS o.c && bits (word2 o) 3 29 == 0 && bits (word2 o) 0 2 != 3
      && !(bits (word2 o) 0 2 == 2 && (word2 o).getLsbD 2) && gangGuard o
  | .mprm o => vrow o false false false false (fun n => decide (n ≤ 3))
  | .gapp o => vrow o true false false true (· == 0)
  | .grd o => vrow o true false false true (fun _ => decide (bits o.fn 0 4 + (bits o.fn 4 4 + 1) ≤ 16))
  | .gcon o => vrow o true true false true (· == 0)
  | .gwgt o => vrow o true true true true (fun n => decide (n ≤ 1))
  | .gmrg o => vrow o true false false true (· == 0)
  | .grwt o => vrow o true true false true (· == 0)
  | .gret o => vrow o true false false false (· == 0)
  | .gkep o => vrow o true false false false (fun n => decide (n ≤ 1))
  | .gfrmRho o => gfrow o 0 && (immBit o || rhoOk (word2 o))
  | .gfrmOpen o => gfrow o 1 && (immBit o || decide ((word2 o).toNat ≤ 31))
  | .gfrmRel o => gfrow o 2
  | .gsta o => vrow o true false false true (fun n => decide (n ≤ 7)) && (o.fn == 7#8 || zeroS o.a)
  | .trc o => vrow o true true false true (fun n => decide (n ≤ 1))
  | .tnx o => vrow o true false false true (· == 0)
  | .rpak o => noGuard o.g && isE128 o && noMod o && o.fn == 0#8 && zeroS o.a && zeroS o.b && zeroS o.c
  | .rast o => vrow o true true true true (fun n => decide (n ≤ 1))
  | .srat o => vrow o true true true true (fun _ => bits o.fn 6 2 == 0 && decide (bits o.fn 0 3 ≤ 4 ∧ bits o.fn 3 3 ≤ 4))
  | .twb o => vrow o true true true true (fun n => decide (n ≤ 3))
  | .scnb o => guardOk o.g && ebOk o && noMod o && o.d == 0#9 && o.fn == 0#8 && word3 o == 0 && ebRec o == 0#8
      && decide (ebCnt o ≤ 128)
  | .scnp o => vrow o true false false false (fun n => decide (n ≤ 1))
  | .ovld o => vrow o true false false false (· == 0)
  | .ovq o => vrow o true false false true (fun n => decide (n ≤ 1)) && (o.fn == 0#8 || zeroS o.a)
  | .ovev o => vrow o true false false false (· == 0)
  | .rgiv o => vrow o true false false false (fun _ => cntFn o)
  | .rclm o => vrow o true false false true (fun _ => cntFn o)
  | .rpol o => vrow o false false false true (· == 0)
  | .lnch o => vrow o true true false true (· == 0)
  | .tret o => vrow o false false false false (· == 0)
  | .csrd o => guardOk o.g && o.fn == 0#8 && zeroS o.a && bits o.imm 12 10 == 0 && csrListed (bits o.imm 0 12)
  | .cswr o => guardOk o.g && o.fn == 0#8 && o.d == 0#9 && bits o.imm 12 10 == 0 && csrWritable (bits o.imm 0 12)
  | .tinv o => vrow o true true false false (fun n => decide (n ≤ 2)) && (o.fn == 0#8 || zeroS o.a)
      && (o.fn != 2#8 || zeroS o.b)
  | .ctsv o => vrow o true true false true (· == 0)
  | .ctld o => vrow o true true false true (· == 0)
  | .pdetDet o => vrow o true false false false (· == 0)
  | .pdetAtt o => vrow o true false false false (· == 1)
  | .halt o => vrow o false false false false (· == 0)
  | .vtosResult _ _ => true
  | .loadDataReturn _ _ => true
  | .atomicResultReturn _ _ => true
  | .sweepExecute _ _ => true
  | .copyExecute _ _ => true
  | .depositArrival _ => true
  | .depositAck _ => true
  | .barrierArrival _ => true
  | .heldArrivalRelease _ => true
  | .groupPark _ _ => true
  | .ctArrive _ _ => true
  | .exchangeTransferExecute _ _ => true
  | .xsyncStageEnd _ => true
  | .macqGrant _ => true
  | .engineRelease _ => true
  | .preemption _ => true
  | .gangRendezvous _ _ => true
  | .jointInstructionRelease _ _ => true
  | .planeLoad _ => true
  | .planeFlip _ => true
  | .accumulationStep _ => true
  | .accumulatorOutput _ => true
  | .bankClear _ => true
  | .graphResult _ _ => true
  | .traceResult _ _ => true
  | .repackStep _ _ => true
  | .rastComplete _ _ => true
  | .twbComplete _ _ => true
  | .sceneBuildComplete _ _ => true
  | .fillComplete _ _ => true
  | .fillQueueServe _ => true
  | .rclmClaimServed _ => true
  | .rclmClaimFail _ => true
  | .trapDelivery _ _ => true
  | .splitUrgent _ _ _ => true
  | .cToXBoundary => true
  | .xToCBoundary => true
  | .contextSave _ => true
  | .contextRestore _ => true
  | .contextReset _ => true
  | .deadlineMissed _ => true
  | .stragglerEvent => true
  | .stragglerDetach => true
  | .queueEnable _ _ => true
  | .widxWrite _ _ => true
  | .explimWrite _ => true
  | .ringEnableWrite _ => true
  | .registerWrite _ _ => true
  | .ringArrive _ => true
  | .ringRelease => true
  | .ringTimeout => true
  | .ringDrop => true
  | .fabricAccess _ => true
  | .powerOnReset _ => true
  | .attestationRequest _ => true
  | .supplyDroopEvent _ => true

end Sys2Proof.Machine
end

