-- ==== Sys2Proof/Config.lean ====
section
/-! DEFINITION. What an implementation fixes and what the spec leaves open: constants without a body, so that nothing can
be proved of their values. -/
namespace Sys2Proof

/-- The clocks that the n-th step of the model takes (03 R70: the clock counts; the spec gives no instruction's cost). -/
opaque Config.stepClocks : Nat → Nat
/-- 08 R177: in operation n, byte i of a copy between two device-virtual addresses of one memory is the old one. -/
opaque Config.copyOld : Nat → Nat → Bool
/-- 09 R202: transfer n reads byte i, which another transfer or an sst of its stage writes, as it was before. -/
opaque Config.stageOld : Nat → Nat → Bool
/-- 11 R221, 23 R335: element j of the rows that a discarded matrix operation n would have written to registers. -/
opaque Config.discarded : Nat → Nat → Word
/-- 11 R234, 24 R349: byte i of the planes that reload n takes from bank words in error. -/
opaque Config.lostByte : Nat → Nat → Byte
/-- 15 R263: what a ray unit does where the order of traversal decides, in trace n of a lane, choice k. -/
opaque Config.traceOrder : Nat → Nat → Nat → Nat
/-- 25 R353: bytes of lantern storage that a scene slot needs for a capacity. -/
opaque Config.sceneBytes : Nat → Nat
/-- 21 R313: how long image n is beyond its header, and its bytes there. -/
opaque Config.imageLen : Nat → Nat
/-- 21 R313: byte i of image n beyond its header. -/
opaque Config.imageByte : Nat → Nat → Byte
/-- 22 R323: the temperature of a core in degrees Celsius, at sample n. -/
opaque Config.temperature : Nat → Nat → BitVec 8
/-- 26 R365, R366: in access n of the model, a node accepts an access of a length at an offset, for a write or a read. -/
opaque Config.accepts : Nat → Nat → Nat → Nat → Bool → Bool
/-- 27 R374: what the self-test log records for a test, by kind (0 core, 1 slice, 2 channel pair, 3 torus link, 4 port), unit
and result. -/
opaque Config.testRecord : Nat → Nat → Bool → List Byte
/-- 27 R377: the private half of the device's identity key, which never leaves the management core. -/
opaque Config.identityKey : Nat
/-- 27 R377: the secret number of signature n, of which FIPS 186 asks that none be used again. -/
opaque Config.signNonce : Nat → Nat

end Sys2Proof
end

