-- ==== Sys2Proof/Machine/Memory.lean ====
section
/-! DEFINITION. Byte memories: address and byte pairs in one canonical form (addresses strictly rising, no zero byte
listed), so that equal memories are equal data. An address that is not listed reads as 0 (log 2). -/
namespace Sys2Proof.Machine

/-- A byte memory. -/
abbrev Memory := List Host.Cell

/-- What an unlisted address reads as. DESIGN CHOICE (log 2). -/
def unlistedByte : Byte := 0#8

/-- The addresses of the list rise strictly, from low on, and no listed byte is the unlisted one. -/
def Memory.wfFrom : Nat → Memory → Bool
  | _, [] => true
  | low, (a, b) :: m => decide (low ≤ a) && b != unlistedByte && Memory.wfFrom (a + 1) m

/-- The canonical form. -/
def Memory.wf (m : Memory) : Bool := Memory.wfFrom 0 m

/-- The byte at an address. -/
def Memory.read : Memory → Nat → Byte
  | [], _ => unlistedByte
  | (k, v) :: m, a => if k = a then v else Memory.read m a

/-- Stores one byte. -/
def Memory.write : Memory → Nat → Byte → Memory
  | [], a, b => if b = unlistedByte then [] else [(a, b)]
  | (k, v) :: m, a, b =>
    if k < a then (k, v) :: Memory.write m a b
    else if k = a then (if b = unlistedByte then m else (a, b) :: m)
    else if b = unlistedByte then (k, v) :: m else (a, b) :: (k, v) :: m

/-- Stores bytes at ascending addresses. -/
def Memory.writeBytes : Memory → Nat → List Byte → Memory
  | m, _, [] => m
  | m, a, b :: bs => Memory.writeBytes (m.write a b) (a + 1) bs

/-- Stores a list of addressed bytes, in order. -/
def Memory.writeAll : Memory → List (Nat × Byte) → Memory
  | m, [] => m
  | m, (a, b) :: r => Memory.writeAll (m.write a b) r

/-- The n bytes from an address on. -/
def Memory.readBytes (m : Memory) (a n : Nat) : List Byte := (List.range n).map fun i => m.read (a + i)

/-- The listed cells of [a, a + n), with a taken as address 0. -/
def Memory.extract (m : Memory) (a n : Nat) : Memory :=
  (m.filter fun c => decide (a ≤ c.1 ∧ c.1 < a + n)).map fun c => (c.1 - a, c.2)

/-- Replaces [a, a + n) by the cells given from address 0 on. -/
def Memory.blit (m : Memory) (a n : Nat) (cells : Memory) : Memory :=
  (m.filter fun c => decide (c.1 < a))
    ++ ((cells.filter fun c => decide (c.1 < n)).map fun c => (a + c.1, c.2))
    ++ (m.filter fun c => decide (a + n ≤ c.1))

/-- Sets [a, a + n) to zero. -/
def Memory.clear (m : Memory) (a n : Nat) : Memory := m.blit a n []

/-- Exchanges the bytes of [a, a + z) and [a + z, a + 2z) (R192: a flip). -/
def Memory.swapHalves (m : Memory) (a z : Nat) : Memory :=
  let lo := m.extract a z
  let hi := m.extract (a + z) z
  (m.blit a z hi).blit (a + z) z lo

/-- n bytes from an address on, read in one pass over a list that starts there or beyond. -/
def Memory.dense : Nat → Nat → Memory → List Byte
  | 0, _, _ => []
  | n + 1, a, [] => unlistedByte :: Memory.dense n (a + 1) []
  | n + 1, a, (k, v) :: m =>
    if k = a then v :: Memory.dense n (a + 1) m else unlistedByte :: Memory.dense n (a + 1) ((k, v) :: m)

/-- The value of little-endian bytes (R4). -/
def ofLE : List Byte → Nat
  | [] => 0
  | b :: bs => b.toNat + 256 * ofLE bs

/-- The n little-endian bytes of a value. -/
def toLE (n v : Nat) : List Byte := (List.range n).map fun i => BitVec.ofNat 8 (v / 256 ^ i)

/-- The n-byte little-endian value at an address. -/
def Memory.readLE (m : Memory) (a n : Nat) : Nat := ofLE (m.readBytes a n)

/-- Stores an n-byte little-endian value. -/
def Memory.writeLE (m : Memory) (a n v : Nat) : Memory := m.writeBytes a (toLE n v)

/-! Finite maps from numbers. -/

/-- A finite map with keys in strictly rising order. -/
abbrev AMap (β : Type) := List (Nat × β)

/-- The value of a key. -/
def AMap.get? {β : Type} (m : AMap β) (k : Nat) : Option β := (m.find? fun p => p.1 == k).map Prod.snd

/-- The value of a key, or a default. -/
def AMap.getD {β : Type} (m : AMap β) (k : Nat) (d : β) : β := (AMap.get? m k).getD d

/-- Sets the value of a key. -/
def AMap.set {β : Type} : AMap β → Nat → β → AMap β
  | [], k, v => [(k, v)]
  | (a, w) :: m, k, v =>
    if a < k then (a, w) :: AMap.set m k v
    else if a = k then (k, v) :: m
    else (k, v) :: (a, w) :: m

/-- Removes a key. -/
def AMap.erase {β : Type} (m : AMap β) (k : Nat) : AMap β := m.filter fun p => p.1 != k

end Sys2Proof.Machine
end

