-- ==== Sys2Proof/Machine/State.lean ====
section
/-! DEFINITION. The state of the machine, as plain data: the whole device, its 64 cores, its 16 contexts, what is in
flight, and the model's own scheduling fields. Each structure cites the rule that names what it holds. -/
namespace Sys2Proof.Machine

/-! Reasons to stop. -/

/-- The faults of the model. Neither is a state of the hardware. -/
inductive Fault where
  /-- Raised by exec of an instruction row when `State.cur` names no thread that can issue. Safe: the hardware issues
  nothing for a thread that is not there. -/
  | noThread
  /-- Raised by exec of an event row of the opcode table (named) when the conditions under which the spec lets that event
  happen do not hold. Safe: the event does not happen on the hardware. -/
  | notEnabled (event : String)
  deriving DecidableEq, Repr

/-- The refusals of the model. -/
inductive Refusal where
  /-- Raised by an arm of exec whose instruction has no meaning yet. Safe: nothing can be proved of it. -/
  | notModelled (mnemonic : String)
  deriving DecidableEq, Repr

/-! Threads and their registers. -/

/-- A thread that can issue: a split of a group in a slot (6 x partition + slot), or the CT of a context. -/
inductive Thread where
  | group (core slot entry : Nat)
  | ct (core ctx : Nat)
  deriving DecidableEq, Repr

/-- A program counter, join address or link: overlay token and byte offset in the image (04 R72, R81). A supervisor PC
has token 0 and an offset in the firmware store (21 R302). -/
structure Pc where
  token : BitVec 12
  off : Word
  deriving DecidableEq, Repr

/-- One hardware loop counter lcK (04 R79). -/
structure LoopReg where
  active : Bool
  remaining : Word
  first : Pc
  last : Pc
  order : Nat
  deriving DecidableEq, Repr

/-- PC, FMT and loop state, held by each split and each CT thread state (04 Table 4.2, 21 R302). -/
structure Flow where
  pc : Pc
  fmt : Word
  loops : List LoopReg
  deriving DecidableEq, Repr

/-- How far a counted operation is: not complete, complete, or complete with a deferred fault (08 R168, R184). -/
inductive Progress where
  | running | complete | faulted
  deriving DecidableEq, Repr

/-- One engine counter (08 R168): the operations issued and not yet in the longest completed stretch, oldest first;
the counter reads the length, and base is the number of the first. -/
structure EngCount where
  base : Nat
  done : List Progress
  deriving DecidableEq, Repr

/-- A hit of a ray: its t, u and v as FP32 codes, id, kind (15 Table 15.3). -/
structure Hit where
  t : Word
  u : Word
  v : Word
  id : Word
  kind : Word
  deriving DecidableEq, Repr

/-- An open trace of a lane (15 R263): its result block, lane, ray inputs, scene slot, best intersection so far, the
candidate last presented and the ids of those presented. -/
structure Trace where
  dst : Nat
  lane : Nat
  ray : List Word
  slot : Nat
  best : Option Hit
  cand : Option Hit
  shown : List Word
  deriving DecidableEq, Repr

/-- The uniform registers, masks, engine counters and pending-fault bits of a group or of a CT thread state (03 R49,
08 R168, R184), and its open traces (15 R263). Bit i of sEmpty, sTaint and sErr belongs to s_i; sErr marks registers in
error (24 R350); a CT's masks are all zeros or all ones (01 R13). -/
structure Uni where
  s : List DWord
  sEmpty : BitVec 128
  sTaint : BitVec 128
  sErr : BitVec 128
  m : List LaneSet
  counts : List EngCount
  pend : BitVec 5
  traces : List Trace
  deriving DecidableEq, Repr

/-- What a split or a user CT waits for at an instruction that has joined a queue or a rendezvous, and so is not issued
again when it is looked at. -/
inductive Wait where
  | none
  | bwt (k : Nat)                  -- at bwt of object k (09 R201); looked at again
  | parv (label : Pc)              -- in parv, for counters and registers (09 R186, R187)
  | arrived (label : Pc)           -- a CT counted as arrived (09 R187)
  | entry (token : BitVec 12)      -- a CT that starts at entry 0 of a token (21 R308)
  | claim (d : BitVec 9) (n : Nat) -- in rclm, in the claim queue (03 R59)
  | claimed                        -- its claim has ended while it could not go on (03 R61, 23 R334)
  | macq                           -- in macq, in the owner queue (11 R220)
  | mgng (mask : BitVec 16)        -- in mgng (11 R223)
  | joint (i : Instr)              -- latched in a joint instruction (11 R224)
  | rpak (o : Op)                  -- in rpak (15 R265)
  | xsync                          -- a CT at xsync (09 R209)
  | xend                           -- a CT that has executed xend in this X (09 R208)
  deriving DecidableEq, Repr

/-- A split entry (04 Table 4.2); urgent and urgentAt are R326's urgency and the clock from which it has held, since the
clock from which its instruction has been ready (R326), yielded that it has given way with yield (04 R90), passed that the other
instruction of its partition's clock has taken effect before its own (log 123). -/
structure Split where
  owned : LaneSet
  exec : LaneSet
  flow : Flow
  innermost : Option Nat
  wait : Wait
  urgent : Bool
  since : Option DWord := Option.none
  urgentAt : DWord := 0
  yielded : Bool := false
  passed : Bool := false
  deriving DecidableEq, Repr

/-- A join record (04 Table 4.2). -/
structure JoinRec where
  join : Pc
  expected : LaneSet
  arrived : LaneSet
  fmt : Word
  loops : List LoopReg
  exec : LaneSet
  deferred : LaneSet
  dpc : Pc
  parent : Option Nat
  deriving DecidableEq, Repr

/-- An issued engine operation: its party, class and number in that class (08 R168). -/
inductive Party where
  | group (slot : Nat)
  | ct (ctx : Nat) (sup : Bool)
  deriving DecidableEq, Repr

/-- The place of an operation in its party's count of a class. -/
structure OpRef where
  party : Party
  cls : Nat
  seq : Nat
  deriving DecidableEq, Repr

/-- A group of 128 lanes (01 R9; 03 R49; 04 R72). v lists 8b vector registers of 128 lanes; bit i of vEmpty and vTaint
belongs to v_i; vErr lists the lanes in error of a v register (24 R350). -/
structure Group where
  ctx : Nat
  wg : Nat
  gidx : Nat
  blocks : Nat
  uni : Uni
  v : List (List Word)
  vEmpty : BitVec 384
  vTaint : BitVec 384
  vErr : AMap LaneSet
  splits : List (Option Split)
  recs : List (Option JoinRec)
  exited : LaneSet
  helper : LaneSet
  flanes : LaneSet
  fflags : BitVec 5
  gang : BitVec 16
  parked : Bool
  frozen : Bool
  deriving DecidableEq, Repr

/-- A resident workgroup: its allocation [base, limit) (01 R20), record store (07 R147), identity (01 Table 1.6), class,
cluster shape and number of workgroups, and the slots of its groups by group index. -/
structure Workgroup where
  ctx : Nat
  base : Nat
  limit : Nat
  records : Memory
  wgid : Nat
  cpos : BitVec 64
  launch : DWord
  cls : BitVec 2
  shape : Nat
  wpc : Nat
  slots : List Nat
  deriving DecidableEq, Repr

/-- The owner of a wing pair or a barrier object (09 R193, R199). -/
inductive Owner where
  | wg (idx : Nat)
  | ct
  deriving DecidableEq, Repr

/-- A bound wing pair of a context on a core (09 R192, R193); bar none is bound to the phase. -/
structure Wing where
  handle : Nat
  base : Nat
  size : Nat
  owner : Owner
  bar : Option Nat
  deriving DecidableEq, Repr

/-- An initialised barrier object (09 R198); its fields are the bytes of Table 9.1 at its address. -/
structure Obj where
  k : Nat
  addr : Nat
  owner : Owner
  deriving DecidableEq, Repr

/-- Who raised a delivery (21 Table 21.1 TSRC). -/
inductive Source where
  | group (slot entry : Nat)
  | userCt
  deriving DecidableEq, Repr

/-- A trap or event waiting for, or in, a handler (21 R303, 24 R343). pc is the trapping instruction's PC (24 R345). -/
structure Delivery where
  src : Source
  cause : BitVec 8
  detail : BitVec 16
  pc : Pc
  tpc : Pc
  taddr : BitVec 48
  flanes : LaneSet
  deriving DecidableEq, Repr

/-- One of the two thread states of a CT context (21 R302). -/
structure CtThread where
  uni : Uni
  flow : Flow
  deriving DecidableEq, Repr

/-- A pending pop of the decision queue (04 R91): the group slot and the s register. -/
structure Pop where
  slot : Nat
  reg : Nat
  deriving DecidableEq, Repr

/-- States of an overlay token (17 Table 17.2). -/
inductive TokState where
  | absent | filling | resident | evictPending | failed
  deriving DecidableEq, Repr

/-- Where a callo, a ret or the start of a control thread goes in the code of a token: to an entry, or to an offset. -/
inductive Dest where
  | entry (j : Nat)
  | offset (w : Word)
  deriving DecidableEq, Repr

/-- What a callo, a ret or the start of a control thread does once the token's code is there: where it goes, the register and
value of its link, and the lanes that it was issued for (04 R84, R85; 21 R308). -/
structure Going where
  dest : Dest
  link : Option (BitVec 9 × DWord) := none
  sel : LaneSet
  deriving DecidableEq, Repr

/-- A thread that waits at a token while it fills, the PC at which it stands, and what it does then; none for one that waits for
the code at its own PC (04 R84, R85; 17 R280). -/
structure TokWait where
  thread : Thread
  pc : Pc
  goes : Option Going := none
  deriving DecidableEq, Repr

/-- A token of a context on a core (17 R278, Table 17.5): evict is an ovev met while filling; image is the number of the
image held; waiters are those who wait for it to fill, owed those whose fill has failed and that
have not met the trap yet (04 Table 4.3). -/
structure Token where
  state : TokState
  evict : Bool
  cause : BitVec 3
  slots : Nat
  image : Option Nat
  waiters : List TokWait := []
  owed : List TokWait := []
  deriving DecidableEq, Repr

/-- A register of a supervisor state beside its s registers, which carry their own marks (21 R302). -/
inductive SupReg where
  | mask (n : Nat)
  | loop (n : Nat)
  | fmt
  | pc
  deriving DecidableEq, Repr

/-- A context as a core sees it (21 Table 21.1 scopes own and context; 04 R91; 09 R193; 17 R278). -/
structure CoreCtx where
  resident : Bool
  slbase : Nat
  sllim : Nat
  vbq : Nat
  ovqt : Nat
  ctent : BitVec 13
  sel : BitVec 31
  tcause : BitVec 24
  tsrc : BitVec 16
  tpc : Pc
  taddr : BitVec 48
  vec : Word
  user : CtThread
  running : Bool                  -- the user CT's program has started and not exited
  exited : Bool                   -- its program has ended with exit (04 R95)
  starting : Bool                 -- starts at the next compute superstep (21 R308)
  startAt : BitVec 12             -- at the token that the write of CTENT has named (21 R308)
  stopped : Bool                  -- stopped by a delivery (21 R303, R311)
  wait : Wait
  resume : Pc                     -- where the user CT goes after X (09 R187)
  sup : CtThread
  handling : Option Delivery
  held : Bool                     -- its groups that had not parked are frozen by a straggler event (23 R334)
  deliveries : List Delivery
  dq : List DWord
  pops : List Pop
  wings : List Wing
  objs : List Obj
  tokens : AMap Token
  freeNext : Nat                  -- graph slots: the next one never taken (13 R237)
  freeTail : List Nat             -- and those that have come back, oldest first
  freeAtStart : Nat               -- the length of the free list at the start of the superstep (13 Table 13.7)
  stage : Memory                  -- the slice at the start of the context's exchange stage (09 R202)
  supErr : List SupReg := []      -- registers of the supervisor state in error (24 R348)
  deriving DecidableEq, Repr

/-- An image held in the instruction store (17 R274, R276, R283); bad lists its 8-byte words in error (24 R348, R349). -/
structure Image where
  id : Nat
  shr : Bool
  digest : List Byte
  len : Nat
  ecnt : Nat
  slots : Nat
  ready : Bool
  words : List Word
  bad : List Nat := []
  deriving DecidableEq, Repr

/-- Who issued an operation, as its fault record names it (08 Table 8.6). -/
structure Issuer where
  core : Nat
  ctx : Nat
  party : Option Party
  pc : Pc
  launch : DWord
  wgid : Nat
  gidx : Nat
  deriving DecidableEq, Repr

/-- A running or waiting fill (17 R281, R282): the table entry read when it started, the cause of Table 17.3 already known
from that read (0 for none) with the CAUSE and the address that faulted, the operations it completes, the issuer of its fault record. -/
structure Fill where
  id : Nat
  ctx : Nat
  token : BitVec 12
  image : Nat
  slots : Nat
  started : Bool
  entry : List Byte
  bad : BitVec 3
  badCause : Nat
  badAddr : Nat
  refs : List OpRef
  who : Issuer
  placement : Option (Nat × Nat)   -- started for a launch (queue, sequence) (22 R322)
  deriving DecidableEq, Repr

/-- A byte of its source that an operation has read before it runs: the number of the read, its place and the byte (08
R182). -/
structure Sample where
  read : Nat
  at_ : Nat
  byte : Byte
  deriving DecidableEq, Repr

/-- An engine operation that has issued and not completed (08 R168): the instruction, what it read at issue, and what it
has read of its sources since. -/
structure EngineOp where
  id : Nat
  ref : Option OpRef
  who : Issuer
  instr : Instr
  vals : List DWord
  rows : List (List Word)
  lanes : LaneSet
  fmt : Word
  early : List Sample := []
  deriving DecidableEq, Repr

/-- The kinds of results that land later. -/
inductive ResKind where
  | load | vtos | atomic | graph | trace
  deriving DecidableEq, Repr

/-- A result still to land (03 R52): the registers it fills, and the operation it completes, if it counts on an engine
counter; bad says that the operation has deferred a fault (08 R184). -/
structure Result where
  id : Nat
  kind : ResKind
  party : Party
  lanes : LaneSet
  vregs : List (Nat × List Word)
  sregs : List (Nat × DWord)
  taint : Bool
  ref : Option OpRef
  bad : Bool := false
  deriving DecidableEq, Repr

/-- A claim waiting for register blocks (03 R59): the group slot. -/
structure Claim where
  slot : Nat
  entry : Nat
  d : BitVec 9
  n : Nat
  deriving DecidableEq, Repr

/-- A deposit in flight (09 R196): what is written where, for which barrier count, and whose operation it completes (the
deposits of one operation share opId); verdict is none until the target has judged it, judged the number of that
judgement (26 R361); bad says that another deposit of the operation has been refused. -/
structure Deposit where
  id : Nat
  opId : Nat
  who : Issuer
  ref : OpRef
  target : Nat
  handle : Nat
  offset : Nat
  bytes : List (Nat × Byte)
  extent : Nat
  count : Nat
  bar : Option (Nat × Option Word)
  verdict : Option Bool
  bad : Bool
  judged : Nat := 0
  deriving DecidableEq, Repr

/-- A barrier arrival in flight or held (09 R200). -/
structure Arrival where
  id : Nat
  core : Nat
  ctx : Nat
  party : Party
  target : Nat
  k : Nat
  gen : Word
  flip : Bool
  held : Bool
  deriving DecidableEq, Repr

/-- The configuration of a matrix owner (11 R226): TYPE, T and the FMT from which formats and XS were copied. -/
structure MatCfg where
  type : BitVec 2
  t : Bool
  fmt : Word
  deriving DecidableEq, Repr

/-- A queued operation of a matrix owner (11 R218), with what it read and captured at issue: a joint one has one place,
one issuer and one list of register rows for each member. -/
structure MatOp where
  id : Nat
  instr : Instr
  refs : List OpRef
  whos : List Issuer
  vals : List DWord
  rows : List (List (List Word))
  helpers : List LaneSet
  cfg : MatCfg
  fmt : Word
  early : List Sample := []
  deriving DecidableEq, Repr

/-- An owner of the matrix engine, or a group or gang that waits for it (11 R219, R220): its workgroup, its groups' slots
in gang order, bank mask, save area, configuration and queued operations. -/
structure MatOwner where
  ctx : Nat
  wg : Nat
  members : List Nat
  gang : Bool
  mask : BitVec 4
  save : Nat
  cfg : MatCfg
  ops : List MatOp
  deriving DecidableEq, Repr

/-- The matrix engine of a core (11 Table 11.1): planes as bytes (an unlisted byte is code 0), banks as rows of 128 FP32
codes (an unlisted row is +0), the running owner, the suspended stack with its top first, the owner queue, and the context
of the last holder (R219). releasing says that an ownership has ended and the engine has not passed on yet (R221). -/
structure Matrix where
  active : Memory
  shadow : Memory
  banks : List (AMap (List Word))
  owner : Option MatOwner
  susp : List MatOwner
  queue : List MatOwner
  lastCtx : Option Nat
  releasing : Bool
  deriving DecidableEq, Repr

/-- What an instruction sees of the thread that issues it. grp is none for a control thread. -/
structure Iss where
  th : Thread
  core : Nat
  ctx : Nat
  sup : Bool
  slot : Nat
  entry : Nat
  grp : Option Group
  uni : Uni
  flow : Flow
  exec : LaneSet
  sel : LaneSet
  deriving DecidableEq, Repr

/-- What an instruction does to memory. -/
inductive AccessKind where
  | load | store | atomic
  deriving DecidableEq, Repr

/-- What one lane accesses (07 R143): the lane, the slice offset, the size; unit names what is accessed with it as one: the
block or bank word that an ldb fetches (R152), the word of an atomic (R163). -/
structure LaneElem where
  lane : Nat
  off : Nat
  size : Nat
  unit : Option Nat := none
  deriving DecidableEq, Repr

/-- The slice access of an instruction (07 R143, R156, R157, R161): an element for each lane that accesses the slice, in lane
order; whether it is an acquire and a release, and at .core scope; whether it is an ldc's, and which of its base and index
registers are tainted. -/
structure Access where
  kind : AccessKind
  elems : List LaneElem
  acquire : Bool := false
  release : Bool := false
  core : Bool := false
  ldc : Bool := false
  taints : List Nat := []
  deriving DecidableEq, Repr

/-- What a node of a core's order of accesses is (07 R156 to R161; 18 R292): an access of an instruction, with its issuer
as it was and the result that it will land; the writes of an engine operation with what it completes (08 R183), or other
writes that no access makes; the issue of an operation (R182); a fence; a dq.push, given once its value has been popped, and a
dq.pop with the register that it fills and, once it has its value, the push that gave it (04 R92); a wait, with the engine
writes that it has reported (08 R183); an arrival at an object, with its number for each replica and, where it has been
counted, the replica and the generation that it counts toward, and a return from bwt for a generation (09 R200, R201); the
making or freeing of an object; a return from bwt on another core of the cluster. -/
inductive NodeKind where
  | access (x : Iss) (i : Instr) (result : Option Nat)
  | engine (op : Option Nat) (refs : List OpRef)
  | issued (op : Nat)
  | fence (core : Bool)
  | push (given : Bool)
  | pop (reg : Nat) (served : Bool) (giver : Option Nat)
  | wait (writes : List Nat)
  | arrive (k : Nat) (sent : List (Nat × Nat)) (counted : List (Nat × Word))
  | await (k : Nat) (gen : Word)
  | object (k : Nat)
  | relay (core : Nat) (k : Nat) (gen : Word)
  deriving DecidableEq, Repr

/-- A node of a core's order of accesses (log 5): its party, by context, slot (none for the control thread) and the lanes of
the splits in whose program order it stands; via, the records with their expected lanes at which lanes of it have exited
(R156); its access; before, the nodes that precede it in program order; taintedBy, the ldc nodes that made the taint of its
address, and carriers, the registers, by group slot, that carry the taint of an ldc (R161); the bytes of its parts still to be
performed, and the bytes that they write or have read. The parts of an access are its elements; engine writes have the one
part 0. A byte stands for a slice offset below 2^26, and from there on for a place of GDDR 7 or the fabric. -/
structure Node where
  id : Nat
  kind : NodeKind
  ctx : Nat
  slot : Option Nat
  owned : LaneSet
  via : List (Nat × LaneSet)
  acc : Access
  before : List Nat
  taintedBy : List Nat
  carriers : List (Nat × Nat)
  left : List (Nat × Nat)
  data : List ((Nat × Nat) × Byte)
  deriving DecidableEq, Repr

/-- A byte that has been performed: its place, the node and its part, and whether it was written. -/
structure Done where
  off : Nat
  id : Nat
  part : Nat
  wrote : Bool
  deriving DecidableEq, Repr

/-- A core (01 R10, R13; 03 R57; 07 R139; 11 R213; 17 R274; 22 R323; 24 R348, R350). fwErr lists
the 8-byte words of the firmware store in error; nodes the order of accesses as long as one is still to be performed, and
trail the bytes performed in that time, oldest first (log 5); wrote what its engines have
written to GDDR 7, and to the fabric from 2^48 on, since the last boundary (17 R284); lastCt the CT that issued last (22 R326); droops lists the clocks of its supply
droops; temp and droopCount are what was sampled when the latest window opened. -/
structure Core where
  on : Bool
  slice : Memory
  firmware : Memory
  groups : List (Option Group)
  wgs : AMap Workgroup
  claims : List Claim
  cctx : List CoreCtx
  images : List Image
  fills : List Fill
  ops : List EngineOp
  results : List Result
  mat : Matrix
  poison : List Nat
  fwErr : List Nat
  nodes : List Node
  trail : List Done
  wrote : AMap Byte
  lastCt : Nat
  ecc : List DWord
  temp : BitVec 8
  droops : List DWord
  droopCount : Nat
  deriving DecidableEq, Repr

/-- A soft error (24 R348, R349): a correctable error that a read of a structure has met (kind 0 slice, 1 registers, 2 the
stores), or a word that is from now on in error beyond correction. -/
inductive Upset where
  | corrected (core kind : Nat)
  | slice (core word : Nat)
  | vReg (core slot reg lane : Nat)
  | sReg (core : Nat) (p : Party) (reg : Nat)
  | supReg (core ctx : Nat) (r : SupReg)
  | store (core image word : Nat)
  | firmware (core word : Nat)
  | gddr (addr : Nat)
  | pool (ctx slot : Nat)
  | scene (ctx slot : Nat)
  deriving DecidableEq, Repr

/-- What the model does next (log 4): issue one instruction of a thread, let one event happen, or let clocks pass; issue
an instruction whose slice access is performed later, or perform bytes of such an access (log 5); let an operation run whose
writes are performed later, or read a byte of a source early (08 R182, R183, log 5); let a translation be cached or a cached
one be forgotten, or let another port translate (25 R357); evict a token by force (17 R289); let a soft error happen (24
R348). -/
inductive Action where
  | issue (t : Thread)
  | event (e : Instr)
  | clocks (n : Nat)
  | late (t : Thread)
  | perform (core id : Nat) (bytes : List (Nat × Nat))
  | slow (e : Instr)
  | sample (core op read a : Nat)
  | cache (ctx va : Nat)
  | forget (ctx va : Nat)
  | port (n : Nat)
  | evict (core ctx : Nat) (token : BitVec 12)
  | upset (u : Upset)
  deriving DecidableEq, Repr

/-- A vertex slot of a graph pool (13 R237 to R239): allocated, its generation, published, retire-pending, words 0 to
14 of its record, and whether its record is in error (24 R349). -/
structure Slot where
  alloc : Bool
  gen : BitVec 5
  pub : Bool
  rp : Bool
  words : List Word
  err : Bool := false
  deriving DecidableEq, Repr

/-- A graph request waiting for the boundary (13 R253). -/
inductive GraphChange where
  | retire (h : Word)
  | keep (set : Bool) (h : Word)
  | rho (w : Word)
  | openFrame (t : Nat)
  | release (mask : Word)
  | append (slot : Nat) (words : List Word)
  | abandon (slot : Nat)           -- the slot of a failed gapp (13 R242)
  deriving DecidableEq, Repr

/-- A built scene (15 Table 15.2): instance records of 16 words and triangle records of 10 words. -/
structure Scene where
  insts : List (List Word)
  tris : List (List Word)
  deriving DecidableEq, Repr

/-- The build structure of a scene slot: never built, failed, or built (15 R259). -/
inductive Build where
  | none | failed
  | built (s : Scene)
  deriving DecidableEq, Repr

/-- A scene slot (15 R257); err says that its published scene is in error (24 R349). -/
structure SceneSlot where
  published : Option Scene
  build : Build
  err : Bool := false
  deriving DecidableEq, Repr

/-- A contribution of an xadd (09 R207): the operation that made it and its issuer, its type code, the core and slice
offset of the element, and its value. -/
structure XAdd where
  op : Nat
  who : Issuer
  core : Nat
  type : Nat
  target : Nat
  off : Nat
  value : Word
  deriving DecidableEq, Repr

/-- A context, device wide (23 R330; 21 Table 21.1 scope context-wide): membership, detachment, saved, rejoining at the
next compute superstep (21 R314); the cores whose
images its last save wrote (23 R337); the context-wide CSRs and their writes that wait for the window as issuing core, CSR
number and value (R306); the placement pointer (22 R323); the graph pool, frame table and requests (13); the scenes and
their requests as issuing core, slot and .clr (15); the contributions of the stage (09 R207), those of operations before
number voidBefore being discarded (23 R336); and GDDR 7 and the fabric as they stood when the stage started, with the places
that transfers of the stage have written (R202). -/
structure Ctx where
  member : Bool
  detached : Bool
  saved : Bool
  savedOn : BitVec 64
  rejoin : Bool
  ovtb : Nat
  ptroot : DWord
  fq : DWord
  npool : Nat
  cores : DWord
  excl : Bool
  scncap : List Nat
  csrWrites : List (Nat × Nat × DWord)
  pointer : Nat
  pool : AMap Slot
  retained : BitVec 32
  nf : List Nat
  openTag : Option Nat
  rho : Word
  eta : Word
  drop : DWord
  changes : List (Nat × GraphChange)
  scenes : AMap SceneSlot
  sceneReqs : List (Nat × Nat × Bool)
  xadds : List XAdd
  voidBefore : Nat
  stageGddr : Memory
  stageRemote : Memory
  stagePut : List Nat
  deriving DecidableEq, Repr

/-- The request registers of a context (23 Table 23.1); since is the clock of the REQ write (R340); missed says that the
deadline has passed, due that the request was pending when the window opened. -/
structure ReqRegs where
  wev : Bool
  result : BitVec 3
  busy : Bool
  reloc : BitVec 6
  req : BitVec 2
  dl : Nat
  savea : Nat
  savesz : Nat
  since : DWord
  missed : Bool
  due : Bool
  deriving DecidableEq, Repr

/-- A launch queue (22 Table 22.1): ring holds a device queue's 64-B records by slot; head is the record read at the
head, by sequence number; seq is the next sequence number; passed is R321's "passed over until the next window"; avail is
the write index at the opening of the window, up to which a device queue's records are eligible (R320). -/
structure LaunchQueue where
  en : Bool
  src : Bool
  ctx : Nat
  prio : Nat
  lsz : Nat
  qbase : Nat
  widx : Word
  ridx : Word
  stat : BitVec 2
  ring : AMap (List Byte)
  seq : Nat
  head : Option Nat
  passed : Bool
  avail : Word
  deriving DecidableEq, Repr

/-- A launch that has been read and is not complete (22 R316 to R319): its record, the workgroups placed and freed. -/
structure Launch where
  queue : Nat
  seq : Nat
  ctx : Nat
  record : List Byte
  placed : Nat
  freed : Nat
  rejected : Bool
  deriving DecidableEq, Repr

/-- The phase ring (26 Table 26.3): arrived is what the leader has received for this boundary, sent that this device has
sent its ARRIVE, released that RELEASE has come, since the clock of the first ARRIVE, pending a write of EN. -/
structure Ring where
  en : Bool
  lead : Bool
  lnode : BitVec 8
  drop : Bool
  rto : Nat
  rmem : BitVec 256
  arrived : BitVec 256
  sent : Bool
  released : Bool
  since : Option DWord
  pending : Option DWord
  deriving DecidableEq, Repr

/-- A cached translation of a context at a port (25 R357): a page by address and size, its frame, and whether it may be
written. -/
structure Cached where
  port : Nat
  ctx : Nat
  va : Nat
  size : Nat
  fabric : Bool
  frame : Nat
  w : Bool
  deriving DecidableEq, Repr

/-- A message to the world outside. -/
inductive Message where
  | ringArrive (node : BitVec 8)
  | ringRelease (node : BitVec 8)
  | ringDrop (node : BitVec 8)
  | fabricReply (node : BitVec 8) (ok : Bool) (data : List Byte)
  | attestation (measurements : List Byte) (nonce : List Byte) (log : List Byte) (signature : List Byte)
  | detachedByFirmware (core ctx : Nat)
  deriving DecidableEq, Repr

/-- What an image written by ctsv or a save holds of a context on a core (23 Table 23.3): its bytes, which bank words of
them are in error (24 R350), the placement pointer, and the nodes of its pops that have no value yet (04 R92). -/
structure SavedCtx where
  ctx : Nat
  len : Nat
  cctx : CoreCtx
  groups : List (Nat × Group)
  wgs : AMap Workgroup
  bytes : Memory
  poison : List Nat
  pointer : Nat
  popNodes : List Node := []
  deriving DecidableEq, Repr

/-- Where the X to C boundary stands (23 Table 23.2, steps 4 to 8). -/
inductive Window where
  | closed       -- no window
  | requests     -- step a done; resets, saves and restores are carried out
  | events       -- window events have been raised; their handlers run
  deriving DecidableEq, Repr

/-- The state of the device. gddrStart and remoteStart are GDDR 7 and the fabric as they stood at the last boundary (17 R284), gddrErr its bytes in error
(24 R349), tlb the cached translations and port the one whose cache is used now (25 R357), measured the measurements of the
images booted, publicKey the public half of the identity key and certificate that of the device (27 R377). -/
structure State where
  cur : Thread
  agenda : List Action
  ticks : Nat
  nextId : Nat
  clock : DWord
  phase : DWord
  gddr : Memory
  gddrStart : Memory
  gddrErr : List Nat
  remote : Memory
  remoteStart : Memory
  tlb : List Cached
  port : Nat
  cores : List Core
  ctxs : List Ctx
  deposits : List Deposit
  arrivals : List Arrival
  window : Window
  boot : Nat
  bootFail : Nat
  stations : BitVec 16
  lsize : Nat
  portWidth : DWord
  testLog : List Byte
  measured : List Byte
  publicKey : Nat × Nat
  certificate : List Byte
  distributor : BitVec 8
  psto1 : Nat
  psto2 : Nat
  straggle : Option DWord
  warned : Bool
  reqs : List ReqRegs
  loss : List DWord
  explim : Nat
  node : BitVec 8
  routes : List DWord
  ring : Ring
  queues : List LaunchQueue
  launches : List Launch
  lastServed : Option Nat
  outbox : List Message
  saves : AMap SavedCtx
  deriving DecidableEq, Repr

/-! Reset. -/

/-- A split entry as it starts: it waits for nothing, and is neither urgent nor ready yet (22 R326). -/
def Split.start (owned exec : LaneSet) (flow : Flow) (innermost : Option Nat) : Split :=
  { owned := owned, exec := exec, flow := flow, innermost := innermost, wait := .none, urgent := false }

/-- An inactive loop counter. -/
def LoopReg.zero : LoopReg := ⟨false, 0, ⟨0, 0⟩, ⟨0, 0⟩, 0⟩
/-- A thread at a PC with FMT zero and no loop active (01 Table 1.6, 21 R308). -/
def Flow.start (pc : Pc) : Flow := ⟨pc, 0, List.replicate 4 LoopReg.zero⟩
/-- A counter with nothing outstanding. -/
def EngCount.zero : EngCount := ⟨0, []⟩
/-- Uniform registers and masks zero, full and untainted, counters zero, nothing pending, no open trace. -/
def Uni.zero : Uni :=
  ⟨List.replicate 128 0, 0, 0, 0, List.replicate 16 0, List.replicate 5 EngCount.zero, 0, []⟩
/-- A CT thread state whose registers are all zero. -/
def CtThread.zero : CtThread := ⟨Uni.zero, Flow.start ⟨0, 0⟩⟩

/-- A context on core k right after reset (21 R305, R339; 13 R237). The spec gives CSRs no reset value: zero (log 3). -/
def CoreCtx.reset (k : Nat) : CoreCtx :=
  { resident := false, slbase := 0, sllim := 0, vbq := 0, ovqt := 0, ctent := 0, sel := 0, tcause := 0, tsrc := 0,
    tpc := ⟨0, 0⟩, taddr := 0, vec := 0, user := CtThread.zero, running := false, exited := false, starting := false, startAt := 0,
    stopped := false, wait := .none, resume := ⟨0, 0⟩, sup := CtThread.zero, handling := none, held := false, deliveries := [],
    dq := [], pops := [], wings := [], objs := [], tokens := [],
    freeNext := if k = 0 then 64 else k, freeTail := [], freeAtStart := if k = 0 then 0 else 1, stage := [] }

/-- The matrix engine right after reset: planes and banks zero (log 3), nobody owns it. -/
def Matrix.reset : Matrix := ⟨[], [], List.replicate 4 [], none, [], [], none, false⟩

/-- Core k right after reset. -/
def Core.reset (k : Nat) : Core :=
  { on := true, slice := [], firmware := [], groups := List.replicate 96 none, wgs := [], claims := [],
    cctx := List.replicate 16 (CoreCtx.reset k), images := [], fills := [], ops := [], results := [],
    mat := Matrix.reset, poison := [], fwErr := [], nodes := [], trail := [], wrote := [], lastCt := 15, ecc := List.replicate 4 0, temp := 0, droops := [],
    droopCount := 0 }

/-- A context right after reset: no member (23 R330), its pool as R237 and R250 give, no scene (15 R257). -/
def Ctx.reset : Ctx :=
  { member := false, detached := false, saved := false, savedOn := 0, rejoin := false, ovtb := 0, ptroot := 0, fq := 0, npool := 64,
    cores := 0, excl := false, scncap := List.replicate 64 1, csrWrites := [], pointer := 0, pool := [], retained := 1,
    nf := List.replicate 32 0, openTag := some 0, rho := 0, eta := 0, drop := 0, changes := [], scenes := [],
    sceneReqs := [], xadds := [], voidBefore := 0, stageGddr := [], stageRemote := [], stagePut := [] }

/-- The request registers right after reset (log 3). -/
def ReqRegs.reset : ReqRegs := ⟨false, 0, false, 0, 0, 1024, 0, 0, 0, false, false⟩
/-- A launch queue right after reset: not enabled (log 3). -/
def LaunchQueue.reset : LaunchQueue := ⟨false, false, 0, 0, 0, 0, 0, 0, 0, [], 0, none, false, 0⟩
/-- The phase ring right after reset: not enabled (log 3). -/
def Ring.reset : Ring := ⟨false, false, 0, false, 1024, 0, 0, false, false, none, none⟩

/-- The device right after reset (27 R371): PHASE 0, no clock counted (03 R70), power-on still to come (BOOT 0). -/
def State.reset : State :=
  { cur := .ct 0 0, agenda := [], ticks := 0, nextId := 0, clock := 0, phase := 0, gddr := [], gddrStart := [], gddrErr := [],
    remote := [], remoteStart := [], tlb := [], port := 0,
    cores := (List.range 64).map Core.reset, ctxs := List.replicate 16 Ctx.reset, deposits := [], arrivals := [],
    window := .closed, boot := 0, bootFail := 0, stations := BitVec.allOnes 16, lsize := 64, portWidth := 0,
    testLog := [], measured := [], publicKey := (0, 0), certificate := [], distributor := 1, psto1 := 1024, psto2 := 1024, straggle := none, warned := false,
    reqs := List.replicate 16 ReqRegs.reset, loss := List.replicate 16 0, explim := 0, node := 0,
    routes := List.replicate 256 0, ring := Ring.reset,
    queues := List.replicate 64 LaunchQueue.reset, launches := [], lastServed := none, outbox := [], saves := [] }

end Sys2Proof.Machine
end

