-- ==== Sys2Proof/Machine/Access.lean ====
section
/-! DEFINITION. Reading and replacing the parts of the state: cores, groups, splits, control threads, registers. -/
namespace Sys2Proof.Machine

/-- The outcome of a step of this machine. -/
abbrev Res := Host.Outcome State Fault Refusal

/-! Starting values. -/

/-- A token nobody has asked for. -/
def Token.absent : Token := ⟨.absent, false, 0, 0, none, [], []⟩

/-! Cores and contexts. -/

/-- Core k. -/
def State.core? (s : State) (k : Nat) : Option Core := s.cores[k]?
/-- Changes core k. -/
def State.modCore (s : State) (k : Nat) (f : Core → Core) : State := { s with cores := s.cores.modify k f }
/-- Context c, device wide. -/
def State.ctx? (s : State) (c : Nat) : Option Ctx := s.ctxs[c]?
/-- Changes context c. -/
def State.modCtx (s : State) (c : Nat) (f : Ctx → Ctx) : State := { s with ctxs := s.ctxs.modify c f }
/-- The group in a slot. -/
def Core.group? (c : Core) (slot : Nat) : Option Group := (c.groups[slot]?).join
/-- Changes the group in a slot. -/
def Core.modGroup (c : Core) (slot : Nat) (f : Group → Group) : Core :=
  { c with groups := c.groups.modify slot (Option.map f) }
/-- A context on the core. -/
def Core.cctx? (c : Core) (ctx : Nat) : Option CoreCtx := c.cctx[ctx]?
/-- Changes a context on the core. -/
def Core.modCctx (c : Core) (ctx : Nat) (f : CoreCtx → CoreCtx) : Core := { c with cctx := c.cctx.modify ctx f }
/-- The group in a slot of core k. -/
def State.group? (s : State) (k slot : Nat) : Option Group := (s.core? k).bind fun c => c.group? slot
/-- Changes the group in a slot of core k. -/
def State.modGroup (s : State) (k slot : Nat) (f : Group → Group) : State := s.modCore k fun c => c.modGroup slot f
/-- Context ctx on core k. -/
def State.cctx? (s : State) (k ctx : Nat) : Option CoreCtx := (s.core? k).bind fun c => c.cctx? ctx
/-- Changes context ctx on core k. -/
def State.modCctx (s : State) (k ctx : Nat) (f : CoreCtx → CoreCtx) : State := s.modCore k fun c => c.modCctx ctx f
/-- A split entry. -/
def Group.split? (g : Group) (e : Nat) : Option Split := (g.splits[e]?).join
/-- Changes a split entry. -/
def Group.modSplit (g : Group) (e : Nat) (f : Split → Split) : Group :=
  { g with splits := g.splits.modify e (Option.map f) }
/-- A join record. -/
def Group.rec? (g : Group) (r : Nat) : Option JoinRec := (g.recs[r]?).join
/-- Changes a join record. -/
def Group.modRec (g : Group) (r : Nat) (f : JoinRec → JoinRec) : Group :=
  { g with recs := g.recs.modify r (Option.map f) }
/-- A new identifier. -/
def State.fresh (s : State) : Nat × State := (s.nextId, { s with nextId := s.nextId + 1 })

/-- SplitCount(): the live splits of a group. -/
def Group.splitCount (g : Group) : Nat := (g.splits.filter Option.isSome).length
/-- The number of unused join records. -/
def Group.freeRecs (g : Group) : Nat := (g.recs.filter Option.isNone).length
/-- A group has exited when E holds all 128 lanes (04 R77). -/
def Group.hasExited (g : Group) : Bool := g.exited == LaneSet.all
/-- A core that is switched on. -/
def State.coreOn (s : State) (k : Nat) : Bool := match s.core? k with | some c => c.on | none => false
/-- Bit [9] of %split: serial mode (04 R74). -/
def Group.serial (g : Group) : Bool :=
  g.recs.any fun r => match r with | some r => r.deferred != 0 | none => false

/-! Uniform registers. -/

/-- s_r. -/
def Uni.get (u : Uni) (r : Nat) : DWord := u.s.getD r 0
/-- Writes s_r, full, with the given taint and no longer in error (24 R350). -/
def Uni.set (u : Uni) (r : Nat) (v : DWord) (taint : Bool := false) : Uni :=
  { u with
    s := u.s.set r v
    sEmpty := u.sEmpty &&& ~~~(1#128 <<< r)
    sErr := u.sErr &&& ~~~(1#128 <<< r)
    sTaint := if taint then u.sTaint ||| (1#128 <<< r) else u.sTaint &&& ~~~(1#128 <<< r) }
/-- Marks s_r empty. -/
def Uni.markEmpty (u : Uni) (r : Nat) : Uni := { u with sEmpty := u.sEmpty ||| (1#128 <<< r) }
/-- m_r; m0 reads as all ones (03 R49). -/
def Uni.mask (u : Uni) (r : Nat) : LaneSet := if r = 0 then LaneSet.all else u.m.getD r 0
/-- Writes m_r. -/
def Uni.setMask (u : Uni) (r : Nat) (v : LaneSet) : Uni := { u with m := u.m.set r v }

/-! Engine counters (08 R168). -/

/-- What the counter reads. -/
def EngCount.val (e : EngCount) : Nat := e.done.length
/-- Counts one more operation and gives its number. -/
def EngCount.issue (e : EngCount) : Nat × EngCount := (e.base + e.done.length, { e with done := e.done ++ [.running] })
/-- Drops the completed operations at the front; the result says whether one of them ended in a deferred fault. -/
def EngCount.settle : Nat → List Progress → EngCount × Bool
  | base, .complete :: r => EngCount.settle (base + 1) r
  | base, .faulted :: r => ((EngCount.settle (base + 1) r).1, true)
  | base, l => (⟨base, l⟩, false)
/-- Marks operation n completed. -/
def EngCount.complete (e : EngCount) (n : Nat) (bad : Bool) : EngCount × Bool :=
  if n < e.base then (e, false)
  else EngCount.settle e.base (e.done.set (n - e.base) (if bad then .faulted else .complete))

/-- The counter of a class. -/
def Uni.count (u : Uni) (cls : Nat) : EngCount := u.counts.getD cls EngCount.zero
/-- Every counter reads zero. -/
def Uni.idle (u : Uni) : Bool := u.counts.all fun e => e.done.isEmpty
/-- Sets a pending-fault bit (08 R184). -/
def Uni.setPend (u : Uni) (cls : Nat) : Uni := { u with pend := u.pend ||| (1#5 <<< cls) }

/-! The uniform state of a party. -/

/-- Changes the uniform state of a party on a core. -/
def Core.modParty (c : Core) (p : Party) (f : Uni → Uni) : Core :=
  match p with
  | .group slot => c.modGroup slot fun g => { g with uni := f g.uni }
  | .ct ctx sup => c.modCctx ctx fun x =>
      if sup then { x with sup := { x.sup with uni := f x.sup.uni } }
      else { x with user := { x.user with uni := f x.user.uni } }
/-- The uniform state of a party on a core. -/
def Core.party? (c : Core) (p : Party) : Option Uni :=
  match p with
  | .group slot => (c.group? slot).map Group.uni
  | .ct ctx sup => (c.cctx? ctx).map fun x => if sup then x.sup.uni else x.user.uni
/-- Changes the uniform state of a party on core k. -/
def State.modParty (s : State) (k : Nat) (p : Party) (f : Uni → Uni) : State := s.modCore k fun c => c.modParty p f

/-- Operation n of a class is complete; when a faulted operation is thereby counted complete, the pending-fault bit of
the class is set (08 R168, R184). -/
def Uni.completeOp (u : Uni) (cls n : Nat) (bad : Bool) : Uni :=
  let r := (u.count cls).complete n bad
  let u1 := { u with counts := u.counts.set cls r.1 }
  if r.2 then u1.setPend cls else u1

/-- Completes an operation on its party's counter (08 R168). A group that has exited keeps no pending bit (R185). -/
def State.complete (s : State) (k : Nat) (r : OpRef) (bad : Bool := false) : State :=
  match r.party with
  | .group slot => s.modGroup k slot fun g =>
      let u := g.uni.completeOp r.cls r.seq bad
      { g with uni := if g.hasExited then { u with pend := 0 } else u }
  | .ct _ _ => s.modParty k r.party fun u => u.completeOp r.cls r.seq bad

/-- Counts a new operation of a class for a party: its place and the new state. -/
def State.countOp (s : State) (k : Nat) (p : Party) (cls : Nat) : OpRef × State :=
  let seq := match (s.core? k).bind (fun c => c.party? p) with
    | some u => (u.count cls).issue.1
    | none => 0
  (⟨p, cls, seq⟩, s.modParty k p fun u => { u with counts := u.counts.modify cls fun e => e.issue.2 })

/-! Soft errors (24 R348, R349). -/

/-- One more event in a counter of a core, which stays at 2^64 - 1 (24 R348). -/
def Core.bumpEcc (c : Core) (j : Nat) : Core :=
  { c with ecc := c.ecc.modify j fun n => if n = BitVec.allOnes 64 then n else n + 1 }
/-- One more uncorrectable event on a core (24 R349). -/
def State.countEcc (s : State) (k : Nat) : State := s.modCore k fun c => c.bumpEcc 3

/-! Program counters and loops. -/

/-- A PC moved by a signed number of bytes. -/
def Pc.add (p : Pc) (n : Int) : Pc := { p with off := p.off + BitVec.ofInt 32 n }
/-- A PC as a link value (04 R81). -/
def Pc.link (p : Pc) : DWord := 0#20 ++ (p.token ++ p.off)
/-- The PC that a link value names. -/
def Pc.ofLink (v : DWord) : Pc := ⟨v.extractLsb' 32 12, v.extractLsb' 0 32⟩

/-- The active loop that ends at a PC and started most recently (04 R80). -/
def topLoop (pc : Pc) (ls : List LoopReg) : Option Nat :=
  (List.range 4).foldl (fun best i =>
    let l := ls.getD i LoopReg.zero
    if l.active && l.last == pc then
      match best with
      | none => some i
      | some b => if (ls.getD b LoopReg.zero).order < l.order then some i else best
    else best) none

/-- R80: processes the loops that end at pc, most recent first; the result is the next PC and the loops. -/
def loopEnd : Nat → Pc → Pc → List LoopReg → Pc × List LoopReg
  | 0, _, next, ls => (next, ls)
  | n + 1, pc, next, ls =>
    match topLoop pc ls with
    | none => (next, ls)
    | some i =>
      let l := ls.getD i LoopReg.zero
      if l.remaining - 1 = 0 then
        loopEnd n pc next (ls.set i { l with active := false, remaining := 0 })
      else (l.first, ls.set i { l with remaining := l.remaining - 1 })

/-- Goes on to the next instruction in sequence (04 R80). -/
def Flow.advance (f : Flow) (len : Nat) : Flow :=
  let r := loopEnd 4 f.pc (f.pc.add len) f.loops
  { f with pc := r.1, loops := r.2 }
/-- Goes to a PC that is not the sequential one. -/
def Flow.goto (f : Flow) (pc : Pc) : Flow := { f with pc := pc }

end Sys2Proof.Machine
end

