-- ==== Sys2Proof/Machine/Translate.lean ====
section
/-! DEFINITION. Device-virtual addresses (25 R352 to R358), the fabric (26 R364 to R366) and physical memory. A chunk is
translated by a cached entry that covers it, or else walked when it is reached (25 R357, log 8). -/
namespace Sys2Proof.Machine

/-! The address map (01 Table 1.4). -/

/-- The ranges of Table 1.4; slice k o is offset o of the slice of core k. -/
inductive Range where
  | slice (core off : Nat)
  | gddr
  | fabric
  | reserved
  deriving DecidableEq, Repr

/-- The range that holds a byte, as an access issued on core k sees it (01 R19, R20). -/
def rangeOf (k a : Nat) : Range :=
  if a < 0x04000000 then .slice k a
  else if a < 0x000100000000 then .reserved
  else if a < 0x000200000000 then .slice ((a - 0x000100000000) / 0x04000000) (a % 0x04000000)
  else if a < 0x010000000000 then .reserved
  else if a < 0x018000000000 then .gddr
  else if a < 0x020000000000 then .reserved
  else if a < 2 ^ 48 then .fabric
  else .reserved

/-- The address is device-virtual. -/
def isVirtual (a : Nat) : Bool := match rangeOf 0 a with | .gddr => true | .fabric => true | _ => false

/-- Number of set bits of a value below 2^n. -/
def popBits (n v : Nat) : Nat := ((List.range n).filter fun i => v.testBit i).length

/-- The physical capacity below the lantern region (25 R353, 26 R363): 32 GiB for each enabled station. -/
def State.capacity (s : State) : Nat := popBits 16 s.stations.toNat * 2 ^ 35 - s.lsize * 2 ^ 30

/-- A physical address: in local GDDR 7, or on the fabric. -/
structure Phys where
  fabric : Bool
  pa : Nat
  deriving DecidableEq, Repr

/-- The least of a list of numbers. -/
def least (l : List Nat) : Option Nat :=
  match l with | [] => none | a :: r => some (r.foldl min a)

/-- The lowest byte of local GDDR 7 in [pa, pa + n) that is in error (24 R349). -/
def State.gddrBad (s : State) (pa n : Nat) : Option Nat := least (s.gddrErr.filter fun e => decide (pa ≤ e ∧ e < pa + n))

/-- One table entry of a walk (25 Table 25.1). -/
def State.tableEntry (s : State) (table index : Nat) : DWord := BitVec.ofNat 64 (s.gddr.readLE (table + 8 * index) 8)

/-- Fields of a table entry. -/
def teAddr (e : DWord) : Nat := bits e 12 36 * 4096
/-- V. -/
def teV (e : DWord) : Bool := e.getLsbD 0
/-- LEAF. -/
def teLeaf (e : DWord) : Bool := e.getLsbD 1
/-- W. -/
def teW (e : DWord) : Bool := e.getLsbD 2
/-- S64. -/
def teS64 (e : DWord) : Bool := e.getLsbD 3
/-- TGT. -/
def teTgt (e : DWord) : Bool := e.getLsbD 48
/-- The must-be-zero bits [11:4] and [63:49] are zero. -/
def teZero (e : DWord) : Bool := bits e 4 8 == 0 && bits e 49 15 == 0

/-- Page size of a leaf at a level (25 R354). -/
def pageSize (level : Nat) (e : DWord) : Nat :=
  match level with
  | 2 => 2 ^ 30
  | 1 => 2 ^ 21
  | _ => if teS64 e then 2 ^ 16 else 2 ^ 12

/-- R355: the checks of a leaf, and the physical address it gives. -/
def State.leaf (s : State) (level : Nat) (e : DWord) (va : Nat) (write : Bool) : Option Phys :=
  let size := pageSize level e
  let frame := teAddr e
  if frame % size = 0 ∧ (teTgt e = false → frame + size ≤ s.capacity) ∧ (write = true → teW e = true)
      ∧ (if teTgt e then decide (va ≥ 0x020000000000) else decide (va < 0x018000000000)) = true
  then some ⟨teTgt e, frame + va % size⟩ else none

/-- R354, R355: the walk from a table at a level (3 to 0) down. Where the 16 entries of a 64 KiB page disagree, each chunk uses
the entry that its own address indexes (25 R356, log 102: DESIGN CHOICE). -/
def State.walk (s : State) : Nat → Nat → Nat → Bool → Option Phys
  | level, table, va, write =>
    if s.capacity ≤ table + 4095 then none
    else
      let e := s.tableEntry table (va / 2 ^ (12 + 9 * level) % 512)
      if (s.gddrBad (table + 8 * (va / 2 ^ (12 + 9 * level) % 512)) 8).isSome then none
      else if !teV e || !teZero e || (teS64 e && level != 0) then none
      else match level with
        | 0 => if teLeaf e then s.leaf 0 e va write else none
        | l + 1 =>
          if teLeaf e then (if l + 1 = 3 then none else s.leaf (l + 1) e va write)
          else if teTgt e then none
          else State.walk s l (teAddr e) va write

/-- The translation of a device-virtual address for a context by its tables (25 R352, R355). -/
def State.walked (s : State) (ctx va : Nat) (write : Bool) : Option Phys :=
  match s.ctx? ctx with
  | none => none
  | some c =>
    if c.ptroot.getLsbD 0 && isVirtual va then s.walk 3 (teAddr c.ptroot) va write else none

/-- A cached translation covers an address of a context. -/
def Cached.covers (c : Cached) (ctx va : Nat) : Bool := c.ctx == ctx && decide (c.va ≤ va ∧ va < c.va + c.size)

/-- The translation of a device-virtual address for a context (25 R352, R355, R357), with the cache of
the port that translates now; none is CAUSE 0x19. -/
def State.translate (s : State) (ctx va : Nat) (write : Bool) : Option Phys :=
  match s.tlb.find? fun c => c.port == s.port && c.covers ctx va with
  | some c => if write && !c.w then none else some ⟨c.fabric, c.frame + (va - c.va)⟩
  | none => s.walked ctx va write

/-- The translation cache of the port takes in the translation of the 4 KiB that hold an address, if it is a good one (25 R357). -/
def State.cacheAt (s : State) (ctx va : Nat) : State :=
  let a := va / 4096 * 4096
  match s.walked ctx a false with
  | none => s
  | some p => { s with tlb := ⟨s.port, ctx, a, 4096, p.fabric, p.pa, (s.walked ctx a true).isSome⟩ :: s.tlb }

/-- The translation cache of the port drops the entries that cover an address of a context (25 R357). -/
def State.forgetAt (s : State) (ctx va : Nat) : State :=
  { s with tlb := s.tlb.filter fun c => !(c.port == s.port && c.covers ctx va) }

/-- The CAUSE of a device-virtual address that did not translate: where only an error in a table entry stands in the way
0x1B, and else 0x19 (24 R349, 25 R355). -/
def State.walkCause (s : State) (ctx a : Nat) (write : Bool) : Nat :=
  if !s.gddrErr.isEmpty && (State.translate { s with gddrErr := [] } ctx a write).isSome
      && (s.translate ctx a write).isNone then 0x1B
  else 0x19
/-- The CAUSE of an address that a fill could not translate: outside device-virtual memory 0x07 (17 Table 17.3). -/
def State.transCause (s : State) (ctx a : Nat) (write : Bool) : Nat :=
  if isVirtual a then s.walkCause ctx a write else 0x07

/-- R365: an access of n bytes can be sent to the node that its physical address names, which accepts it (log 113: DESIGN
CHOICE). -/
def State.routeOk (s : State) (pa n : Nat) (write : Bool) : Bool :=
  let node := pa / 2 ^ 40
  let off := pa % 2 ^ 40
  let e := s.routes.getD node 0
  let up := (List.range 16).any fun p => e.getLsbD p && bits s.portWidth (4 * p) 4 != 0
  e.getLsbD 16 && up && node != s.node.toNat && Config.accepts s.ticks node off n write

/-- A chunk's physical place, with the fabric's consent where it leaves the device. -/
def State.chunkAt (s : State) (ctx va n : Nat) (write : Bool) : Option Phys :=
  match s.translate ctx va write with
  | none => none
  | some p => if p.fabric && !s.routeOk p.pa n write then none else some p

/-- Bytes at a physical place. -/
def State.physRead (s : State) (p : Phys) (n : Nat) : List Byte :=
  if p.fabric then s.remote.readBytes p.pa n else s.gddr.readBytes p.pa n
/-- The marks of GDDR 7 bytes in error that remain when n bytes are written. -/
def State.healGddr (s : State) (pa n : Nat) : List Nat := s.gddrErr.filter fun e => !decide (pa ≤ e ∧ e < pa + n)
/-- Stores bytes at a physical place, for whom everyone sees them at once (17 R284). -/
def State.physWrite (s : State) (p : Phys) (bs : List Byte) : State :=
  if p.fabric then { s with remote := s.remote.writeBytes p.pa bs, remoteStart := s.remoteStart.writeBytes p.pa bs }
  else { s with
    gddr := s.gddr.writeBytes p.pa bs, gddrStart := s.gddrStart.writeBytes p.pa bs, gddrErr := s.healGddr p.pa bs.length }
/-- Bytes as an association list from a key on. -/
def AMap.setBytes (m : AMap Byte) : Nat → List Byte → AMap Byte
  | _, [] => m
  | a, b :: r => AMap.setBytes (AMap.set m a b) (a + 1) r
/-- The key of a physical place among what a core has written. -/
def Phys.key (p : Phys) : Nat := if p.fabric then 2 ^ 48 + p.pa else p.pa
/-- Stores bytes at a physical place for an engine of core k; fills of other cores see them after the next boundary (17
R284). -/
def State.physWriteBy (s : State) (k : Nat) (p : Phys) (bs : List Byte) : State :=
  let s1 := if p.fabric then { s with remote := s.remote.writeBytes p.pa bs }
    else { s with gddr := s.gddr.writeBytes p.pa bs, gddrErr := s.healGddr p.pa bs.length }
  s1.modCore k fun c => { c with wrote := AMap.setBytes c.wrote p.key bs }
/-- Bytes at a physical place as a fill of core k reads them (17 R284): what its own engines have written since the last
boundary, and else what was there at that boundary. -/
def State.fillRead (s : State) (k : Nat) (p : Phys) (n : Nat) : List Byte :=
  let wrote := match s.core? k with | some c => c.wrote | none => []
  (List.range n).map fun i =>
    (AMap.get? wrote (p.key + i)).getD (if p.fabric then s.remoteStart.read (p.pa + i) else s.gddrStart.read (p.pa + i))

/-- The pieces of [a, a + n) between multiples of 4 KiB, as start and length (08 R177); fuel bounds their number. -/
def chunksFrom : Nat → Nat → Nat → List (Nat × Nat)
  | 0, _, _ => []
  | _, _, 0 => []
  | fuel + 1, a, n + 1 =>
    let len := min (n + 1) (4096 - a % 4096)
    (a, len) :: chunksFrom fuel (a + len) (n + 1 - len)

/-- The 4 KiB pieces of [a, a + n). -/
def chunks (a n : Nat) : List (Nat × Nat) := chunksFrom (n / 4096 + 2) a n

/-- Reads n bytes of a context's device-virtual space; an error is the lowest address that faults. -/
def State.virtRead (s : State) (ctx a n : Nat) : Except Nat (List Byte) :=
  (chunks a n).foldl (fun acc c =>
    match acc with
    | .error e => .error e
    | .ok bs => match s.chunkAt ctx c.1 c.2 false with
      | none => .error c.1
      | some p => .ok (bs ++ s.physRead p c.2)) (.ok [])

/-- A failed translation: the address with its CAUSE. -/
def State.walkFault (s : State) (ctx a : Nat) (write : Bool) : Nat × Nat := (s.walkCause ctx a write, a)
/-- Of faults as CAUSE and address, the one of the lowest address. -/
def leastFault (l : List (Nat × Nat)) : Option (Nat × Nat) :=
  (least (l.map Prod.snd)).bind fun a => l.find? fun f => f.2 == a

/-- The lowest device-virtual address of [a, a + n) whose byte in local GDDR 7 is in error (24 R349). -/
def State.virtBad (s : State) (ctx a n : Nat) : Option Nat :=
  if s.gddrErr.isEmpty then none
  else least ((chunks a n).filterMap fun c => match s.translate ctx c.1 false with
    | some p => if p.fabric then none else (s.gddrBad p.pa c.2).map fun e => c.1 + (e - p.pa)
    | none => none)

/-- Reads n bytes of a context's device-virtual space; an error is a CAUSE with the lowest address that it concerns (24
R349). -/
def State.virtGet (s : State) (ctx a n : Nat) : Except (Nat × Nat) (List Byte) :=
  match s.virtRead ctx a n, s.virtBad ctx a n with
  | .error e, _ => .error (s.walkCause ctx e false, e)
  | .ok _, some e => .error (0x1B, e)
  | .ok bs, none => .ok bs

/-- Reads n bytes of a context's device-virtual space for a fill of core k (17 R281, R284); an error is a CAUSE with the
lowest address that it concerns. -/
def State.virtFill (s : State) (k ctx a n : Nat) : Except (Nat × Nat) (List Byte) :=
  match s.virtRead ctx a n, s.virtBad ctx a n with
  | .error e, _ => .error (s.transCause ctx e false, e)
  | .ok _, some e => .error (0x1B, e)
  | .ok _, none => .ok ((chunks a n).flatMap fun c => match s.chunkAt ctx c.1 c.2 false with
      | some p => s.fillRead k p c.2
      | none => [])

/-- Every chunk of [a, a + n) can be written; an error is the lowest address that faults. -/
def State.virtCheck (s : State) (ctx a n : Nat) (write : Bool) : Except Nat Unit :=
  (chunks a n).foldl (fun acc c =>
    match acc with
    | .error e => .error e
    | .ok () => match s.chunkAt ctx c.1 c.2 write with
      | none => .error c.1
      | some _ => .ok ()) (.ok ())

/-- Writes bytes into a context's device-virtual space, chunk by chunk; a chunk that faults is not written. -/
def State.virtStore (s : State) (ctx a : Nat) (bs : List Byte) : State :=
  (chunks a bs.length).foldl (fun s c =>
    match s.chunkAt ctx c.1 c.2 true with
    | none => s
    | some p => s.physWrite p ((bs.drop (c.1 - a)).take c.2)) s

/-- Writes bytes into a context's device-virtual space for an engine of core k, chunk by chunk. -/
def State.virtStoreBy (s : State) (k ctx a : Nat) (bs : List Byte) : State :=
  (chunks a bs.length).foldl (fun s c =>
    match s.chunkAt ctx c.1 c.2 true with
    | none => s
    | some p => s.physWriteBy k p ((bs.drop (c.1 - a)).take c.2)) s

/-- Writes bytes if every chunk can be written; an error is the lowest address that faults, with nothing written. -/
def State.virtWrite (s : State) (ctx a : Nat) (bs : List Byte) : Except Nat State :=
  match s.virtCheck ctx a bs.length true with
  | .error e => .error e
  | .ok () => .ok (s.virtStore ctx a bs)

end Sys2Proof.Machine
end

