-- ==== Sys2Proof/Machine/FaultQueue.lean ====
section
/-! DEFINITION. Fault records (08 R184, Table 8.6) and the fault queue of a context (24 R346, R347). -/
namespace Sys2Proof.Machine

/-- The fields of a fault record (08 Table 8.6). -/
structure FaultRec where
  phase : DWord
  launch : DWord
  wgid : Nat
  pc : Pc
  gidx : Nat
  core : Nat
  addr : Nat
  detail : Nat
  exited : Bool
  ct : Bool
  cls : Nat
  cause : Nat
  deriving DecidableEq, Repr

/-- A record with every field zero. -/
def FaultRec.zero : FaultRec := ⟨0, 0, 0, ⟨0, 0⟩, 0, 0, 0, 0, false, false, 0, 0⟩

/-- The 64 bytes of a record (08 Table 8.6). -/
def FaultRec.bytes (r : FaultRec) : List Byte :=
  toLE 64 (r.cause % 2 ^ 8 + (r.cls % 8) * 2 ^ 11 + (if r.ct then 2 ^ 14 else 0) + (if r.exited then 2 ^ 15 else 0)
    + (r.detail % 2 ^ 16) * 2 ^ 16 + (r.addr % 2 ^ 48) * 2 ^ 240 + (r.core % 64) * 2 ^ 298 + (r.gidx % 16) * 2 ^ 304
    + r.pc.token.toNat * 2 ^ 308 + r.pc.off.toNat * 2 ^ 320 + (r.wgid % 2 ^ 32) * 2 ^ 352
    + r.launch.toNat * 2 ^ 384 + r.phase.toNat * 2 ^ 448)

/-- One more record lost (24 R346). -/
def State.countLoss (s : State) (ctx : Nat) : State := { s with loss := s.loss.modify ctx (· + 1) }

/-- FQ fields (24 Table 24.2). -/
def fqBase (fq : DWord) : Nat := bits fq 0 48
/-- LSZ. -/
def fqLsz (fq : DWord) : Nat := bits fq 59 5

/-- R346, R347: appends a record to a context's queue, counts it as dropped when the queue is full, or counts it as lost
when there is no queue or an access to the queue faults; so it does where the header, or a table entry on the way, is in error
beyond correction, which the uncorrectable counter of the core that the record names counts (24 R349, log 114: DEDUCED). -/
def State.appendRecord (s : State) (ctx : Nat) (r : FaultRec) : State :=
  match s.ctx? ctx with
  | none => s
  | some c =>
    if c.fq = 0 then s.countLoss ctx
    else
      let qb := fqBase c.fq
      let size := 2 ^ fqLsz c.fq
      let lost := fun (s : State) (e : Nat × Nat) => (if e.1 = 0x1B then s.countEcc r.core else s).countLoss ctx
      match s.virtGet ctx qb 4, s.virtGet ctx (qb + 8) 4 with
      | .ok wb, .ok rb =>
        let widx := ofLE wb
        if (widx + 2 ^ 32 - ofLE rb) % 2 ^ 32 = size then
          match s.virtGet ctx (qb + 0x10) 8 with
          | .error e => lost s e
          | .ok ob => match s.virtWrite ctx (qb + 0x10) (toLE 8 (ofLE ob + 1)) with
            | .error e => lost s (s.walkFault ctx e true)
            | .ok s' => s'
        else
          match s.virtWrite ctx (qb + 0x40 + 64 * (widx % size)) r.bytes with
          | .error e => lost s (s.walkFault ctx e true)
          | .ok s' => match s'.virtWrite ctx qb (toLE 4 ((widx + 1) % 2 ^ 32)) with
            | .error e => lost s' (s'.walkFault ctx e true)
            | .ok s'' => s''
      | .error e, _ => lost s e
      | _, .error e => lost s e

/-- The issuing group of a party has exited. -/
def State.partyExited (s : State) (k : Nat) (p : Option Party) : Bool :=
  match p with
  | some (.group slot) => match s.group? k slot with | some g => g.hasExited | none => true
  | _ => false

/-- The record of a deferred fault of an issuer (08 R184). -/
def State.deferredRec (s : State) (w : Issuer) (cls cause addr : Nat) : FaultRec :=
  { phase := s.phase, launch := w.launch, wgid := w.wgid, pc := w.pc, gidx := w.gidx, core := w.core, addr := addr,
    detail := 0, exited := s.partyExited w.core w.party,
    ct := match w.party with | some (.ct _ _) => true | _ => false, cls := cls, cause := cause }

/-- R184: writes the record of a deferred fault of an issuer. -/
def State.deferFault (s : State) (w : Issuer) (cls cause addr : Nat) : State :=
  s.appendRecord w.ctx (s.deferredRec w cls cause addr)

end Sys2Proof.Machine
end

