-- ==== Sys2Proof/Machine/Ops.lean ====
section
/-! DEFINITION. The operations every instruction is built from: who may issue, the checks of Table 2.16 in order, the
skip of an instruction that selects no lane, waiting, advancing, and taking a trap (21 R303, 24 R342, R343) with its
return (21 R311). -/
namespace Sys2Proof.Machine

/-! The issuing thread. -/

/-- The issuer is a control thread. -/
def Iss.isCt (x : Iss) : Bool := x.grp.isNone
/-- The issuer as a party (08 R168). -/
def Iss.party (x : Iss) : Party := if x.isCt then .ct x.ctx x.sup else .group x.slot
/-- The PC of the instruction. -/
def Iss.pc (x : Iss) : Pc := x.flow.pc
/-- Register blocks of the issuing group. -/
def Iss.blocks (x : Iss) : Nat := match x.grp with | some g => g.blocks | none => 0

/-- A straggler event (23 R334). -/
def Delivery.straggle (d : Delivery) : Bool := d.cause == 0x18#8 && d.detail == 1#16

/-- A straggler event of the context is, or was last, handled on the core and its groups there have not been resumed
(21 R311, 23 R334). -/
def CoreCtx.straggling (c : CoreCtx) : Bool := c.held

/-- The waits of a split at which it is still looked at. -/
def Wait.active : Wait → Bool
  | .none => true
  | .bwt _ => true
  | .claimed => true
  | _ => false

/-- The issuing thread, if it can issue: its core is on, power-on has ended (27 R371), and it is neither parked, frozen,
stopped, detached nor in a queue or rendezvous. -/
def State.iss? (s : State) (t : Thread) : Option Iss :=
  if s.boot != 6 then none else
  match t with
  | .group k slot e =>
    match s.core? k with
    | none => none
    | some c =>
      match c.group? slot with
      | none => none
      | some g =>
        match g.split? e, c.cctx? g.ctx, s.ctx? g.ctx with
        | some sp, some cc, some d =>
          if c.on && !g.parked && !g.frozen && !d.detached && !cc.straggling && sp.wait.active && s.phase.getLsbD 0 == false
          then some ⟨t, k, g.ctx, false, slot, e, some g, g.uni, sp.flow, sp.exec, sp.exec⟩
          else none
        | _, _, _ => none
  | .ct k ctx =>
    match s.core? k, s.ctx? ctx with
    | some c, some d =>
      match c.cctx? ctx with
      | none => none
      | some cc =>
        if !c.on || !cc.resident then none
        else if cc.handling.isSome then
          some ⟨t, k, ctx, true, 0, 0, none, cc.sup.uni, cc.sup.flow, LaneSet.all, LaneSet.all⟩
        else if cc.running && !cc.stopped && !d.detached && cc.wait.active && s.window == .closed then
          some ⟨t, k, ctx, false, 0, 0, none, cc.user.uni, cc.user.flow, LaneSet.all, LaneSet.all⟩
        else none
    | _, _ => none

/-- The lanes that the guard leaves of a set (02 R34); a CT's mask is all zeros or all ones. -/
def guardSel (g : Guard) (u : Uni) (exec : LaneSet) : LaneSet :=
  if g.reg = 0#4 then exec
  else exec &&& (if g.neg then ~~~(u.mask g.reg.toNat) else u.mask g.reg.toNat)

/-! Changing the issuing thread. -/

/-- Changes the uniform state of the issuer. -/
def State.modUni (s : State) (x : Iss) (f : Uni → Uni) : State := s.modParty x.core x.party f
/-- Changes PC, FMT and loops of the issuer, which has now issued: it is no longer urgent nor ready (22 R326), nor waiting. -/
def State.modFlow (s : State) (x : Iss) (f : Flow → Flow) : State :=
  if x.isCt then
    s.modCctx x.core x.ctx fun c =>
      if x.sup then { c with sup := { c.sup with flow := f c.sup.flow } }
      else { c with user := { c.user with flow := f c.user.flow }, wait := .none }
  else s.modGroup x.core x.slot fun g =>
    g.modSplit x.entry fun sp => { sp with flow := f sp.flow, wait := .none, urgent := false, since := none, yielded := false }
/-- Changes the issuing group. -/
def State.modIssGroup (s : State) (x : Iss) (f : Group → Group) : State := s.modGroup x.core x.slot f
/-- Makes the issuer wait. -/
def State.setWait (s : State) (x : Iss) (w : Wait) : State :=
  if x.isCt then s.modCctx x.core x.ctx fun c => if x.sup then c else { c with wait := w }
  else s.modGroup x.core x.slot fun g => g.modSplit x.entry fun sp => { sp with wait := w }
/-- Goes on to the next instruction in sequence, with the loops that end here (04 R80). -/
def State.advance (s : State) (x : Iss) (len : Nat) : State := s.modFlow x fun f => f.advance len
/-- Goes to a PC that is not the sequential one. -/
def State.jump (s : State) (x : Iss) (pc : Pc) : State := s.modFlow x fun f => f.goto pc

/-! Registers by operand field (Table 2.4): 0 to 383 are v registers, 384 to 511 s registers. -/

/-- The field names an s register. -/
def isS (r : BitVec 9) : Bool := decide (384 ≤ r.toNat)
/-- The number of the s register that a field names. -/
def sNum (r : BitVec 9) : Nat := r.toNat - 384
/-- The value of an s register operand. -/
def Iss.s (x : Iss) (r : BitVec 9) : DWord := x.uni.get (sNum r)
/-- Lane values of a v register operand. -/
def Iss.v (x : Iss) (r : Nat) : List Word := match x.grp with | some g => g.v.getD r [] | none => []
/-- Lane i of a register: a v register's lane, or the low half of an s register (06 R117). -/
def Iss.lane (x : Iss) (r : BitVec 9) (i : Nat) : Word := if isS r then (x.s r).lo else (x.v r.toNat).getD i 0
/-- The register is empty. -/
def Iss.empty (x : Iss) (r : BitVec 9) : Bool :=
  if isS r then x.uni.sEmpty.getLsbD (sNum r)
  else match x.grp with | some g => g.vEmpty.getLsbD r.toNat | none => false
/-- The register is tainted. -/
def Iss.taint (x : Iss) (r : BitVec 9) : Bool :=
  if isS r then x.uni.sTaint.getLsbD (sNum r)
  else match x.grp with | some g => g.vTaint.getLsbD r.toNat | none => false

/-- Writes an s register of the issuer, full. -/
def State.setS (s : State) (x : Iss) (r : BitVec 9) (v : DWord) (taint : Bool := false) : State :=
  s.modUni x fun u => u.set (sNum r) v taint
/-- Lane values with the selected lanes replaced. -/
def mergeLanes (sel : LaneSet) (old : List Word) (f : Nat → Word) : List Word :=
  (List.range 128).map fun i => if sel.getLsbD i then f i else old.getD i 0
/-- The lanes of v_r that are in error. -/
def Group.laneErr (g : Group) (r : Nat) : LaneSet := AMap.getD g.vErr r 0
/-- The lanes of a register operand that are in error, among those that an instruction reads (24 R349). -/
def Iss.inError (x : Iss) (lanes : LaneSet) (r : BitVec 9) : LaneSet :=
  if isS r then if x.uni.sErr.getLsbD (sNum r) then x.sel else 0
  else match x.grp with | some g => g.laneErr r.toNat &&& lanes | none => 0

/-- Clears the error marks of lanes of a v register (24 R350). -/
def Group.healV (g : Group) (r : Nat) (sel : LaneSet) : AMap LaneSet :=
  if g.vErr.isEmpty then [] else
  if g.laneErr r &&& ~~~sel = 0 then AMap.erase g.vErr r else AMap.set g.vErr r (g.laneErr r &&& ~~~sel)
/-- Writes lanes of a v register of a group, full, with the given taint and no longer in error. -/
def Group.setV (g : Group) (r : Nat) (sel : LaneSet) (f : Nat → Word) (taint : Bool := false) : Group :=
  { g with
    v := g.v.set r (mergeLanes sel (g.v.getD r []) f)
    vEmpty := g.vEmpty &&& ~~~(1#384 <<< r)
    vErr := g.healV r sel
    vTaint := if taint then g.vTaint ||| (1#384 <<< r) else g.vTaint &&& ~~~(1#384 <<< r) }
/-- Marks a v register empty. -/
def Group.markV (g : Group) (r : Nat) : Group := { g with vEmpty := g.vEmpty ||| (1#384 <<< r) }
/-- Writes the selected lanes of a v register of the issuing group. -/
def State.setV (s : State) (x : Iss) (r : Nat) (f : Nat → Word) (taint : Bool := false) : State :=
  s.modIssGroup x fun g => g.setV r x.sel f taint
/-- Writes a mask of the issuer. -/
def State.setM (s : State) (x : Iss) (r : BitVec 9) (m : LaneSet) : State :=
  s.modUni x fun u => u.setMask (bits r 0 4) m
/-- Marks a register of the issuer empty. -/
def State.markEmpty (s : State) (x : Iss) (r : BitVec 9) : State :=
  if isS r then s.modUni x fun u => u.markEmpty (sNum r) else s.modIssGroup x fun g => g.markV r.toNat
/-- ORs flags into %fflags of the issuing group (05 R106). -/
def State.orFlags (s : State) (x : Iss) (f : BitVec 5) : State :=
  s.modIssGroup x fun g => { g with fflags := g.fflags ||| f }

/-! Deliveries (21 R303, R311; 24 R342 to R345). -/

/-- TSRC of a delivery (21 Table 21.1). -/
def Delivery.tsrc (d : Delivery) (ctx : Nat) : BitVec 16 :=
  match d.src with
  | .group slot e => BitVec.ofNat 16 (ctx * 2 ^ 12 + e * 2 ^ 8 + (slot % 6) * 2 ^ 5 + (slot / 6) * 2 + 1)
  | .userCt => BitVec.ofNat 16 (ctx * 2 ^ 12)

/-- A delivery of a group is handled or waits (24 R342). -/
def CoreCtx.keepsFrozen (c : CoreCtx) (slot : Nat) : Bool :=
  (c.handling.toList ++ c.deliveries).any fun d => match d.src with | .group t _ => t == slot | .userCt => false
/-- The groups of a context that no delivery keeps frozen go on (21 R311). -/
def Core.thawHalted (c : Core) (cc : CoreCtx) (ctx : Nat) : Core :=
  { c with groups := (List.range c.groups.length).map fun t => (c.group? t).map fun g =>
      if g.ctx = ctx ∧ cc.keepsFrozen t = false then { g with frozen := false } else g }

/-- R303: starts the next delivery of a CT context when none is being handled: the user CT stops, TCAUSE, TSRC, TPC and
TADDR are set, the supervisor state starts at VEC, and %flanes of the source group is set (R343). A straggler or window
event delivers the PC that the user CT has now, and a straggler event freezes the groups (23 R334). What an earlier delivery
that ended by halt has left frozen stays so until now (R311, log 107: DEDUCED). -/
def State.startDelivery (s : State) (k ctx : Nat) : State :=
  match s.cctx? k ctx with
  | none => s
  | some c =>
    match c.handling, c.deliveries with
    | none, d :: rest =>
      let s1 := (s.modCore k fun (b : Core) => b.thawHalted c ctx).modCctx k ctx fun c =>
        { c with
          handling := some d, deliveries := rest, stopped := true,
          tcause := d.detail ++ d.cause, tsrc := d.tsrc ctx, taddr := d.taddr, held := d.straggle,
          tpc := if d.cause = 0x18#8 then c.user.flow.pc else d.tpc,
          sup := { c.sup with flow := { c.sup.flow with pc := ⟨0, c.vec⟩ } }
          supErr := c.supErr.filter fun r => r != .pc }
      match d.src with
      | .group slot _ => s1.modGroup k slot fun g => { g with flanes := d.flanes }
      | .userCt => s1
    | _, _ => s

/-- Queues a delivery for a CT context, and starts it at once if the CT context is in no handler. -/
def State.deliver (s : State) (k ctx : Nat) (d : Delivery) : State :=
  (s.modCctx k ctx fun c => { c with deliveries := c.deliveries ++ [d] }).startDelivery k ctx

/-- What a record says of a source: launch identity, workgroup index and group index (08 Table 8.6). -/
def State.identity (s : State) (k : Nat) (src : Source) : DWord × Nat × Nat :=
  match src with
  | .userCt => (0, 0, 0)
  | .group slot _ =>
    match s.core? k with
    | none => (0, 0, 0)
    | some c =>
      match c.group? slot with
      | none => (0, 0, 0)
      | some g => match c.wgs.get? g.wg with
        | some w => (w.launch, w.wgid, g.gidx)
        | none => (0, 0, g.gidx)

/-- R345: the record of a delivery that ends by halt. -/
def State.haltRecord (s : State) (k ctx : Nat) (d : Delivery) : State :=
  let i := s.identity k d.src
  s.appendRecord ctx
    { phase := s.phase, launch := i.1, wgid := i.2.1, pc := d.pc, gidx := i.2.2, core := k, addr := d.taddr.toNat,
      detail := d.detail.toNat, exited := false, ct := match d.src with | .userCt => true | _ => false,
      cls := 7, cause := d.cause.toNat }

/-- Ends every delivery of a CT context, handled or queued, as if by halt (23 R335 step 1). -/
def State.haltAll (s : State) (k ctx : Nat) : State :=
  match s.cctx? k ctx with
  | none => s
  | some c =>
    let ds := c.handling.toList ++ c.deliveries
    (ds.foldl (fun s d => s.haltRecord k ctx d) s).modCctx k ctx fun c => { c with handling := none, deliveries := [] }

/-! Arrival and detachment (09 R188; 23 R335). -/

/-- A user CT has arrived in a compute superstep, or takes no part (04 R95, 09 R187). -/
def CoreCtx.ctArrived (c : CoreCtx) : Bool :=
  !c.running || (match c.wait with | .arrived _ => true | _ => false)
/-- A user CT has executed xend in this exchange superstep, or takes no part (04 R95, 09 R208). -/
def CoreCtx.ctEnded (c : CoreCtx) : Bool := !c.running || c.wait == .xend

/-- R188, R334: a context has arrived on a core, where no delivery runs or waits. An arrival still in flight has not been judged and counts as held (log 9). -/
def State.arrivedOn (s : State) (k ctx : Nat) : Bool :=
  match s.core? k with
  | none => true
  | some c =>
    (c.groups.all fun g => match g with
      | none => true
      | some g => g.ctx != ctx || ((g.parked || g.hasExited) && g.uni.idle))
    && (match c.cctx? ctx with | none => true | some cc => !cc.resident
        || (cc.ctArrived && cc.user.uni.idle && cc.handling.isNone && cc.deliveries.isEmpty && cc.pops.isEmpty && cc.sup.uni.idle))
    && (c.ops.all fun o => o.who.ctx != ctx)
    && (c.nodes.all fun n => n.ctx != ctx || n.left.isEmpty)
    && (c.results.all fun r => match r.party with
        | .group slot => (match c.group? slot with | some g => g.ctx != ctx | none => true)
        | .ct x _ => x != ctx)
    && (s.deposits.all fun d => d.who.core != k || d.who.ctx != ctx)
    && (s.arrivals.all fun a => a.core != k || a.ctx != ctx)

/-- A core straggles for a context: it has not arrived, or in an exchange superstep its CT has not executed xend
(23 R332, R333). -/
def State.straggles (s : State) (k ctx : Nat) : Bool :=
  if s.phase.getLsbD 0 then
    match s.cctx? k ctx with | none => false | some cc => s.window == .closed && cc.resident && !cc.ctEnded
  else !s.arrivedOn k ctx

/-- The context is not detached, and no straggler event of it is handled on the core: its threads are not frozen
(23 R334, R335). -/
def State.ctxLive (s : State) (k ctx : Nat) : Bool :=
  match s.ctx? ctx, s.cctx? k ctx with | some d, some c => !d.detached && !c.straggling | _, _ => false

/-- A group that can go on: it may take part in a rendezvous that ends now. -/
def State.groupLive (s : State) (k slot : Nat) : Bool :=
  match s.group? k slot with | some g => !g.frozen && !g.parked && s.ctxLive k g.ctx | none => false

/-- A queued matrix operation that will not run: it counts complete (23 R335 step 4), and registers it would have filled
are full, with values that the spec does not state (log 24). Value 2 is its row count, and value 4 + j the first register
of member j. -/
def State.dropMatOp (s : State) (k : Nat) (m : List Nat) (o : MatOp) : State :=
  let s1 := o.refs.foldl (fun s r => s.complete k r) s
  match o.instr with
  | .mout p =>
    if p.fn.getLsbD 6 then
      (List.range m.length).foldl (fun s j => s.modGroup k (m.getD j 0) fun g =>
        (List.range ((o.vals.getD 2 0).toNat)).foldl
          (fun g i => g.setV ((o.vals.getD (4 + j) 0).toNat + i) LaneSet.all fun l =>
            Config.discarded o.id (128 * ((o.vals.getD 2 0).toNat * j + i) + l)) g) s1
    else s1
  | _ => s1

/-- Takes from a context everything it has or waits for at a matrix engine (23 R335 step 4): ownership ends, queued
operations and waiting requests are discarded, and a split that waited in macq issues it again if it ever resumes. -/
def State.dropMatrix (s : State) (k ctx : Nat) : State :=
  match s.core? k with
  | none => s
  | some c =>
    let mine := (c.mat.owner.toList ++ c.mat.susp).filter fun o => o.ctx == ctx
    let s1 := mine.foldl (fun s o => o.ops.foldl (fun s p => s.dropMatOp k o.members p) s) s
    let waiting := (c.mat.queue.filter fun o => o.ctx == ctx).flatMap fun o => o.members
    let s2 := waiting.foldl (fun s slot => s.modGroup k slot fun g =>
      { g with splits := g.splits.map fun sp => sp.map fun sp => if sp.wait = .macq then { sp with wait := .none } else sp }) s1
    s2.modCore k fun c =>
      { c with mat := { c.mat with
          owner := c.mat.owner.filter fun o => o.ctx != ctx
          releasing := c.mat.releasing || c.mat.owner.any fun o => o.ctx == ctx
          lastCtx := match c.mat.owner with | some o => if o.ctx = ctx then some ctx else c.mat.lastCtx
                                            | none => c.mat.lastCtx
          susp := c.mat.susp.filter fun o => o.ctx != ctx
          queue := c.mat.queue.filter fun o => o.ctx != ctx } }

/-- The waits in a rendezvous of the core that a detached context leaves: a joint instruction, an rpak and an mgng, which the
split issues again if it ever resumes (23 R335, R341, log 97). A claim stays in its queue and is served or fails there as
others do (03 R61). -/
def Wait.leaves : Wait → Bool
  | .joint _ => true
  | .rpak _ => true
  | .mgng _ => true
  | _ => false

/-- A detached context leaves the latches of a core (23 R335, R341). -/
def Core.leaveLatches (c : Core) (ctx : Nat) : Core :=
  { c with
    groups := c.groups.map fun g => g.map fun g => if g.ctx = ctx then
        { g with splits := g.splits.map fun sp => sp.map fun sp => if sp.wait.leaves then { sp with wait := .none } else sp }
      else g }

/-- R335: detaches a context on every core, in one step. asker is the core whose firmware asked, if one did. -/
def State.detach (s : State) (ctx : Nat) (asker : Option Nat) : State :=
  match s.ctx? ctx with
  | none => s
  | some d =>
    if d.detached then s else
    let late := (List.range 64).filter fun k => s.straggles k ctx
    let home := ((List.range 64).find? fun k => match s.cctx? k ctx with | some c => c.resident | none => false).getD 0
    let named := if late.isEmpty then [asker.getD home] else late
    let s1 := (List.range 64).foldl (fun s k => s.haltAll k ctx) s
    let s2 := s1.modCtx ctx fun d =>
      { d with member := false, detached := true, rejoin := false, voidBefore := s.nextId,
               xadds := if s.phase.getLsbD 0 then [] else d.xadds }
    let s3 := (List.range 64).foldl (fun s k => (s.dropMatrix k ctx).modCore k fun c => c.leaveLatches ctx) s2
    named.foldl (fun s k => s.appendRecord ctx
      { FaultRec.zero with phase := s.phase, core := k, ct := true, cls := 6, cause := 0x18 }) s3

/-- R304: a trap of firmware is not delivered: the CT context halts, the context is detached, the management core told. -/
def State.firmwareTrap (s : State) (k ctx : Nat) : State :=
  let s1 := match s.cctx? k ctx with
    | none => s
    | some c => match c.handling with
      | none => s
      | some d => (s.haltRecord k ctx d).modCctx k ctx fun c => { c with handling := none }
  let s2 := s1.detach ctx (some k)
  { s2 with outbox := s2.outbox ++ [.detachedByFirmware k ctx] }

/-- What a trap reports (24 Table 24.1). -/
structure TrapInfo where
  cause : Nat
  flanes : LaneSet
  taddr : Nat := 0
  detail : Nat := 0
  tpcAfter : Nat := 0
  deriving DecidableEq, Repr

/-- Raises a trap of a thread (21 R303, R304; 24 R342, R343): a group freezes whole, and the delivery joins the queue of
the CT context of its context on its core; firmware's own trap detaches. -/
def State.raise (s : State) (x : Iss) (t : TrapInfo) : State :=
  if x.sup then s.firmwareTrap x.core x.ctx
  else
    let d : Delivery :=
      { src := if x.isCt then .userCt else .group x.slot x.entry
        cause := BitVec.ofNat 8 t.cause, detail := BitVec.ofNat 16 t.detail, pc := x.pc,
        tpc := x.pc.add t.tpcAfter, taddr := BitVec.ofNat 48 t.taddr, flanes := t.flanes }
    (if x.isCt then s else s.modIssGroup x fun g => { g with frozen := true }).deliver x.core x.ctx d

/-- A trap as the outcome of an instruction: a next state in which the trap has been raised. -/
def trapR (x : Iss) (s : State) (cause : Nat) (flanes : LaneSet := x.sel) (taddr : Nat := 0) : Res :=
  .next (s.raise x { cause := cause, flanes := flanes, taddr := taddr })

/-! The checks of Table 2.16 and the shape every instruction shares. -/

/-- Phase classes (00 R7). -/
inductive PhaseClass where
  | A | C | X
  deriving DecidableEq, Repr

/-- Thread classes (02 R44). -/
inductive ThreadClass where
  | any | group | ct | super
  deriving DecidableEq, Repr

/-- Which registers an operand field may name (02 R33). -/
inductive RegKind where
  | s | v | any
  deriving DecidableEq, Repr

/-- A register that an instruction reads or writes. -/
structure Opnd where
  reg : BitVec 9
  kind : RegKind
  fe : Bool
  deriving DecidableEq, Repr

/-- An operand field read as an s register, a v register, or either. -/
def rdS (a : Src) : Opnd := ⟨a.reg, .s, a.fe⟩
/-- A v register source. -/
def rdV (a : Src) : Opnd := ⟨a.reg, .v, a.fe⟩
/-- A source of either kind. -/
def rdAny (a : Src) : Opnd := ⟨a.reg, .any, a.fe⟩
/-- An s register named by D, or by a field read with FE = 0. -/
def atS (d : BitVec 9) : Opnd := ⟨d, .s, false⟩
/-- A v register named by D. -/
def atV (d : BitVec 9) : Opnd := ⟨d, .v, false⟩
/-- The BASE register of an M64 instruction (02 R38). -/
def atBase (b : BitVec 7) : Opnd := ⟨BitVec.ofNat 9 (384 + b.toNat), .s, false⟩
/-- n registers from a field on, of one kind. -/
def regRange (d : BitVec 9) (n : Nat) (k : RegKind) (fe : Bool := false) : List Opnd :=
  (List.range n).map fun i => ⟨BitVec.ofNat 9 (d.toNat + i), k, fe⟩

/-- R33 for one operand. -/
def Opnd.ok (o : Opnd) (isCt : Bool) (blocks : Nat) : Bool :=
  if isS o.reg then o.kind != .v
  else o.kind != .s && !isCt && decide (o.reg.toNat < 8 * blocks)

/-- What the shared checks need of an instruction. reads and writes list its registers; md is its mask destination;
extra is a further operand rule; always marks the instructions whose entry gives an effect whatever lanes are selected,
joint those that every member of a gang executes regardless of its lanes and once its registers are full (11 R224); noSup those
that firmware may not execute (21 R304); whole those that read lanes of their v registers that they do not select; own those that
find errors in their register sources by themselves (24 R349). -/
structure Req where
  g : Guard
  phase : PhaseClass
  who : ThreadClass
  reads : List Opnd
  writes : List Opnd
  md : Option (BitVec 9) := none
  extra : Bool := true
  always : Bool := false
  joint : Bool := false
  noSup : Bool := false
  whole : Bool := false
  own : Bool := false
  deriving DecidableEq, Repr

/-- The phase class admits the current phase (00 R7, 01 R15). -/
def PhaseClass.admits (p : PhaseClass) (phase : DWord) : Bool :=
  match p with | .A => true | .C => !phase.getLsbD 0 | .X => phase.getLsbD 0

/-- Steps 2, 4, 5 and 6 of Table 2.16: the cause of the first check that fails. -/
def Req.check (r : Req) (x : Iss) (phase : DWord) : Option Nat :=
  if r.who = .super ∧ x.sup = false then some 0x17
  else if r.who = .group ∧ x.isCt = true then some 0x02
  else if r.who = .ct ∧ x.isCt = false then some 0x05
  else if r.noSup = true ∧ x.sup = true then some 0x05
  else if r.phase.admits phase = false then some 0x03
  else if (r.reads ++ r.writes).all (fun o => o.ok x.isCt x.blocks) && r.extra
      && (match r.md with | some d => d != 0#9 | none => true) then none
  else some 0x02

/-- What issuing an instruction comes to before its own checks and effect; ecc is a register source in error (24 R349). -/
inductive Gate where
  | trap (cause : Nat) (lanes : LaneSet)
  | ecc (reg : BitVec 9) (lanes : LaneSet)
  | skip
  | wait
  | go (x : Iss)
  deriving DecidableEq, Repr

/-- The first register source that is in error in a lane that the instruction reads, with those lanes (24 R349). -/
def Iss.badSource (x : Iss) (lanes : LaneSet) (l : List Opnd) : Option (BitVec 9 × LaneSet) :=
  (l.find? fun o => x.inError lanes o.reg != 0).map fun o => (o.reg, x.inError lanes o.reg)

/-- The checks of Table 2.16 up to step 7, the skip of R387, the waits of R53 and R54, and then the reading of the sources
(24 R349). -/
def Req.gate (r : Req) (x : Iss) (phase : DWord) : Gate :=
  match r.check x phase with
  | some c => .trap c x.exec
  | none =>
    let sel := guardSel r.g x.uni x.exec
    let x := { x with sel := sel }
    let acts := sel != 0 || r.joint
    if acts = false ∧ r.always = false then .skip
    else if acts = true ∧ r.reads.any (fun o => o.fe && x.empty o.reg) = true then .trap 0x06 sel
    else if acts = true ∧ (r.reads ++ r.writes).any (fun o => x.empty o.reg) = true then .wait
    else match (if acts && !r.own then x.badSource (if r.whole then LaneSet.all else sel) r.reads else none) with
      | some (reg, lanes) => .ecc reg lanes
      | none => .go x

/-- An uncorrectable error in a structure of Table 24.4 as the outcome of an instruction: counted, and trap 0x1B, which
firmware takes as R304 says (24 R349). -/
def eccR (x : Iss) (s : State) (kind taddr : Nat) (lanes : LaneSet := x.sel) : Res :=
  .next ((s.countEcc x.core).raise x { cause := 0x1B, flanes := lanes, taddr := taddr, detail := 256 * kind })

/-- An uncorrectable error in a register source (24 Table 24.4). -/
def regEccR (x : Iss) (s : State) (reg : BitVec 9) (lanes : LaneSet) : Res :=
  eccR x s (if isS reg then 3 else 2) reg.toNat lanes

/-- Issues an instruction of len bytes for the current thread: the shared checks, then its own effect. An instruction that
selects no lane goes on in sequence, and the loops that end there are processed, also where it is a call, callo or ret
(04 R80, log 88: DEDUCED). -/
def issue (r : Req) (len : Nat) (s : State) (eff : Iss → Res) : Res :=
  match s.iss? s.cur with
  | none => .fault .noThread
  | some x =>
    match r.gate x s.phase with
    | .trap c lanes => trapR x s c lanes
    | .ecc reg lanes => regEccR x s reg lanes
    | .skip => .next (s.advance x len)
    | .wait => .next s
    | .go x => eff x

/-- The current thread can issue the instruction, and its shared checks and waits are passed: x is what it sees. -/
def Ready (r : Req) (s : State) (x : Iss) : Prop :=
  ∃ y, s.iss? s.cur = some y ∧ r.gate y s.phase = .go x

/-- The waiting of an instruction whose own condition does not hold yet: it stays, to be looked at again (log 4). -/
def waitR (s : State) : Res := .next s

/-- The bytes of a V64, V96 or E128 instruction (Table 2.1). -/
def opLen (o : Op) : Nat := match o.ext with | .none => 8 | .w2 _ => 12 | .w23 _ _ => 16

/-- The issuer as a fault record names it (08 R184). -/
def State.issuer (s : State) (x : Iss) : Issuer :=
  let i := s.identity x.core (if x.isCt then .userCt else .group x.slot x.entry)
  { core := x.core, ctx := x.ctx, party := some x.party, pc := x.pc, launch := i.1, wgid := i.2.1, gidx := i.2.2 }

end Sys2Proof.Machine
end

