-- ==== Sys2Proof/Machine/Operands.lean ====
section
/-! DEFINITION. Operand forms: immediates, M64 addresses, cross-lane blocks, counts (02 R35 to R42, 06 R117). -/
namespace Sys2Proof.Machine

/-! The immediate B of rows 0x1, 0x3 and 0x4, smov and fmtset (02 R39, R41). -/

/-- B as a 64-bit value: an s register, a 32-bit immediate sign-extended, or a 64-bit immediate. -/
def Iss.uniB (x : Iss) (o : Op) : DWord :=
  if immBit o then (match o.ext with | .w23 a b => b ++ a | .w2 a => a.signExtend 64 | .none => 0) else x.s o.b.reg

/-! M64 addresses (02 R38). -/

/-- X is not the code for no index. -/
def hasX (o : M64) : Bool := o.x != 0x3FF#10
/-- The index register operand. -/
def srcX (o : M64) : Src := ⟨o.x.getLsbD 9, o.x.extractLsb' 0 9⟩
/-- The operands an M64 instruction reads for its address; kind is what X may name. -/
def addrReads (o : M64) (k : RegKind) : List Opnd :=
  atBase o.base :: (if hasX o then [⟨(srcX o).reg, k, (srcX o).fe⟩] else [])
/-- Index(X, i) as an integer (02 R38, 07 R141). -/
def Iss.index (x : Iss) (o : M64) (i : Nat) : Int :=
  if !hasX o then 0
  else if isS (srcX o).reg then ((x.s (srcX o).reg).toNat : Int)
  else ((x.v (srcX o).reg.toNat).getD i 0).toInt
/-- The effective address in lane i, modulo 2^48. -/
def Iss.addr (x : Iss) (o : M64) (i : Nat) : Nat :=
  (((x.uni.get o.base.toNat).toNat + x.index o i + o.off.toInt) % 2 ^ 48).toNat

/-! Cross-lane blocks (02 R40, Table 2.10). -/

/-- The source lane for lane i; none when it lies outside 0..127. -/
def sourceLane (x : Iss) (w : Word) (idx : BitVec 9) (i : Nat) : Option Nat :=
  let k := xK w
  let j : Int := match xMode w with
    | 0 => i
    | 1 => (i : Int) - k
    | 2 => i + k
    | 3 => (i ^^^ k : Nat)
    | 4 => ((i + k) % 128 : Nat)
    | 5 => k
    | _ => (x.lane idx i).toInt
  if 0 ≤ j ∧ j < 128 then some j.toNat else none

/-- The block of an instruction that may carry one: V96 without an immediate. -/
def crossBlock (o : Op) : Option Word := match o.ext with | .w2 w => if immBit o then none else some w | _ => none

/-- The operand (A when target is false) carries the modifier. -/
def carries (o : Op) (target : Bool) : Bool :=
  match crossBlock o with | some w => xMode w != 0 && xTarget w == target | none => false

/-- The value of A or B in lane i, with the cross-lane block applied where it stands (02 R40, 06 R117). -/
def Iss.val (x : Iss) (o : Op) (target : Bool) (i : Nat) : Word :=
  let r := if target then o.b.reg else o.a.reg
  match crossBlock o with
  | some w =>
    if xMode w != 0 && xTarget w == target then
      match sourceLane x w o.b.reg i with
      | some j => x.lane r j
      | none => if xFill w then x.lane r i else 0
    else x.lane r i
  | none => x.lane r i

/-- B in lane i: the immediate, or the register. -/
def Iss.valB (x : Iss) (o : Op) (i : Nat) : Word := if immBit o then word2 o else x.val o true i

/-- The block is in idx mode, so B names the index register. -/
def isIdx (o : Op) : Bool := match crossBlock o with | some w => xMode w == 6 | none => false

/-- Registers read by a row 0x3, 0x4 or shfl instruction; readsB and readsC say which operands its entry names. -/
def laneReads (o : Op) (readsB readsC : Bool) : List Opnd :=
  rdAny o.a :: ((if (readsB && !immBit o) || isIdx o then [rdAny o.b] else []) ++ (if readsC then [rdAny o.c] else []))

/-- R33: a cross-lane modifier on a uniform register; an index register must be a vector register (Table 2.10). -/
def crossOk (o : Op) : Bool :=
  !(carries o false && isS o.a.reg) && !(carries o true && isS o.b.reg) && !(isIdx o && isS o.b.reg)

/-- A source of rows 0x3 to 0x6 is tainted (03 R56). -/
def Iss.anyTaint (x : Iss) (l : List Opnd) : Bool := l.any fun o => x.taint o.reg

/-! Counts (02 R42). -/

/-- CNT, or the value of s[C] when CNT is 0. -/
def Iss.count (x : Iss) (o : Op) : DWord := if ebCnt o = 0 then x.s o.c.reg else BitVec.ofNat 64 (ebCnt o)
/-- The count register, when there is one. -/
def countReads (o : Op) : List Opnd := if ebCnt o = 0 then [rdS o.c] else []

/-- The lanes that are no helper lanes of the issuing group. -/
def Iss.active (x : Iss) : LaneSet := match x.grp with | some g => x.sel &&& ~~~g.helper | none => x.sel

end Sys2Proof.Machine
end

