-- ==== Sys2Proof/Machine/Access7.lean ====
section
/-! DEFINITION. Access to a core's own slice: the bound check of R20, the order of checks of R142, poisoned words (24
R350), and reading and writing bytes. -/
namespace Sys2Proof.Machine

/-- The bounds of a party's slice accesses (01 R20): the allocation of its workgroup, or the context's slice region. -/
def State.bounds (s : State) (k ctx : Nat) (p : Party) : Nat × Nat :=
  match s.core? k with
  | none => (0, 0)
  | some c =>
    match p with
    | .group slot => (match c.group? slot with
        | some g => (match c.wgs.get? g.wg with | some w => (w.base, w.limit) | none => (0, 0))
        | none => (0, 0))
    | .ct _ _ => (match c.cctx? ctx with | some cc => (cc.slbase, cc.sllim) | none => (0, 0))

/-- The offset lies in the back half of a bound wing pair of the context (09 R192). -/
def CoreCtx.inBack (c : CoreCtx) (off : Nat) : Bool :=
  c.wings.any fun w => decide (w.base + w.size ≤ off ∧ off < w.base + 2 * w.size)
/-- The offset lies in an initialised barrier object (09 R198). -/
def CoreCtx.inObj (c : CoreCtx) (off : Nat) : Bool :=
  c.objs.any fun o => decide (o.addr ≤ off ∧ off < o.addr + 32)

/-- The offset lies in a back half or an object of any context of the core: their slice regions may overlap (log 70). -/
def Core.inBack (c : Core) (off : Nat) : Bool := c.cctx.any fun cc => cc.inBack off
/-- The offset lies in an initialised barrier object of any context of the core. -/
def Core.inObj (c : Core) (off : Nat) : Bool := c.cctx.any fun cc => cc.inObj off

/-- An own-slice offset passes the bound check; objects may be read and not written (01 R20, 09 R192, R198). -/
def State.ownOk (s : State) (k ctx : Nat) (p : Party) (write : Bool) (off : Nat) : Bool :=
  let b := s.bounds k ctx p
  decide (b.1 ≤ off ∧ off < b.2) && decide (off < 0x03C00000)
    && (match s.core? k with | some c => !c.inBack off && !(write && c.inObj off) | none => false)


/-- The judgement of one byte of a load, store or atomic: 0 passes, else the cause (01 R20, R21, 07 R142). -/
def State.judgeByte (s : State) (k ctx : Nat) (p : Party) (write : Bool) (a : Nat) : Nat :=
  match rangeOf k a with
  | .slice j off => if j = k then (if s.ownOk k ctx p write off then 0 else 0x07) else if s.coreOn j then 0x04 else 0x07
  | .gddr => 0x04
  | .fabric => 0x04
  | .reserved => 0x07

/-- The alias offset of an own-slice address. -/
def aliasOff (a : Nat) : Nat := a % 0x04000000

/-- A failed check of an access: its cause, the lanes that fail it, and the address reported. -/
structure AccessFault where
  cause : Nat
  lanes : LaneSet
  addr : Nat
  deriving DecidableEq, Repr

/-- The lanes that fail a test, as a fault, or none when no lane does. -/
def failing (lanes : List Nat) (cause : Nat) (addr : Nat → Nat) (bad : Nat → Bool) : Option AccessFault :=
  let l := lanes.filter bad
  match l.head? with
  | none => none
  | some i => some ⟨cause, LaneSet.ofTest fun j => l.contains j, addr i⟩

/-- The lowest poisoned bank word of a core that [off, off + n) touches and, for a write, does not cover (24 R349,
R350). -/
def Core.poisoned (c : Core) (write : Bool) (off n : Nat) : Option Nat :=
  least (c.poison.filter fun w =>
    decide (16 * w < off + n ∧ off < 16 * w + 16) && !(write && decide (off ≤ 16 * w ∧ 16 * w + 16 ≤ off + n)))

/-- R142 for lanes that each access size bytes: misaligned, then phase-illegal, then out of bounds, then poisoned. -/
def State.accessCheck (s : State) (x : Iss) (lanes : List Nat) (addr : Nat → Nat) (size align : Nat) (write : Bool) :
    Option AccessFault :=
  let judge := fun (cause : Nat) (i : Nat) =>
    (List.range size).any fun j => s.judgeByte x.core x.ctx x.party write (addr i + j) == cause
  let pois := fun (i : Nat) => match s.core? x.core with
    | some c => c.poisoned write (aliasOff (addr i)) size | none => none
  (failing lanes 0x08 addr fun i => addr i % align != 0).orElse fun _ =>
    (failing lanes 0x04 addr (judge 0x04)).orElse fun _ =>
      (failing lanes 0x07 addr (judge 0x07)).orElse fun _ =>
        failing lanes 0x1B (fun i => 16 * (pois i).getD 0) fun i => (pois i).isSome

/-- The trap of a failed access check; an uncorrectable error reports the slice in its detail (24 Table 24.4). -/
def faultR (x : Iss) (s : State) (f : AccessFault) : Res :=
  let s1 := if f.cause = 0x1B then s.countEcc x.core else s
  .next (s1.raise x { cause := f.cause, flanes := f.lanes, taddr := f.addr, detail := if f.cause = 0x1B then 256 else 0 })

/-- Bytes of core k's slice. -/
def State.sliceRead (s : State) (k off n : Nat) : List Byte :=
  match s.core? k with | some c => c.slice.readBytes off n | none => []
/-- A little-endian value in core k's slice. -/
def State.sliceLE (s : State) (k off n : Nat) : Nat := ofLE (s.sliceRead k off n)
/-- Writes bytes of a core's slice; a bank word written whole is no longer poisoned (24 R350). -/
def Core.storeBytes (c : Core) (off : Nat) (bs : List Byte) : Core :=
  { c with
    slice := c.slice.writeBytes off bs
    poison := c.poison.filter fun w => !decide (off ≤ 16 * w ∧ 16 * w + 16 ≤ off + bs.length) }
/-- Writes bytes of core k's slice. -/
def State.sliceWrite (s : State) (k off : Nat) (bs : List Byte) : State := s.modCore k fun c => c.storeBytes off bs

/-! Results that land later (03 R52). -/

/-- Adds a result still to land: its registers become empty now and full when it lands. -/
def State.pendResult (s : State) (x : Iss) (kind : ResKind) (lanes : LaneSet) (vregs : List (Nat × List Word))
    (sregs : List (Nat × DWord)) (taint : Bool) (ref : Option OpRef) (bad : Bool := false) : State :=
  let (id, s1) := s.fresh
  let s2 := s1.modCore x.core fun c =>
    { c with results := c.results ++ [⟨id, kind, x.party, lanes, vregs, sregs, taint, ref, bad⟩] }
  let s3 := vregs.foldl (fun s r => s.modIssGroup x fun g => g.markV r.1) s2
  sregs.foldl (fun s r => s.modUni x fun u => u.markEmpty r.1) s3

/-- Lands a result: the selected lanes of its vector registers and its uniform registers are written, full, with its
taint, and its operation counts complete. -/
def State.landResult (s : State) (k : Nat) (r : Result) : State :=
  let s1 := s.modCore k fun c => { c with results := c.results.filter fun q => q.id != r.id }
  let s2 := match r.party with
    | .group slot => s1.modGroup k slot fun g =>
        r.vregs.foldl (fun g v => g.setV v.1 r.lanes (fun i => v.2.getD i 0) r.taint) g
    | .ct _ _ => s1
  let s3 := r.sregs.foldl (fun s v => s.modParty k r.party fun u => u.set v.1 v.2 r.taint) s2
  match r.ref with | some q => s3.complete k q r.bad | none => s3

/-- A result can land: the access that gives it has been performed (log 5). -/
def Core.canLand (c : Core) (r : Result) : Bool :=
  c.nodes.all fun n => n.left.isEmpty || (match n.kind with | .access _ _ id => id != some r.id | _ => true)

/-- An event that lands a result of one kind (03 R52). -/
def landEvent (name : String) (kind : ResKind) (k id : Nat) (s : State) : Res :=
  match (s.core? k).bind fun c => c.results.find? fun r => r.id == id && r.kind == kind && c.canLand r with
  | none => .fault (.notEnabled name)
  | some r => .next (s.landResult k r)

end Sys2Proof.Machine
end

