-- ==== Sys2Proof/Machine/Sha512.lean ====
section
/-! DEFINITION. SHA-512 (17 R275 names the function; its algorithm and constants are those of FIPS 180-4: PRESUMED,
log 10). -/
namespace Sys2Proof.Machine.Sha512

/-- The round constants. -/
def kTable : List DWord :=
  [0x428a2f98d728ae22, 0x7137449123ef65cd, 0xb5c0fbcfec4d3b2f, 0xe9b5dba58189dbbc] ++
  [0x3956c25bf348b538, 0x59f111f1b605d019, 0x923f82a4af194f9b, 0xab1c5ed5da6d8118] ++
  [0xd807aa98a3030242, 0x12835b0145706fbe, 0x243185be4ee4b28c, 0x550c7dc3d5ffb4e2] ++
  [0x72be5d74f27b896f, 0x80deb1fe3b1696b1, 0x9bdc06a725c71235, 0xc19bf174cf692694] ++
  [0xe49b69c19ef14ad2, 0xefbe4786384f25e3, 0x0fc19dc68b8cd5b5, 0x240ca1cc77ac9c65] ++
  [0x2de92c6f592b0275, 0x4a7484aa6ea6e483, 0x5cb0a9dcbd41fbd4, 0x76f988da831153b5] ++
  [0x983e5152ee66dfab, 0xa831c66d2db43210, 0xb00327c898fb213f, 0xbf597fc7beef0ee4] ++
  [0xc6e00bf33da88fc2, 0xd5a79147930aa725, 0x06ca6351e003826f, 0x142929670a0e6e70] ++
  [0x27b70a8546d22ffc, 0x2e1b21385c26c926, 0x4d2c6dfc5ac42aed, 0x53380d139d95b3df] ++
  [0x650a73548baf63de, 0x766a0abb3c77b2a8, 0x81c2c92e47edaee6, 0x92722c851482353b] ++
  [0xa2bfe8a14cf10364, 0xa81a664bbc423001, 0xc24b8b70d0f89791, 0xc76c51a30654be30] ++
  [0xd192e819d6ef5218, 0xd69906245565a910, 0xf40e35855771202a, 0x106aa07032bbd1b8] ++
  [0x19a4c116b8d2d0c8, 0x1e376c085141ab53, 0x2748774cdf8eeb99, 0x34b0bcb5e19b48a8] ++
  [0x391c0cb3c5c95a63, 0x4ed8aa4ae3418acb, 0x5b9cca4f7763e373, 0x682e6ff3d6b2b8a3] ++
  [0x748f82ee5defb2fc, 0x78a5636f43172f60, 0x84c87814a1f0ab72, 0x8cc702081a6439ec] ++
  [0x90befffa23631e28, 0xa4506cebde82bde9, 0xbef9a3f7b2c67915, 0xc67178f2e372532b] ++
  [0xca273eceea26619c, 0xd186b8c721c0c207, 0xeada7dd6cde0eb1e, 0xf57d4f7fee6ed178] ++
  [0x06f067aa72176fba, 0x0a637dc5a2c898a6, 0x113f9804bef90dae, 0x1b710b35131c471b] ++
  [0x28db77f523047d84, 0x32caab7b40c72493, 0x3c9ebe0a15c9bebc, 0x431d67c49c100d4c] ++
  [0x4cc5d4becb3e42b6, 0x597f299cfc657e2a, 0x5fcb6fab3ad6faec, 0x6c44198c4a475817]

/-- The starting hash value. -/
def h0 : List DWord :=
  [0x6a09e667f3bcc908, 0xbb67ae8584caa73b, 0x3c6ef372fe94f82b, 0xa54ff53a5f1d36f1] ++
  [0x510e527fade682d1, 0x9b05688c2b3e6c1f, 0x1f83d9abfb41bd6b, 0x5be0cd19137e2179]

/-- The eight words of the chaining value. -/
structure Chain where
  a : DWord
  b : DWord
  c : DWord
  d : DWord
  e : DWord
  f : DWord
  g : DWord
  h : DWord
  deriving DecidableEq, Repr

/-- The chaining value of a list of eight words. -/
def Chain.ofList (l : List DWord) : Chain :=
  ⟨l.getD 0 0, l.getD 1 0, l.getD 2 0, l.getD 3 0, l.getD 4 0, l.getD 5 0, l.getD 6 0, l.getD 7 0⟩
/-- The eight words as a list. -/
def Chain.toList (x : Chain) : List DWord := [x.a, x.b, x.c, x.d, x.e, x.f, x.g, x.h]

/-- Rotation to the right. -/
def rotr (x : DWord) (n : Nat) : DWord := (x >>> n) ||| (x <<< (64 - n))

/-- One round. -/
def round (x : Chain) (kw : DWord) : Chain :=
  let s1 := rotr x.e 14 ^^^ rotr x.e 18 ^^^ rotr x.e 41
  let ch := (x.e &&& x.f) ^^^ (~~~x.e &&& x.g)
  let t1 := x.h + s1 + ch + kw
  let s0 := rotr x.a 28 ^^^ rotr x.a 34 ^^^ rotr x.a 39
  let maj := (x.a &&& x.b) ^^^ (x.a &&& x.c) ^^^ (x.b &&& x.c)
  ⟨t1 + (s0 + maj), x.a, x.b, x.c, x.d + t1, x.e, x.f, x.g⟩

/-- The rounds, each with the next of its constants; the window holds the last 16 message words. -/
def rounds : List DWord → List DWord → Chain → Chain
  | [], _, x => x
  | k :: ks, w, x =>
    let w0 := w.getD 0 0
    let w1 := w.getD 1 0
    let w14 := w.getD 14 0
    let next := w0 + (rotr w1 1 ^^^ rotr w1 8 ^^^ (w1 >>> 7)) + w.getD 9 0
      + (rotr w14 19 ^^^ rotr w14 61 ^^^ (w14 >>> 6))
    rounds ks (w.drop 1 ++ [next]) (round x (k + w0))

/-- A big-endian number of bytes. -/
def beNat (bs : List Byte) : Nat := bs.foldl (fun n b => 256 * n + b.toNat) 0
/-- The 8-byte big-endian words of bytes. -/
def words : Nat → List Byte → List DWord
  | 0, _ => []
  | n + 1, bs => BitVec.ofNat 64 (beNat (bs.take 8)) :: words n (bs.drop 8)

/-- Takes one 128-byte block into the chaining value. -/
def block (x : Chain) (bs : List Byte) : Chain :=
  let y := rounds kTable (words 16 bs) x
  ⟨x.a + y.a, x.b + y.b, x.c + y.c, x.d + y.d, x.e + y.e, x.f + y.f, x.g + y.g, x.h + y.h⟩

/-- The message with its padding and length. -/
def pad (bs : List Byte) : List Byte :=
  let n := bs.length
  let z := (239 - n % 128) % 128
  bs ++ 0x80#8 :: List.replicate z 0#8
    ++ (List.range 16).map fun i => BitVec.ofNat 8 (8 * n / 256 ^ (15 - i))

/-- The blocks in order. -/
def blocks : Nat → List Byte → Chain → Chain
  | 0, _, x => x
  | n + 1, bs, x => blocks n (bs.drop 128) (block x (bs.take 128))

/-- The digest in its standard byte order. -/
def digest (bs : List Byte) : List Byte :=
  let p := pad bs
  let x := blocks (p.length / 128) p (Chain.ofList h0)
  x.toList.flatMap fun w => (List.range 8).map fun i => w.extractLsb' (8 * (7 - i)) 8

end Sys2Proof.Machine.Sha512
end

