-- ==== Sys2Proof/Machine/Overlay.lean ====
section
/-! DEFINITION. The instruction store: tokens, images, fills (17 R274 to R289). -/
namespace Sys2Proof.Machine

/-- A token nobody has asked for. -/
def Token.none : Token := ⟨.absent, false, 0, 0, Option.none, [], []⟩

/-- A token of a context on a core. -/
def CoreCtx.token (c : CoreCtx) (t : BitVec 12) : Token := AMap.getD c.tokens t.toNat Token.none
/-- Changes a token. -/
def CoreCtx.setToken (c : CoreCtx) (t : BitVec 12) (v : Token) : CoreCtx := { c with tokens := AMap.set c.tokens t.toNat v }
/-- The token of context ctx on core k. -/
def State.token (s : State) (k ctx : Nat) (t : BitVec 12) : Token :=
  match s.cctx? k ctx with | some c => c.token t | none => Token.none
/-- Sets a token. -/
def State.setToken (s : State) (k ctx : Nat) (t : BitVec 12) (v : Token) : State :=
  s.modCctx k ctx fun c => c.setToken t v

/-- An image of the store by number. -/
def Core.image? (c : Core) (id : Nat) : Option Image := c.images.find? fun i => i.id == id
/-- The image that a context executes at a token: held, and ready. -/
def State.codeImage (s : State) (k ctx : Nat) (t : BitVec 12) : Option Image :=
  match s.core? k with
  | none => none
  | some c => ((s.token k ctx t).image.bind fun id => c.image? id).filter Image.ready

/-- Bytes of the code region, C = LEN - 4 ECNT (17 R276). -/
def Image.codeLen (i : Image) : Nat := i.len - 4 * i.ecnt
/-- The offset of entry j. -/
def Image.entryOff (i : Image) (j : Nat) : Word := i.words.getD ((i.codeLen + 4 * j) / 4) 0

/-- Slots charged to a context on a core (17 R282, R283). -/
def CoreCtx.heldSlots (c : CoreCtx) : Nat := c.tokens.foldl (fun n p => n + p.2.slots) 0
/-- Free slots of the store (17 R274, R283). -/
def Core.freeSlots (c : Core) : Nat := 256 - c.images.foldl (fun n i => n + i.slots) 0

/-- The PCs of a context's splits and user CT on a core (17 R279); exited groups have no split. -/
def Core.pcs (c : Core) (ctx : Nat) : List Pc :=
  (c.groups.flatMap fun g => match g with
    | some g => if g.ctx = ctx then g.splits.filterMap fun sp => sp.map fun sp => sp.flow.pc else []
    | none => [])
  ++ (match c.cctx? ctx with
      | some cc => if cc.running then [cc.user.flow.pc] else []
      | none => [])

/-- The slots of an image hold a PC of a context (17 R279). -/
def Core.imageInUse (c : Core) (ctx id : Nat) : Bool :=
  match c.cctx? ctx with
  | none => false
  | some cc => (c.pcs ctx).any fun p => (cc.token p.token).image == some id
      && decide (p.off.toNat < 4096 * (cc.token p.token).slots)

/-- Some context still holds an image as filling, resident or evict-pending. -/
def Core.imageHeld (c : Core) (id : Nat) : Bool :=
  c.cctx.any fun cc => cc.tokens.any fun p => p.2.image == some id

/-- Lets go of images that nobody holds (17 R279, R283). -/
def Core.dropImages (c : Core) : Core := { c with images := c.images.filter fun i => c.imageHeld i.id }

/-- What a token keeps when it becomes absent: the cause of its latest failure (17 Table 17.5), and who has still to meet the
trap of a failed fill. -/
def Token.gone (t : Token) : Token := { Token.none with cause := t.cause, owed := t.owed }

/-- A token becomes absent (17 R278). -/
def Core.makeAbsent (c : Core) (ctx : Nat) (t : Nat) : Core :=
  (c.modCctx ctx fun cc =>
    let g := (AMap.getD cc.tokens t Token.none).gone
    { cc with tokens := if g = Token.none then AMap.erase cc.tokens t else AMap.set cc.tokens t g }).dropImages

/-- R279: evict-pending tokens whose slots hold no PC of their context become absent. -/
def Core.settleTokens (c : Core) : Core :=
  (List.range 16).foldl (fun c ctx =>
    match c.cctx? ctx with
    | none => c
    | some cc => cc.tokens.foldl (fun c p =>
        match p.2.state, p.2.image with
        | .evictPending, some id => if c.imageInUse ctx id then c else c.makeAbsent ctx p.1
        | _, _ => c) c) c

/-- R279 on core k. -/
def State.settleTokens (s : State) (k : Nat) : State := s.modCore k Core.settleTokens

/-! Table entries (17 Table 17.1). -/

/-- A little-endian field of an entry's bytes: bits [lo + n - 1 : lo]. -/
def bytesField (e : List Byte) (lo n : Nat) : Nat := ofLE e / 2 ^ lo % 2 ^ n
/-- LEN. -/
def teLen (e : List Byte) : Nat := bytesField e 64 32
/-- ECNT. -/
def teEcnt (e : List Byte) : Nat := bytesField e 96 11
/-- ADDR. -/
def teImage (e : List Byte) : Nat := bytesField e 0 48
/-- SHR. -/
def teShr (e : List Byte) : Bool := bytesField e 113 1 == 1
/-- DIGEST. -/
def teDigest (e : List Byte) : List Byte := (e.drop 64).take 64

/-- Cause 2 of Table 17.3 does not apply to an entry (17 R275, R276). -/
def entryOk (e : List Byte) : Bool :=
  bytesField e 112 1 == 1 && bytesField e 48 16 == 0 && bytesField e 107 5 == 0 && bytesField e 114 398 == 0
    && teLen e % 32 == 0 && decide (32 ≤ teLen e ∧ teLen e ≤ 131072) && decide (teEcnt e ≤ 1024)
    && teImage e % 64 == 0 && isVirtual (teImage e) && decide (4 * teEcnt e + 32 ≤ teLen e)

/-- What starting a fill comes to. -/
inductive FillStart where
  | refused
  | started (s : State)
  deriving DecidableEq, Repr

/-- R281 step 1, R282, R283: starts a fill of a token, charged to its context; refs are the operations it completes. An image that
is shared keeps the ECNT of the entry that it was filled for (log 135: DESIGN CHOICE). -/
def State.startFill (s : State) (k ctx : Nat) (t : BitVec 12) (refs : List OpRef) (who : Issuer)
    (placement : Option (Nat × Nat)) : FillStart :=
  match s.core? k, s.ctx? ctx, s.cctx? k ctx with
  | some c, some d, some cc =>
    let owed := (s.token k ctx t).owed
    let read := s.virtFill k ctx (d.ovtb + 128 * t.toNat) 128
    let e := match read with | .ok e => e | .error _ => []
    let bad : BitVec 3 := match read with
      | .error c => if c.1 = 0x1B then 5 else 4
      | .ok e => if entryOk e then 0 else 2
    let badAt := match read with | .error c => c | .ok _ => (0, 0)
    let n := if bad = 0 then (teLen e + 4095) / 4096 else 0
    if cc.ovqt < cc.heldSlots + n then .refused
    else
      let shr := bad == 0 && teShr e
      let shared := if shr then
          c.images.find? fun i => i.shr && i.digest == teDigest e && i.len == teLen e
        else none
      match shared with
      | some i =>
        if i.ready then
          let s1 := s.setToken k ctx t ⟨.resident, false, 0, n, some i.id, [], owed⟩
          .started (refs.foldl (fun s r => s.complete k r) s1)
        else
          let (id, s1) := s.fresh
          .started ((s1.setToken k ctx t ⟨.filling, false, 0, n, some i.id, [], owed⟩).modCore k fun c =>
            { c with fills := c.fills ++ [⟨id, ctx, t, i.id, 0, true, e, 0, 0, 0, refs, who, placement⟩] })
      | none =>
        let (id, s1) := s.fresh
        let (img, s2) := s1.fresh
        let now := decide (n ≤ c.freeSlots)
        let image : Image := ⟨img, shr, teDigest e, teLen e, teEcnt e, n, false, [], []⟩
        .started ((s2.setToken k ctx t ⟨.filling, false, 0, n, some img, [], owed⟩).modCore k fun c =>
          { c with
            fills := c.fills ++ [⟨id, ctx, t, img, n, now, e, bad, badAt.1, badAt.2, refs, who, placement⟩]
            images := if now then c.images ++ [image] else c.images })
  | _, _, _ => .refused

/-- R282: the first waiting fill starts when its slots are free. Its image is held in the store, and can be shared, from then on
(17 R283, log 136: DESIGN CHOICE). -/
def State.serveFill (s : State) (k : Nat) : Option State :=
  match s.core? k with
  | none => none
  | some c =>
    match c.fills.find? fun f => !f.started with
    | none => none
    | some f =>
      if f.slots ≤ c.freeSlots then
        some (s.modCore k fun c =>
          { c with
            fills := c.fills.map fun g => if g.id = f.id then { g with started := true } else g
            images := c.images ++
              [⟨f.image, teShr f.entry, teDigest f.entry, teLen f.entry, teEcnt f.entry, f.slots, false, [], []⟩] })
      else none

/-- The little-endian words of bytes. -/
def wordsLE : Nat → List Byte → List Word
  | 0, _ => []
  | n + 1, bs => BitVec.ofNat 32 (ofLE (bs.take 4)) :: wordsLE n (bs.drop 4)

/-- How a fill fails: the cause of Table 17.3, and for causes 4 and 5 the CAUSE and the address of its record. -/
structure FillFault where
  cause : Nat
  code : Nat := 0
  addr : Nat := 0
  deriving DecidableEq, Repr

/-- R281 steps 3 and 4 of a fill on core k: the image's words, or how it fails. -/
def State.readImage (s : State) (k : Nat) (f : Fill) : Except FillFault (List Word) :=
  if f.bad ≠ 0 then .error ⟨f.bad.toNat, f.badCause, f.badAddr⟩
  else match s.virtFill k f.ctx (teImage f.entry) (teLen f.entry) with
    | .error c => .error ⟨if c.1 = 0x1B then 5 else 4, c.1, c.2⟩
    | .ok bs =>
      if Sha512.digest bs != teDigest f.entry then .error { cause := 1 }
      else
        let ws := wordsLE (teLen f.entry / 4) bs
        let c := teLen f.entry - 4 * teEcnt f.entry
        if (ws.drop (c / 4)).all fun w => w.toNat % 4 == 0 && decide (w.toNat < c) then .ok ws else .error { cause := 3 }

/-! Coming to a token's code (04 R84, R85; 21 R308). -/

/-- The offset of a destination in an image, if it passes the check of R84 and R85. -/
def Image.target (i : Image) : Dest → Option Word
  | .entry j => if j < i.ecnt then some (i.entryOff j) else none
  | .offset w => if w.toNat < i.len then some w else none
/-- Writes the link of a call. -/
def State.writeLink (s : State) (x : Iss) (g : Going) : State :=
  match g.link with | some l => s.setS x l.1 l.2 | none => s
/-- Comes to its destination in the code of a token, or traps there with 0x02 (04 R84, R85; 21 R308). -/
def State.land (s : State) (x : Iss) (t : BitVec 12) (g : Going) (i : Image) : State :=
  match i.target g.dest with
  | none => s.raise x { cause := 0x02, flanes := g.sel }
  | some w => (s.writeLink x g).jump x ⟨t, w⟩

/-- A user CT that waits to start at entry 0 of its token (21 R308). -/
def State.entering (s : State) (t : Thread) : Option (Iss × BitVec 12) :=
  match t with
  | .group _ _ _ => none
  | .ct k ctx =>
    match s.cctx? k ctx, s.ctx? ctx with
    | some c, some d =>
      match c.wait with
      | .entry tok =>
        if s.boot = 6 ∧ s.coreOn k = true ∧ c.resident = true ∧ c.running = true ∧ c.stopped = false ∧ c.handling = none
            ∧ d.detached = false ∧ s.window = .closed then
          some (⟨t, k, ctx, false, 0, 0, none, c.user.uni, c.user.flow, LaneSet.all, LaneSet.all⟩, tok)
        else none
      | _ => none
    | _, _ => none

/-- The waiters of a token in the order of R278: control threads, then groups by partition and slot, and their splits by entry
(04 R89). -/
def inTurn (l : List TokWait) : List TokWait :=
  let key := fun (w : TokWait) => match w.thread with | .ct _ _ => 0 | .group _ slot e => 1 + 16 * slot + e
  l.foldr (fun w r => r.takeWhile (fun v => decide (key v < key w)) ++ w :: r.dropWhile fun v => decide (key v < key w)) []
/-- A call, a return or a start that has waited for a token to fill comes to its destination at the point at which the token
has filled (04 R84, Table 4.3; 17 R278); where its group is frozen or its CT stopped it stays waiting, and looks at the token
again once it goes on (04 R88, 24 R342; log 139: DEDUCED). -/
def State.reach (s : State) (k ctx : Nat) (t : BitVec 12) (i : Image) (w : TokWait) : State :=
  let here := fun (x : Iss) => !x.sup && x.pc == w.pc && x.core == k && x.ctx == ctx
  match w.goes, s.iss? w.thread, s.entering w.thread with
  | some g, some x, _ => if here x then s.land x t g i else s
  | some g, none, some p => if here p.1 then (s.setWait p.1 .none).land p.1 t g i else s
  | _, _, _ => s

/-- One holder of an image whose fill has ended: its token takes its new state, who waited comes to the code, and its
operations complete; causes 4 and 5 write a record first, and who waited will meet the trap of Table 4.3 (17 R281), which carries the issuer's PC, or for a placement fill the token alone (22 R389). Any
cause but 5 rejects the launch that a placement fill was for; with cause 5 it is tried again in a later window (22 R318,
R322). -/
def State.endFill (s : State) (k : Nat) (f : Fill) (r : Except FillFault (List Word)) : State :=
  let old := s.token k f.ctx f.token
  let s1 := match r with
    | .ok _ =>
      let s0 := s.setToken k f.ctx f.token
        { old with state := if old.evict then .evictPending else .resident, evict := false, waiters := [] }
      match s0.codeImage k f.ctx f.token with
      | some i => (inTurn old.waiters).foldl (fun s w => s.reach k f.ctx f.token i w) s0
      | none => s0
    | .error e =>
      let s0 :=
        if e.cause = 4 ∨ e.cause = 5 then
          let s := if e.code = 0x1B then s.countEcc k else s
          match f.placement with
          | some (q, n) => s.appendRecord f.ctx
              { FaultRec.zero with phase := s.phase, launch := BitVec.ofNat 64 (n * 64 + q), cls := 4, cause := e.code,
                                   addr := e.addr, core := k, pc := ⟨f.token, 0⟩ }
          | none => s.deferFault f.who 4 e.code e.addr
        else s
      let s0 := match f.placement with
        | some (q, n) => if e.cause = 5 then s0 else { s0 with launches := s0.launches.map fun (l : Launch) =>
            if l.queue = q ∧ l.seq = n then { l with rejected := true } else l }
        | none => s0
      s0.setToken k f.ctx f.token ⟨.failed, false, BitVec.ofNat 3 e.cause, 0, none, [], old.owed ++ old.waiters⟩
  let bad := match r with | .error e => e.cause == 4 || e.cause == 5 | .ok _ => false
  f.refs.foldl (fun s r => s.complete k r (bad && some r.party == f.who.party)) s1

/-- R281: a running fill ends, for every holder of its image at once (R283). -/
def State.finishFill (s : State) (k id : Nat) : Option State :=
  match s.core? k with
  | none => none
  | some c =>
    match c.fills.find? fun f => f.id == id && f.started with
    | none => none
    | some f =>
      let mine := c.fills.filter fun g => g.image == f.image
      let r := s.readImage k (mine.headD f)
      let s1 := s.modCore k fun c =>
        { c with
          fills := c.fills.filter fun g => g.image != f.image
          images := match r with
            | .ok ws => c.images.map fun i => if i.id = f.image then { i with ready := true, words := ws, bad := [] } else i
            | .error _ => c.images.filter fun i => i.id != f.image }
      some ((mine.foldl (fun s g => s.endFill k g r) s1).settleTokens k)

/-! Resolving a token (04 Table 4.3, 17 R280). -/

/-- What resolving a token comes to. -/
inductive Resolve where
  | code (s : State) (i : Image)
  | wait (s : State)
  | trap (s : State) (cause : Nat)
  deriving DecidableEq, Repr

/-- A context on a core without a thread among those that wait, or have waited, at its tokens. -/
def CoreCtx.dropWaiter (c : CoreCtx) (th : Thread) : CoreCtx :=
  if c.tokens.any fun p => (p.2.waiters ++ p.2.owed).any fun w => w.thread == th then
    { c with tokens := c.tokens.map fun p => (p.1, { p.2 with
        waiters := p.2.waiters.filter fun w => w.thread != th
        owed := p.2.owed.filter fun w => w.thread != th }) }
  else c
/-- The thread has waited where it stands for a fill that has failed (17 R280, R281). -/
def State.owedTrap (s : State) (x : Iss) : Bool :=
  match s.cctx? x.core x.ctx with
  | some c => c.tokens.any fun p => p.2.owed.any fun w => w.thread == x.th && w.pc == x.pc
  | none => false
/-- The thread no longer waits at any token. -/
def State.dropWaiter (s : State) (x : Iss) : State := s.modCctx x.core x.ctx fun c => c.dropWaiter x.th
/-- The thread waits at a token that fills (04 Table 4.3). -/
def State.awaitToken (s : State) (x : Iss) (t : BitVec 12) (goes : Option Going) : State :=
  let old := s.token x.core x.ctx t
  s.setToken x.core x.ctx t { old with waiters := old.waiters ++ [⟨x.th, x.pc, goes⟩] }

/-- Table 4.3 for a party that comes to a token: auto is callo.auto, ret or R280's re-resolution; goes says
where a call, a return or a start will go. One whose fill has failed
meets the trap whatever the token has become since. -/
def State.resolve (s : State) (x : Iss) (t : BitVec 12) (auto : Bool) (goes : Option Going := none) : Resolve :=
  let owed := s.owedTrap x
  let s := (s.settleTokens x.core).dropWaiter x
  if owed then .trap s 0x0E
  else match (s.token x.core x.ctx t).state with
  | .resident | .evictPending =>
    match s.codeImage x.core x.ctx t with
    | some i => .code s i
    | none => .wait s
  | .filling => .wait (s.awaitToken x t goes)
  | .failed => .trap s 0x0E
  | .absent =>
    if !auto then .trap s 0x0D
    else if (x.uni.count 4).val = 63 then .wait s
    else
      let (r, s1) := s.countOp x.core x.party 4
      match s1.startFill x.core x.ctx t [r] (s.issuer x) none with
      | .refused => .trap s 0x0E
      | .started s2 =>
        match s2.codeImage x.core x.ctx t with
        | some i => .code s2 i
        | none => .wait (s2.awaitToken x t goes)

/-- Image length for the check of R81: LEN of the image held. -/
def Image.lenWord (i : Image) : Nat := i.len

/-- The word of code at a PC of a thread: in its image, or in the firmware store for a supervisor. -/
def State.codeWord (s : State) (x : Iss) (pc : Pc) : Option Word :=
  if x.sup then
    if pc.off.toNat + 4 ≤ 65536 then
      (s.core? x.core).map fun c => BitVec.ofNat 32 (c.firmware.readLE pc.off.toNat 4)
    else none
  else
    match s.codeImage x.core x.ctx pc.token with
    | none => none
    | some i => if pc.off.toNat + 4 ≤ i.codeLen then i.words[pc.off.toNat / 4]? else none

/-- The length of the instruction at a PC (02 R25, R27); 8 where no length can be told. -/
def State.lengthAt (s : State) (x : Iss) (pc : Pc) : Nat :=
  match s.codeWord x pc with
  | none => 8
  | some w =>
    if pc.off.toNat % 32 = 0x1C ∧ w = 0#32 then 4
    else match bits w 0 2 with | 0 => 8 | 1 => 12 | 2 => 16 | _ => 8

end Sys2Proof.Machine
end

