-- ==== Sys2Proof/Machine/Control.lean ====
section
/-! DEFINITION. Row 0x0 (04 R71 to R95): splits and join records, loops, calls, waiting, traps, the decision queue, the
special registers and FMT. -/
namespace Sys2Proof.Machine

/-! Splits and records (04 R72 to R77). -/

/-- The first unused place of a list of entries. -/
def firstFree {α : Type} : List (Option α) → Option Nat
  | [] => none
  | none :: _ => some 0
  | some _ :: r => (firstFree r).map (· + 1)

/-- The nesting depth of a record, for R76's "innermost first"; fuel is the number of records. -/
def recDepth (g : Group) : Nat → Option Nat → Nat
  | 0, _ => 0
  | _, none => 0
  | n + 1, some r => match g.rec? r with | some j => 1 + recDepth g n j.parent | none => 0

/-- The records in use, deepest first. -/
def Group.recOrder (g : Group) : List Nat :=
  (List.range 16).reverse.flatMap fun d => (List.range 15).filter fun r => recDepth g 16 (some r) == d && (g.rec? r).isSome

/-- R76 for one record: the group after a change, or none when the record does not change. -/
def Group.joinStep (g : Group) (r : Nat) : Option Group :=
  match g.rec? r with
  | none => none
  | some j =>
    let done := j.arrived ||| (g.exited &&& j.expected)
    if j.deferred != 0 && j.expected &&& ~~~j.deferred &&& ~~~done == 0 then
      match firstFree g.splits with
      | none => none
      | some e =>
        some { g with
          splits := g.splits.set e (some (Split.start j.deferred (j.exec &&& j.deferred) ⟨j.dpc, j.fmt, j.loops⟩ (some r)))
          recs := g.recs.set r (some { j with deferred := 0 }) }
    else if j.deferred == 0 && j.expected &&& ~~~done == 0 then
      let l := j.arrived &&& ~~~g.exited
      let freed := { g with recs := g.recs.set r none }
      if l == 0 then some freed
      else
        let up := match j.parent with
          | some p => match g.rec? p with | some q => if q.join == j.join then some p else none | none => none
          | none => none
        match up with
        | some p => some (freed.modRec p fun q => { q with arrived := q.arrived ||| l })
        | none =>
          match firstFree g.splits with
          | none => none
          | some e =>
            some { freed with
              splits := freed.splits.set e
                (some (Split.start l (j.exec &&& l) ⟨j.join.add 8, j.fmt, j.loops⟩ j.parent)) }
    else none

/-- R76: a join event; each change frees a record or starts its deferred lanes, so 32 of them are enough. -/
def Group.joinEvent : Nat → Group → Group
  | 0, g => g
  | n + 1, g =>
    match g.recOrder.findSome? fun r => g.joinStep r with
    | none => g
    | some g' => Group.joinEvent n g'

/-- A join event of the issuing group, and what it lets go of: an evict-pending overlay whose last PC has left (17 R279),
and the pending-fault bits and open traces of a group that has now exited (08 R185, 15 R263). -/
def Group.settleExit (g : Group) : Group :=
  let g := { g with uni := { g.uni with traces := g.uni.traces.filter fun t => !g.exited.getLsbD t.lane } }
  if g.hasExited then { g with uni := { g.uni with pend := 0 } } else g

/-- A split of a group as its traps see it, whether or not it can issue. -/
def State.issAt (s : State) (k slot e : Nat) : Option Iss :=
  match s.group? k slot with
  | none => none
  | some g => match g.split? e with
    | none => none
    | some sp => some ⟨.group k slot e, k, g.ctx, false, slot, e, some g, g.uni, sp.flow, sp.exec, sp.exec⟩

/-- The split of a group that is held in a rendezvous latch of the given kind, with its entry. -/
def Group.held (g : Group) (p : Wait → Bool) : Option Nat :=
  (List.range 16).find? fun e => match g.split? e with | some sp => p sp.wait | none => false

/-- The groups of a list of slots that are held in a latch, each at its latched instruction. -/
def State.latchedIss (s : State) (k : Nat) (slots : List Nat) (p : Wait → Bool) : List Iss :=
  slots.filterMap fun slot => ((s.group? k slot).bind fun g => g.held p).bind fun e => s.issAt k slot e

/-- Raises a trap in groups at the instructions at which they stand, in the order of partition and group slot (21 R303),
and takes them out of their latches. A group that is named twice, as one held in a latch by one split whose other split
offends, takes one trap, at the instruction that comes first in the list (11 R225, log 108: DESIGN CHOICE). -/
def State.trapEach (s : State) (l : List Iss) (cause taddr : Nat) : State :=
  (List.range 96).foldl (fun s slot =>
    match l.find? fun x => x.slot == slot with
    | none => s
    | some x => s.raise x { cause := cause, flanes := x.exec, taddr := taddr }) (l.foldl (fun s x => s.setWait x .none) s)

/-- The gang-mismatch trap (0x0F) in groups (11 R225, 15 R266). -/
def State.mismatch (s : State) (l : List Iss) : State := s.trapEach l 0x0F 0

/-- The slots of the groups of a workgroup. -/
def State.wgSlots (s : State) (k wg : Nat) : List Nat :=
  match s.core? k with
  | none => []
  | some c => match c.wgs.get? wg with | some w => w.slots | none => []

/-- A joint instruction is latched. -/
def Wait.isJoint : Wait → Bool | .joint _ => true | _ => false
/-- An rpak is latched. -/
def Wait.isRpak : Wait → Bool | .rpak _ => true | _ => false

/-- The mask of listed groups of an rpak (15 Table 15.4). -/
def rpakMask (o : Op) : BitVec 16 := (word2 o).extractLsb' 0 16

/-- The slots of a list whose groups are held in an rpak that lists a group index (15 R265). -/
def State.repackers (s : State) (k : Nat) (slots : List Nat) (gidx : Nat) : List Nat :=
  slots.filter fun t => match s.group? k t with
    | none => false
    | some h => match h.held Wait.isRpak with
      | none => false
      | some e => match h.split? e with
        | some sp => (match sp.wait with | .rpak o => (rpakMask o).getLsbD gidx | _ => false)
        | none => false

/-- The slots of a list whose groups are members of a gang and held in its latch. -/
def State.latchedOf (s : State) (k : Nat) (slots : List Nat) (gang : BitVec 16) : List Nat :=
  if gang = 0 then [] else slots.filter fun t => match s.group? k t with
    | some h => h.gang == gang && (h.held Wait.isJoint).isSome
    | none => false

/-- Some latch is occupied that a group breaks by parking or exiting (11 R225, 15 R266). -/
def State.holdsLatch (s : State) (k : Nat) (g : Group) : Bool :=
  !(s.latchedOf k (s.wgSlots k g.wg) g.gang).isEmpty || !(s.repackers k (s.wgSlots k g.wg) g.gidx).isEmpty

/-- A group that parks or exits while its gang's latch, or a repack latch that lists it, is occupied breaks that latch
(11 R225, 15 R266): the groups that trap, at their latched instructions. -/
def State.broken (s : State) (k : Nat) (g : Group) : List Iss :=
  let slots := s.wgSlots k g.wg
  s.latchedIss k (s.latchedOf k slots g.gang) Wait.isJoint ++ s.latchedIss k (s.repackers k slots g.gidx) Wait.isRpak

/-- R225, R266 for a group that has exited. -/
def State.leaveLatches (s : State) (k : Nat) (g : Group) : State := s.mismatch (s.broken k g)

/-- The issuing group after a change to its splits: what follows when its last lane has now exited. -/
def State.settleGroup (s : State) (x : Iss) : State :=
  let s1 := s.modIssGroup x Group.settleExit
  let s2 := match s1.group? x.core x.slot with
    | none => s1
    | some g => if g.hasExited then s1.leaveLatches x.core g else s1
  s2.settleTokens x.core

/-- The issuing group after a change that ends with a join event. -/
def State.joinAfter (s : State) (x : Iss) (f : Group → Group) : State :=
  (s.modIssGroup x fun g => (f g).joinEvent 32).settleGroup x

/-! nop, the short pad, join and bra. -/

/-- An instruction whose only effect is to advance the PC. -/
def Req.plain (g : Guard) : Req := { g := g, phase := .A, who := .any, reads := [], writes := [] }

/-- nop (02 R27). -/
def execNop (o : Op) (s : State) : Res := issue (Req.plain o.g) 8 s fun x => .next (s.advance x 8)

/-- The short pad: a 4-byte nop (02 R27). -/
def execShortPad (s : State) : Res := issue (Req.plain Guard.none) 4 s fun x => .next (s.advance x 4)

/-- A signed count of 4-byte units as bytes (02 R37). -/
def units4 {w : Nat} (n : BitVec w) : Int := 4 * n.toInt

/-- R73, R74: the divergent branch of a split of the issuing group, with a record at place r. -/
def Group.diverge (g : Group) (e : Nat) (sp : Split) (t : LaneSet) (r : Nat) (join target next : Pc) : Group :=
  let j : JoinRec := ⟨join, sp.owned, 0, sp.flow.fmt, sp.flow.loops, sp.exec, 0, next, sp.innermost⟩
  let last := decide (g.freeRecs ≤ 1)
  match (if last then none else firstFree g.splits) with
  | none =>
    { g with
      recs := g.recs.set r (some { j with deferred := sp.owned &&& ~~~t })
      splits := g.splits.set e
        (some { sp with owned := t, exec := t, flow := sp.flow.goto target, innermost := some r, urgent := false,
                        since := none, yielded := false, passed := false }) }
  | some f =>
    { g with
      recs := g.recs.set r (some j)
      splits := (g.splits.set f (some (Split.start t t (sp.flow.goto target) (some r)))).set e
        (some { sp with owned := sp.owned &&& ~~~t, exec := sp.exec &&& ~~~t,
                        flow := sp.flow.advance 8, innermost := some r, urgent := false,
                        since := none, yielded := false, passed := false }) }

/-- bra (04 R73, R74, R95). An empty %exec takes the branch, as R73's first case says (log 11). The not-taken split of a
divergence goes on in sequence, with the loops that end here (R80). -/
def execBra (o : B64) (s : State) : Res :=
  issue { Req.plain o.g with always := true } 8 s fun x =>
    let target := x.pc.add (units4 o.t16)
    if x.isCt then
      if x.sel = 0 then .next (s.advance x 8) else .next (s.jump x target)
    else if x.sel = x.exec then .next (s.jump x target)
    else if x.sel = 0 then .next (s.advance x 8)
    else
      match s.group? x.core x.slot with
      | none => .fault .noThread
      | some g =>
        match firstFree g.recs, g.split? x.entry with
        | some r, some sp =>
          if o.j16 = 0#16 then trapR x s 0x0B x.exec
          else .next (s.modIssGroup x fun g =>
            g.diverge x.entry sp x.sel r (x.pc.add (units4 o.j16)) target (x.pc.add 8))
        | _, _ => trapR x s 0x0B x.exec

/-- join (04 R75, R95); with no lane selected it is skipped, as R387 says of every instruction (log 12). -/
def execJoin (o : Op) (s : State) : Res :=
  issue (Req.plain o.g) 8 s fun x =>
    match x.grp with
    | none => .next (s.advance x 8)
    | some g =>
      match g.split? x.entry with
      | none => .fault .noThread
      | some sp =>
        match sp.innermost with
        | none => .next (s.advance x 8)
        | some r =>
          match g.rec? r with
          | none => .next (s.advance x 8)
          | some j =>
            if j.join = x.pc then
              .next (s.joinAfter x fun g =>
                { g with
                  recs := g.recs.set r (some { j with arrived := j.arrived ||| sp.owned })
                  splits := g.splits.set x.entry none })
            else .next (s.advance x 8)

/-! exit and brk. -/

/-- Takes lanes from a split of the group; the entry is freed when nothing is left. -/
def Group.leave (g : Group) (e : Nat) (t : LaneSet) : Group :=
  { g with splits := g.splits.modify e fun sp => match sp with
      | none => none
      | some sp =>
        if sp.owned &&& ~~~t = 0 then none
        else some { sp with owned := sp.owned &&& ~~~t, exec := sp.exec &&& ~~~t } }

/-- exit (04 R77, R95; 21 R304). -/
def execExit (o : Op) (s : State) : Res :=
  issue { Req.plain o.g with noSup := true } 8 s fun x =>
    match x.grp with
    | none =>
      .next ((s.modCctx x.core x.ctx fun c => { c with running := false, exited := true, wait := .none }).settleTokens
        x.core)
    | some g =>
      match g.split? x.entry with
      | none => .fault .noThread
      | some sp =>
        let f := fun (g : Group) => { g.leave x.entry x.sel with exited := g.exited ||| x.sel }
        if sp.owned &&& ~~~x.sel = 0 then .next (s.joinAfter x f)
        else .next (((s.advance x 8).modIssGroup x f).settleGroup x)

/-- The first n records of the chain innermost, parent, … (04 R78). -/
def Group.chain (g : Group) : Nat → Option Nat → List Nat
  | 0, _ => []
  | _, none => []
  | n + 1, some r => match g.rec? r with | some j => r :: g.chain n j.parent | none => []

/-- brk (04 R78, R95): the records are counted, and a control thread traps, whatever lanes are selected; with none selected it
then only goes on. -/
def execBrk (o : Op) (s : State) : Res :=
  issue { Req.plain o.g with always := true } 8 s fun x =>
    match x.grp with
    | none => trapR x s 0x02
    | some g =>
      match g.split? x.entry with
      | none => .fault .noThread
      | some sp =>
        let n := bits o.fn 0 3
        let ch := g.chain n sp.innermost
        if ch.length < n then trapR x s 0x02
        else if x.sel = 0 then .next (s.advance x 8)
        else
          let f := fun (g : Group) =>
            let g1 := (ch.take (n - 1)).foldl (fun g r =>
              g.modRec r fun j => { j with expected := j.expected &&& ~~~x.sel }) g
            let g2 := match ch.getLast? with
              | some r => g1.modRec r fun j => { j with arrived := j.arrived ||| x.sel }
              | none => g1
            g2.leave x.entry x.sel
          if sp.owned &&& ~~~x.sel = 0 then .next (s.joinAfter x f)
          else .next ((s.advance x 8).joinAfter x f)

/-! Hardware loops (04 R79). -/

/-- The loops of a thread after the start of loop k: the loop that starts is the most recent. -/
def Flow.startLoop (f : Flow) (k : Nat) (c : Word) (last : Pc) : Flow :=
  let l : LoopReg := ⟨true, c, f.pc.add 8, last, 1 + f.loops.foldl (fun m l => max m l.order) 0⟩
  { f with loops := f.loops.set k l }

/-- loop (04 R79); it completes in sequence, so the loops that end at it are processed (R80), its own among them where its
end is its own address (log 88). -/
def execLoop (o : I64) (s : State) : Res :=
  let imm := o.fn.getLsbD 0
  issue { Req.plain o.g with reads := if imm then [] else [rdS o.a], always := true } 8 s fun x =>
    let last := x.pc.add (units4 o.imm)
    let skip : State := s.jump x (last.add (s.lengthAt x last))
    if x.sel = 0 then .next skip
    else
      let k := bits o.d 0 2
      let l := x.flow.loops.getD k LoopReg.zero
      if l.active then trapR x s 0x0C
      else
        let c : Word := if imm then BitVec.ofNat 32 (1023 &&& (o.a.reg.toNat + if o.a.fe then 512 else 0))
                        else (x.s o.a.reg).lo
        if c = 0 then .next skip
        else .next (s.modFlow x fun f => (f.startLoop k c last).advance 8)

/-! Calls and links (04 R81 to R85). -/

/-- The link that a call writes: the instruction after it. -/
def Iss.link (x : Iss) : DWord := (x.pc.add 8).link

/-- call (04 R83). -/
def execCall (o : B64) (s : State) : Res :=
  issue { Req.plain o.g with writes := [atS o.d] } 8 s fun x =>
    .next ((s.setS x o.d x.link).jump x (x.pc.add (units4 o.t16)))

/-- The checks of R81 made at issue: bits [63:44] and alignment. -/
def linkOk (v : DWord) : Bool := bits v 44 20 == 0 && bits v 0 2 == 0

/-- Comes to a destination: what callo and ret do once the token's code is there (04 R84, R85). A supervisor's PC is an
offset in the firmware store (21 R302): it goes to the offset without resolving a token (log 13). -/
def State.goTo (s : State) (x : Iss) (t : BitVec 12) (auto : Bool) (g : Going) : Res :=
  if x.sup then .next ((s.writeLink x g).jump x ⟨0, match g.dest with | .entry j => BitVec.ofNat 32 (4 * j) | .offset w => w⟩)
  else match s.resolve x t auto (some g) with
    | .trap s' c => trapR x s' c
    | .wait s' => waitR s'
    | .code s' i => .next ((s'.land x t g i).settleTokens x.core)

/-- callo (04 R84). -/
def execCallo (o : I64) (s : State) : Res :=
  let reg := o.fn.getLsbD 0
  let auto := o.fn.getLsbD 1
  issue { Req.plain o.g with reads := if reg then [rdS o.a] else [], writes := [atS o.d] } 8 s fun x =>
    let link := some (o.d, x.link)
    if reg then
      let v := x.s o.a.reg
      if !linkOk v then trapR x s 0x02
      else
        let p := Pc.ofLink v
        s.goTo x p.token auto ⟨.offset p.off, link, x.sel⟩
    else s.goTo x (o.imm.extractLsb' 0 12) auto ⟨.entry (bits o.imm 12 10), link, x.sel⟩

/-- ret (04 R85). -/
def execRet (o : Op) (s : State) : Res :=
  issue { Req.plain o.g with reads := [rdS o.a] } 8 s fun x =>
    let v := x.s o.a.reg
    if !linkOk v then trapR x s 0x02
    else
      let p := Pc.ofLink v
      s.goTo x p.token true ⟨.offset p.off, none, x.sel⟩

/-! Waiting, trapping, yielding (04 R86 to R90). -/

/-- Delivers pending-fault bits as the deferred-fault trap 0x19 and clears those it reports (08 R185, 24 R343). -/
def deliverPending (x : Iss) (s : State) (mask : BitVec 5) : Res :=
  let p := x.uni.pend &&& mask
  let s1 := s.modUni x fun u => { u with pend := u.pend &&& ~~~mask }
  .next (s1.raise x { cause := 0x19, flanes := x.sel, detail := p.toNat })

/-- wait (04 R86): a pending fault of the class traps at once, whether or not the counter has dropped to n (log 89:
DESIGN CHOICE). -/
def execWait (o : I64) (s : State) : Res :=
  let cls := bits o.fn 0 3
  issue (Req.plain o.g) 8 s fun x =>
    if x.uni.pend.getLsbD cls then deliverPending x s (1#5 <<< cls)
    else if o.imm.toNat < (x.uni.count cls).val then waitR s
    else .next (s.advance x 8)

/-- trap (04 R87): the user trap, with the resume PC after it. -/
def execTrap (o : I64) (s : State) : Res :=
  issue (Req.plain o.g) 8 s fun x =>
    .next (s.raise x { cause := 0x15, flanes := x.sel, detail := bits o.imm 0 16, tpcAfter := 8 })

/-- brkpt (04 R88). -/
def execBrkpt (o : Op) (s : State) : Res :=
  issue (Req.plain o.g) 8 s fun x => .next (s.raise x { cause := 0x16, flanes := x.sel, tpcAfter := 8 })

/-- yield (04 R90): only the PC advances, and the split gives way once to another of its partition that is ready (22 R326). -/
def execYield (o : Op) (s : State) : Res :=
  issue (Req.plain o.g) 8 s fun x =>
    .next (if x.isCt then s.advance x 8 else (s.advance x 8).modIssGroup x fun g =>
      g.modSplit x.entry fun sp => { sp with yielded := true })

/-! The decision queue (04 R91). -/

/-- Values go to pending pops in pop issue order (04 R91). -/
def serveDq : Nat → List DWord → List Pop → Core → List DWord × List Pop × Core
  | n + 1, v :: vs, p :: ps, c =>
    serveDq n vs ps (c.modGroup p.slot fun g => { g with uni := g.uni.set p.reg v })
  | _, vs, ps, c => (vs, ps, c)

/-- Matches waiting values with pending pops of a context on a core. -/
def State.matchDq (s : State) (k ctx : Nat) : State :=
  s.modCore k fun c =>
    match c.cctx? ctx with
    | none => c
    | some cc =>
      let r := serveDq 64 cc.dq cc.pops c
      r.2.2.modCctx ctx fun cc => { cc with dq := r.1, pops := r.2.1 }

/-- dq.push (04 R91). -/
def execDqPush (o : Op) (s : State) : Res :=
  issue { Req.plain o.g with who := .ct, reads := [rdS o.a], noSup := true } 8 s fun x =>
    match s.cctx? x.core x.ctx with
    | none => .fault .noThread
    | some c =>
      if 64 ≤ c.dq.length then waitR s
      else .next (((s.modCctx x.core x.ctx fun c => { c with dq := c.dq ++ [x.s o.a.reg] }).matchDq x.core x.ctx).advance
        x 8)

/-- dq.pop (04 R91, R52). -/
def execDqPop (o : Op) (s : State) : Res :=
  issue { Req.plain o.g with who := .group, writes := [atS o.d], noSup := true } 8 s fun x =>
    match s.cctx? x.core x.ctx with
    | none => .fault .noThread
    | some c =>
      if 64 ≤ c.pops.length then waitR s
      else .next ((((s.markEmpty x o.d).modCctx x.core x.ctx fun c =>
        { c with pops := c.pops ++ [⟨x.slot, sNum o.d⟩] }).matchDq x.core x.ctx).advance x 8)

/-! Special registers and FMT (03 R51, 04 R93, R94). -/

/-- The scalar special registers of Table 3.2 that a CT may name. -/
def ctSpr (n : Nat) : Bool := decide (0x0C ≤ n ∧ n ≤ 0x10) || n == 0x13

/-- The value of an identity register, 0x10 + n (03 Table 3.2). -/
def State.identityReg (s : State) (x : Iss) (n : Nat) : DWord :=
  let w := match x.grp, s.core? x.core with | some g, some c => c.wgs.get? g.wg | _, _ => none
  match n with
  | 0 => BitVec.ofNat 64 x.core
  | 1 => BitVec.ofNat 64 (x.slot / 6)
  | 2 => BitVec.ofNat 64 (x.slot % 6)
  | 3 => BitVec.ofNat 64 x.ctx
  | 4 => match w with | some w => BitVec.ofNat 64 w.wgid | none => 0
  | 5 => match x.grp with | some g => BitVec.ofNat 64 g.gidx | none => 0
  | 6 => match w with | some w => w.cpos | none => 0
  | 7 => match w with | some w => w.launch | none => 0
  | _ => 0

/-- The value of a scalar special register (03 Table 3.2). -/
def State.sprScalar (s : State) (x : Iss) (n : Nat) : DWord :=
  if n = 4 then x.flow.fmt.setWidth 64
  else if n = 5 then match x.grp with | some g => g.fflags.setWidth 64 | none => 0
  else if n = 6 then match x.grp with | some g => g.gang.setWidth 64 | none => 0
  else if n = 7 then match x.grp with
    | some g => BitVec.ofNat 64 ((if g.serial then 512 else 0) + 16 * g.splitCount + x.entry)
    | none => 0
  else if n = 8 then BitVec.ofNat 64 x.blocks
  else if 0x0C ≤ n ∧ n ≤ 0x0F then
    let l := x.flow.loops.getD (n - 0x0C) LoopReg.zero
    if l.active then l.remaining.setWidth 64 else 0
  else if 0x10 ≤ n then s.identityReg x (n - 0x10)
  else 0

/-- The value of a mask special register (03 Table 3.2). -/
def Iss.sprMask (x : Iss) (n : Nat) : LaneSet :=
  match n with
  | 0 => x.exec
  | 1 => match x.grp with | some g => g.helper | none => 0
  | _ => match x.grp with | some g => g.flanes | none => 0

/-- A CT names one of the special registers it may name (03 R51). It stands at check 6 for the current thread. -/
def State.sprAllowed (s : State) (n : Nat) : Bool := match s.cur with | .ct _ _ => ctSpr n | .group _ _ _ => true

/-- sprd (04 R93, 03 R51). -/
def execSprd (o : I64) (s : State) : Res :=
  let n := bits o.imm 0 8
  match sprKind n with
  | some .mask =>
    issue { Req.plain o.g with md := some o.d, extra := s.sprAllowed n } 8 s fun x =>
      .next ((s.setM x o.d (x.sprMask n)).advance x 8)
  | some .vector =>
    issue { Req.plain o.g with writes := [atV o.d], extra := s.sprAllowed n } 8 s fun x =>
      .next ((s.setV x o.d.toNat fun i => BitVec.ofNat 32 i).advance x 8)
  | _ =>
    issue { Req.plain o.g with writes := [atS o.d], extra := s.sprAllowed n } 8 s fun x =>
      .next ((s.setS x o.d (s.sprScalar x n)).advance x 8)

/-- spwr (04 R93, 03 R51). -/
def execSpwr (o : I64) (s : State) : Res :=
  let n := bits o.imm 0 8
  if n = 0 then
    issue { Req.plain o.g with extra := s.sprAllowed n } 8 s fun x =>
      .next ((s.modIssGroup x fun g => g.modSplit x.entry fun sp =>
        { sp with exec := x.uni.mask (bits o.a.reg 0 4) &&& sp.owned }).advance x 8)
  else
    issue { Req.plain o.g with reads := [rdS o.a], extra := s.sprAllowed n } 8 s fun x =>
      let v := x.s o.a.reg
      if n = 4 then
        if v.hi = 0 ∧ fmtOk v.lo = true then .next (s.modFlow x fun f => { f.advance 8 with fmt := v.lo })
        else trapR x s 0x02
      else .next ((s.modIssGroup x fun g => { g with fflags := v.extractLsb' 0 5 }).advance x 8)

/-- fmtset (04 R94); a value refused in the immediate form is refused by the decoder. -/
def execFmtset (o : Op) (s : State) : Res :=
  let imm := immBit o
  issue { Req.plain o.g with reads := if imm then [] else [rdS o.a] } (opLen o) s fun x =>
    let f := if imm then word2 o else (x.s o.a.reg).lo
    if fmtOk f then .next (s.modFlow x fun l => { l.advance (opLen o) with fmt := f })
    else trapR x s (if imm then 0x01 else 0x02)

end Sys2Proof.Machine
end

