-- ==== Sys2Proof/Machine/Flags.lean ====
section
/-! DEFINITION. Exact values of the number formats (05 R96 to R99), rounding and its flags (05 R101 to R106), and the
correctly rounded functions of row 0x4 (05 R107, 06 R121 to R126). -/
namespace Sys2Proof.Machine

/-! Flags of %fflags (03 Table 3.2, 05 R106). -/

/-- The five sticky flags: [4] NX, [3] UF, [2] OF, [1] DZ, [0] NV. -/
abbrev FFlags := BitVec 5
/-- No flag. -/
def fNone : FFlags := 0#5
/-- NV. -/
def fNV : FFlags := 1#5
/-- DZ. -/
def fDZ : FFlags := 2#5
/-- OF. -/
def fOF : FFlags := 4#5
/-- UF. -/
def fUF : FFlags := 8#5
/-- NX. -/
def fNX : FFlags := 16#5

/-! Values. -/

/-- The value of a code: a NaN (signalling or not), an infinity, a zero, or (-1)^neg m 2^e with m > 0. -/
inductive FV where
  | nan (signalling : Bool)
  | inf (neg : Bool)
  | zero (neg : Bool)
  | fin (neg : Bool) (m : Nat) (e : Int)
  deriving DecidableEq, Repr

/-- A finite value from its sign and magnitude. -/
def FV.mk (neg : Bool) (m : Nat) (e : Int) : FV := if m = 0 then .zero neg else .fin neg m e

/-- The exponent field, the fraction and the smallest normal exponent make the magnitude (05 R97, R98, Table 5.1). -/
def fieldsFV (f : FloatFmt) (neg : Bool) (e t : Nat) : FV :=
  if e = 0 then FV.mk neg t (1 - (f.bias : Int) - f.fracBits)
  else .fin neg (2 ^ f.fracBits + t) ((e : Int) - f.bias - f.fracBits)

/-- The value of a code of a float format (05 R97, R98, Table 5.1). -/
def decodeFloat (f : FloatFmt) (code : Nat) : FV :=
  let t := code % 2 ^ f.fracBits
  let e := code / 2 ^ f.fracBits % 2 ^ f.expBits
  let neg := f.signed && (code / 2 ^ (f.expBits + f.fracBits)) % 2 == 1
  if f.tiny then
    let top := 2 ^ (f.expBits + f.fracBits)
    if f.signed then
      if code = top then .nan false
      else if code % top = 0 then .zero false
      else if f.inf && code % top == top - 1 then .inf neg
      else fieldsFV f neg e t
    else if code = 0xFF then .nan false
    else if f.inf && code == 0xFE then .inf false
    else if code = 0 then .zero false
    else fieldsFV f false e t
  else if e = 2 ^ f.expBits - 1 then
    if t = 0 then .inf neg else .nan (t < 2 ^ (f.fracBits - 1))
  else fieldsFV f neg e t

/-- The largest finite magnitude's code, without sign (05 Tables 5.2, 5.3). -/
def FloatFmt.maxCode (f : FloatFmt) : Nat :=
  if f.tiny then 2 ^ (f.expBits + f.fracBits) - 1 - (if f.signed then 0 else 1) - (if f.inf then 1 else 0)
  else (2 ^ f.expBits - 1) * 2 ^ f.fracBits - 1
/-- The canonical NaN (05 R96, R97, R98). -/
def FloatFmt.nanCode (f : FloatFmt) : Nat :=
  if f.tiny then (if f.signed then 0x80 else 0xFF)
  else (2 ^ f.expBits - 1) * 2 ^ f.fracBits + 2 ^ (f.fracBits - 1)
/-- A code with a sign; the tiny formats have one zero. -/
def FloatFmt.withSign (f : FloatFmt) (neg : Bool) (mag : Nat) : Nat :=
  if f.tiny && mag == 0 then 0
  else if neg && f.signed then 2 ^ (f.expBits + f.fracBits) + mag else mag

/-! Rounding (05 R102 to R106). -/

/-- Rounding modes (05 R102). -/
inductive RMode where
  | rne | rz | rd | ru | sr
  deriving DecidableEq, Repr

/-- The mode of a two-bit RM field (05 Table 5.5). -/
def RMode.ofRM (n : Nat) : RMode := match n with | 0 => .rne | 1 => .rz | 2 => .rd | _ => .ru

/-- How a conversion rounds: mode, SAT, and under SR the bit count and the random bits. -/
structure RCtl where
  mode : RMode
  sat : Bool
  srn : Nat
  rnd : Nat
  deriving DecidableEq, Repr

/-- RNE without saturation. -/
def RCtl.rne : RCtl := ⟨.rne, false, 0, 0⟩
/-- A mode without saturation. -/
def RCtl.plain (m : RMode) : RCtl := ⟨m, false, 0, 0⟩

/-- A positive magnitude: m 2^e exactly, or with sticky some value strictly between m 2^e and (m + 1) 2^e. -/
structure Mag where
  m : Nat
  e : Int
  sticky : Bool
  deriving DecidableEq, Repr

/-- A code and the flags its making sets. -/
structure FRes where
  code : Nat
  flags : FFlags
  deriving DecidableEq, Repr

/-- Floor of log2 of a magnitude. -/
def Mag.ilog (x : Mag) : Int := (x.m.log2 : Int) + x.e

/-- The choice between lo = k q and hi = (k + 1) q (05 R102): rem / 2^s is the fraction of q above lo, and sticky says
that the exact value is a little more. -/
def roundUp (c : RCtl) (neg : Bool) (k rem s : Nat) (sticky : Bool) : Bool :=
  if rem = 0 ∧ sticky = false then false
  else match c.mode with
    | .rne =>
      if 2 * rem > 2 ^ s then true
      else if 2 * rem = 2 ^ s then sticky || k % 2 == 1
      else false
    | .rz => false
    | .rd => neg
    | .ru => !neg
    | .sr => decide (c.rnd % 2 ^ c.srn < rem * 2 ^ c.srn / 2 ^ s)

/-- The integer multiple of 2^qe that a magnitude rounds to, and whether it differs from it (05 R102). -/
def roundTo (c : RCtl) (neg : Bool) (x : Mag) (qe : Int) : Nat × Bool :=
  if qe ≤ x.e then
    let k := x.m * 2 ^ (x.e - qe).toNat
    (if roundUp c neg k 0 0 x.sticky then k + 1 else k, x.sticky)
  else
    let s := (qe - x.e).toNat
    let k := x.m / 2 ^ s
    let rem := x.m % 2 ^ s
    (if roundUp c neg k rem s x.sticky then k + 1 else k, decide (rem ≠ 0) || x.sticky)

/-- Brings an exponent that is far outside a format near it: the rounded result and its flags stay the same. -/
def Mag.near (x : Mag) (f : FloatFmt) : Mag :=
  let emin := 1 - (f.bias : Int)
  let emax := (2 ^ f.expBits : Int) - f.bias
  if x.ilog < emin - f.fracBits - 40 then ⟨1, emin - f.fracBits - 40, true⟩
  else if emax + 8 < x.ilog then ⟨1, emax + 8, false⟩
  else x

/-- Round of a nonzero value into a float format (05 R102, R103, and the last row of Table 5.6). -/
def roundMag (f : FloatFmt) (c : RCtl) (neg : Bool) (x0 : Mag) : FRes :=
  let x := x0.near f
  let emin := 1 - (f.bias : Int)
  let qe := max x.ilog emin - f.fracBits
  let r := roundTo c neg x qe
  let kk := r.1
  let inexact := r.2
  let mag : Nat :=
    if kk < 2 ^ f.fracBits then kk
    else
      let q := if kk = 2 ^ (f.fracBits + 1) then qe + 1 else qe
      let t := if kk = 2 ^ (f.fracBits + 1) then 0 else kk - 2 ^ f.fracBits
      (q + f.fracBits + f.bias).toNat * 2 ^ f.fracBits + t
  let uf : FFlags := if inexact && decide (mag < 2 ^ f.fracBits) then fUF else fNone
  let nx : FFlags := if inexact then fNX else fNone
  if neg && !f.signed && decide (kk ≠ 0) then
    if c.sat then ⟨0, fNX⟩ else ⟨f.nanCode, fNV⟩
  else if f.maxCode < mag then
    let toMax := c.mode == .rz || (c.mode == .rd && !neg) || (c.mode == .ru && neg) || c.sat
    ⟨if toMax then f.withSign neg f.maxCode
      else if f.inf then f.withSign neg (f.maxCode + 1) else f.nanCode, fOF ||| fNX⟩
  else ⟨f.withSign neg mag, uf ||| nx⟩

/-- Table 5.6 for sources that are not finite and nonzero, and Round for the others. -/
def roundFV (f : FloatFmt) (c : RCtl) (x : FV) : FRes :=
  match x with
  | .nan s => ⟨f.nanCode, if s then fNV else fNone⟩
  | .zero neg => ⟨f.withSign neg 0, fNone⟩
  | .inf neg =>
    if neg && !f.signed then (if c.sat then ⟨0, fNone⟩ else ⟨f.nanCode, fNV⟩)
    else if c.sat then ⟨f.withSign neg f.maxCode, fNone⟩
    else if f.inf then ⟨f.withSign neg (f.maxCode + 1), fNone⟩ else ⟨f.nanCode, fNV⟩
  | .fin neg m e => roundMag f c neg ⟨m, e, false⟩

/-- The bounds of an integer format. -/
def minOf (n : Nat) (unsigned : Bool) : Int := if unsigned then 0 else -(2 ^ (n - 1) : Int)
/-- The greatest value of an integer format. -/
def maxOf (n : Nat) (unsigned : Bool) : Int := if unsigned then 2 ^ n - 1 else 2 ^ (n - 1) - 1
/-- Clamp. -/
def clampInt (x lo hi : Int) : Int := max lo (min x hi)
/-- Trunc(x, n): the low n bits of an integer. -/
def truncInt (n : Nat) (x : Int) : Nat := (x % 2 ^ n).toNat

/-- R105: conversion of a float value to an integer format. -/
def roundInt (n : Nat) (unsigned : Bool) (c : RCtl) (x : FV) : FRes :=
  let lo := minOf n unsigned
  let hi := maxOf n unsigned
  match x with
  | .nan _ => ⟨0, fNV⟩
  | .zero _ => ⟨0, fNone⟩
  | .inf neg => ⟨truncInt n (if neg then lo else hi), fNV⟩
  | .fin neg m e =>
    let big := decide (200 < (m.log2 : Int) + e)
    let e' := if (m.log2 : Int) + e < -100 then -(m.log2 : Int) - 100 else e
    let r := if big then (2 ^ 200, false) else roundTo c neg ⟨m, e', false⟩ 0
    let y : Int := if neg then -(r.1 : Int) else r.1
    if y < lo then ⟨truncInt n lo, fNV⟩
    else if hi < y then ⟨truncInt n hi, fNV⟩
    else ⟨truncInt n y, if r.2 then fNX else fNone⟩

/-! Arithmetic on exact values (06 R122). -/

/-- The exact result of an operation, before Round. -/
inductive Exact where
  | nan (nv : Bool)
  | inf (neg : Bool) (dz : Bool)
  | zero (neg : Bool)
  | val (neg : Bool) (x : Mag)
  deriving DecidableEq, Repr

/-- Round of an exact result. -/
def Exact.round (f : FloatFmt) (c : RCtl) (x : Exact) : FRes :=
  match x with
  | .nan nv => ⟨f.nanCode, if nv then fNV else fNone⟩
  | .inf neg dz => ⟨f.withSign neg (f.maxCode + 1), if dz then fDZ else fNone⟩
  | .zero neg => ⟨f.withSign neg 0, fNone⟩
  | .val neg x => roundMag f c neg x

/-- The exact value as an exact result. -/
def FV.toExact : FV → Exact
  | .nan s => .nan s
  | .inf neg => .inf neg false
  | .zero neg => .zero neg
  | .fin neg m e => .val neg ⟨m, e, false⟩

/-- Negation. -/
def FV.neg : FV → FV
  | .nan s => .nan s
  | .inf n => .inf !n
  | .zero n => .zero !n
  | .fin n m e => .fin (!n) m e

/-- The exact product; a NaN result that sets NV is signalling here. -/
def FV.mul : FV → FV → FV
  | .nan s, .nan t => .nan (s || t)
  | .nan s, _ => .nan s
  | _, .nan t => .nan t
  | .inf a, .inf b => .inf (a != b)
  | .inf _, .zero _ => .nan true
  | .zero _, .inf _ => .nan true
  | .inf a, .fin b _ _ => .inf (a != b)
  | .fin a _ _, .inf b => .inf (a != b)
  | .zero a, .zero b => .zero (a != b)
  | .zero a, .fin b _ _ => .zero (a != b)
  | .fin a _ _, .zero b => .zero (a != b)
  | .fin a m e, .fin b n f => .fin (a != b) (m * n) (e + f)

/-- The value is multiplied by 2^n. -/
def FV.scale (x : FV) (n : Int) : FV := match x with | .fin s m e => .fin s m (e + n) | y => y

/-- A finite addend as a signed mantissa over a common exponent. -/
def FV.signedAt (x : FV) (e0 : Int) : Int :=
  match x with
  | .fin neg m e => let v : Int := m * 2 ^ (e - e0).toNat; if neg then -v else v
  | _ => 0
/-- The exponent of a finite nonzero value. -/
def FV.exp? : FV → Option Int
  | .fin _ _ e => some e
  | _ => none

/-- The least exponent of a list of addends. -/
def minExp (l : List FV) : Int :=
  (l.filterMap FV.exp?).foldl min ((l.filterMap FV.exp?).headD 0)

/-- The exact sum of addends (06 R122); rd is the mode RD, under which an exact zero has the sign -. A quiet NaN among the
addends gives NaN without NV, also beside infinities of both signs (log 91: DESIGN CHOICE). -/
def sumFV (l : List FV) (rd : Bool) : Exact :=
  let nanNV := l.any fun x => x == .nan true
  let nan := l.any fun x => match x with | .nan _ => true | _ => false
  let pinf := l.any fun x => x == .inf false
  let ninf := l.any fun x => x == .inf true
  if nan then .nan nanNV
  else if pinf && ninf then .nan true
  else if pinf then .inf false false
  else if ninf then .inf true false
  else
    let e0 := minExp l
    let t : Int := l.foldl (fun a x => a + x.signedAt e0) 0
    if t = 0 then .zero (rd || l.all fun x => x == .zero true)
    else .val (decide (t < 0)) ⟨t.natAbs, e0, false⟩

/-- The truncated quotient of two positive magnitudes, with 64 bits or more. -/
def divMag (m : Nat) (e : Int) (n : Nat) (f : Int) : Mag :=
  let k := 64 + n.log2
  ⟨m * 2 ^ k / n, e - f - k, decide (m * 2 ^ k % n ≠ 0)⟩

/-- The exact quotient (06 R122). -/
def divFV : FV → FV → Exact
  | .nan s, .nan t => .nan (s || t)
  | .nan s, _ => .nan s
  | _, .nan t => .nan t
  | .inf _, .inf _ => .nan true
  | .inf a, .zero b => .inf (a != b) false
  | .inf a, .fin b _ _ => .inf (a != b) false
  | .zero _, .zero _ => .nan true
  | .zero a, .inf b => .zero (a != b)
  | .zero a, .fin b _ _ => .zero (a != b)
  | .fin a _ _, .inf b => .zero (a != b)
  | .fin a _ _, .zero b => .inf (a != b) true
  | .fin a m e, .fin b n f => .val (a != b) (divMag m e n f)

/-- The greatest r below 2^n with r r d <= x, bit by bit. -/
def rootBits (n d x : Nat) : Nat :=
  (List.range n).reverse.foldl (fun r i => if (r + 2 ^ i) * (r + 2 ^ i) * d ≤ x then r + 2 ^ i else r) 0

/-- Square root (06 Table 6.5). -/
def sqrtFV : FV → Exact
  | .nan s => .nan s
  | .inf neg => if neg then .nan true else .inf false false
  | .zero neg => .zero neg
  | .fin true _ _ => .nan true
  | .fin false m e =>
    let odd := e % 2 != 0
    let m1 := (if odd then 2 * m else m) * 2 ^ 96
    let e1 := (if odd then e - 1 else e) - 96
    let r := rootBits 64 1 m1
    .val false ⟨r, e1 / 2, decide (r * r ≠ m1)⟩

/-- Reciprocal square root (06 Table 6.5). -/
def rsqrtFV : FV → Exact
  | .nan s => .nan s
  | .inf neg => if neg then .nan true else .zero false
  | .zero neg => .inf neg true
  | .fin true _ _ => .nan true
  | .fin false m e =>
    let odd := e % 2 != 0
    let m1 := if odd then 2 * m else m
    let e1 := if odd then e - 1 else e
    let r := rootBits 68 m1 (2 ^ 130)
    .val false ⟨r, -65 - e1 / 2, decide (r * r * m1 ≠ 2 ^ 130)⟩

/-- Reciprocal (06 Table 6.5). -/
def rcpFV (x : FV) : Exact := divFV (.fin false 1 0) x

/-! The transcendental functions: many correct bits, cut off, and a sticky bit (log 14). -/

/-- ln 2 times 2^220, cut off. -/
def ln2Fixed : Nat := 1167950688773872517954935089893261764285717328480531383045641523573
/-- pi times 2^430, cut off. -/
def piFixed : Nat := 8710598741881011095307514925528767253835697869117002946683736815061430642517439960281687965396170617911066893946226934353316672095

/-- The Taylor sum of exp at x 2^-p, from a term on, in fixed point. -/
def expTaylor (p x : Nat) : Nat → Nat → Nat → Nat
  | 0, _, _ => 0
  | n + 1, k, term => term + expTaylor p x n (k + 1) (term * x / 2 ^ p / (k + 1))

/-- 2^(f / 2^60) times 2^100 for f below 2^60, cut off. -/
def exp2Frac (f : Nat) : Nat := expTaylor 220 (f * ln2Fixed / 2 ^ 60) 60 0 (2 ^ 220) / 2 ^ 120

/-- 2^a (06 Table 6.5). -/
def exp2FV : FV → Exact
  | .nan s => .nan s
  | .inf neg => if neg then .zero false else .inf false false
  | .zero _ => .val false ⟨1, 0, false⟩
  | .fin neg m e =>
    let lg := (m.log2 : Int) + e
    if 12 < lg then .val false ⟨1, if neg then -5000 else 5000, false⟩
    else if lg < -34 then .val false (if neg then ⟨2 ^ 60 - 1, -60, true⟩ else ⟨2 ^ 60, -60, true⟩)
    else
      let a : Int := let v : Int := if 0 ≤ e then (m * 2 ^ (e + 60).toNat : Nat) else (m * 2 ^ 60 / 2 ^ (-e).toNat : Nat)
                     if neg then -v else v
      let n := a / 2 ^ 60
      let f := (a % 2 ^ 60).toNat
      if f = 0 then .val false ⟨1, n, false⟩ else .val false ⟨exp2Frac f, n - 100, true⟩

/-- Bits of log2 of y 2^-255 in [1, 2), by squaring. -/
def log2Bits : Nat → Nat → Nat → Nat
  | 0, _, acc => acc
  | n + 1, y, acc =>
    let q := y * y / 2 ^ 255
    if 2 ^ 256 ≤ q then log2Bits n (q / 2) (2 * acc + 1) else log2Bits n q (2 * acc)

/-- log2 a (06 Table 6.5); the zero that 1.0 gives is +0 (log 92: DESIGN CHOICE). -/
def log2FV : FV → Exact
  | .nan s => .nan s
  | .inf neg => if neg then .nan true else .inf false false
  | .zero _ => .inf true true
  | .fin true _ _ => .nan true
  | .fin false m e =>
    let k := m.log2
    let ex : Int := e + k
    if m = 2 ^ k then (if ex = 0 then .zero false else .val (decide (ex < 0)) ⟨ex.natAbs, 0, false⟩)
    else
      let f := log2Bits 90 (m * 2 ^ 255 / 2 ^ k) 0
      if 0 ≤ ex then .val false ⟨ex.natAbs * 2 ^ 90 + f, -90, true⟩
      else .val true ⟨ex.natAbs * 2 ^ 90 - f - 1, -90, true⟩

/-- The Taylor sum of sine, terms alternating, in fixed point with 400 bits; x2 is the square of the argument. -/
def sinTaylor (x2 : Nat) : Nat → Nat → Nat → Int
  | 0, _, _ => 0
  | n + 1, k, term => (term : Int) - sinTaylor x2 n (k + 1) (term * x2 / 2 ^ 400 / ((2 * k + 2) * (2 * k + 3)))

/-- sin(2 pi r 2^-160) for 0 < r < 2^158, times 2^390, cut off. -/
def sinTurn (r : Nat) : Nat :=
  let x := r * piFixed / 2 ^ 189
  ((sinTaylor (x * x / 2 ^ 400) 60 0 x) / 2 ^ 10).toNat

/-- The fraction of a turn of a finite magnitude, times 2^160. -/
def turnFrac (m : Nat) (e : Int) : Nat :=
  if 0 ≤ e then 0 else m * 2 ^ 160 / 2 ^ (-e).toNat % 2 ^ 160

/-- sin(2 pi a) (06 R124, Table 6.5). -/
def sinFV : FV → Exact
  | .nan s => .nan s
  | .inf _ => .nan true
  | .zero neg => .zero neg
  | .fin neg m e =>
    let r := turnFrac m e
    let half := 2 ^ 159
    let flip := decide (half ≤ r)
    let r1 := if flip then r - half else r
    let r2 := if 2 ^ 158 < r1 then half - r1 else r1
    if r2 = 0 then .zero neg
    else if r2 = 2 ^ 158 then .val (neg != flip) ⟨1, 0, false⟩
    else .val (neg != flip) ⟨sinTurn r2, -390, true⟩

/-- cos(2 pi a) (06 R124, Table 6.5). -/
def cosFV : FV → Exact
  | .nan s => .nan s
  | .inf _ => .nan true
  | .zero _ => .val false ⟨1, 0, false⟩
  | .fin _ m e =>
    let r := turnFrac m e
    let r1 := if 2 ^ 159 < r then 2 ^ 160 - r else r
    if r1 = 2 ^ 158 then .zero false
    else if r1 = 0 then .val false ⟨1, 0, false⟩
    else if r1 = 2 ^ 159 then .val true ⟨1, 0, false⟩
    else if r1 < 2 ^ 158 then .val false ⟨sinTurn (2 ^ 158 - r1), -390, true⟩
    else .val true ⟨sinTurn (r1 - 2 ^ 158), -390, true⟩

/-! Comparison and selection (05 R107, 06 R121, R123). -/

/-- The order of two values that are not NaN: -1, 0 or 1; -0 equals +0. -/
def cmpFV (a b : FV) : Int :=
  let key : FV → Int := fun x => match x with
    | .inf false => 2 | .inf true => -2 | .fin false _ _ => 1 | .fin true _ _ => -1 | _ => 0
  if key a < key b then -1 else if key b < key a then 1
  else match a, b with
    | .fin _ _ e, .fin _ _ f =>
      let e0 := min e f
      let x := a.signedAt e0
      let y := b.signedAt e0
      if x < y then -1 else if y < x then 1 else 0
    | _, _ => 0

/-- The value is a NaN. -/
def FV.isNan : FV → Bool | .nan _ => true | _ => false
/-- The value is a signalling NaN. -/
def FV.isSnan : FV → Bool | .nan s => s | _ => false
/-- The sign bit of a zero. -/
def FV.negZero : FV → Bool | .zero n => n | _ => false

/-- fmin and fmax on codes of a format (05 R107, 06 R121). -/
def minMax (f : FloatFmt) (max : Bool) (a b : Nat) : FRes :=
  let x := decodeFloat f a
  let y := decodeFloat f b
  let fl : FFlags := if x.isSnan || y.isSnan then fNV else fNone
  if x.isNan && y.isNan then ⟨f.nanCode, fl⟩
  else if x.isNan then ⟨b, fl⟩
  else if y.isNan then ⟨a, fl⟩
  else
    let c := cmpFV x y
    let aLess := decide (c < 0) || (c == 0 && x.negZero && !y.negZero)
    let bLess := decide (0 < c) || (c == 0 && y.negZero && !x.negZero)
    ⟨if max then (if aLess then b else a) else (if bLess then b else a), fl⟩

/-- The conditions of fcmp (06 R123). -/
def fcmpFV (cond : Nat) (x y : FV) : Bool × FFlags :=
  let nan := x.isNan || y.isNan
  let c := cmpFV x y
  let r := match cond with
    | 0 => !nan && c == 0
    | 1 => nan || c != 0
    | 2 => !nan && decide (c < 0)
    | 3 => !nan && decide (c ≤ 0)
    | 4 => !nan && decide (0 < c)
    | 5 => !nan && decide (0 ≤ c)
    | 6 => nan
    | _ => !nan
  let ordered := decide (2 ≤ cond ∧ cond ≤ 5)
  (r, if (ordered && nan) || x.isSnan || y.isSnan then fNV else fNone)

/-- frnd: an integral value by a mode (06 R125). -/
def rndFV (f : FloatFmt) (mode : RMode) (x : FV) : FRes :=
  match x with
  | .nan s => ⟨f.nanCode, if s then fNV else fNone⟩
  | .inf neg => ⟨f.withSign neg (f.maxCode + 1), fNone⟩
  | .zero neg => ⟨f.withSign neg 0, fNone⟩
  | .fin neg m e =>
    if 0 ≤ e then roundFV f RCtl.rne x
    else
      let e' := if (m.log2 : Int) + e < -100 then -(m.log2 : Int) - 100 else e
      let r := roundTo (RCtl.plain mode) neg ⟨m, e', false⟩ 0
      if r.1 = 0 then ⟨f.withSign neg 0, fNone⟩ else ⟨(roundMag f RCtl.rne neg ⟨r.1, 0, false⟩).code, fNone⟩

/-! FP32 with RNE and no flag, as the graph and ray rules write RN (00 R8, 13 R241, 15 R256). -/

/-- The value of an FP32 code. -/
def fv32 (w : Word) : FV := decodeFloat .f32 w.toNat
/-- RN of an exact result. -/
def rn (x : Exact) : Word := BitVec.ofNat 32 (x.round .f32 RCtl.rne).code
/-- RN(a + b). -/
def rnAdd (a b : Word) : Word := rn (sumFV [fv32 a, fv32 b] false)
/-- RN(a - b). -/
def rnSub (a b : Word) : Word := rn (sumFV [fv32 a, (fv32 b).neg] false)
/-- RN(a b). -/
def rnMul (a b : Word) : Word := rn ((fv32 a).mul (fv32 b)).toExact
/-- RN(a / b). -/
def rnDiv (a b : Word) : Word := rn (divFV (fv32 a) (fv32 b))
/-- RN of a square root. -/
def rnSqrt (a : Word) : Word := rn (sqrtFV (fv32 a))
/-- The sign bit flipped. -/
def negW (a : Word) : Word := a ^^^ 0x80000000#32
/-- The sign bit cleared. -/
def absW (a : Word) : Word := a &&& 0x7FFFFFFF#32
/-- fdp3 of two triples: exact, one rounding (05 R107). -/
def rnDot3 (a b : Word × Word × Word) : Word :=
  rn (sumFV [(fv32 a.1).mul (fv32 b.1), (fv32 a.2.1).mul (fv32 b.2.1), (fv32 a.2.2).mul (fv32 b.2.2)] false)
/-- 1.0. -/
def one32 : Word := 0x3F800000#32

end Sys2Proof.Machine
end

