-- ==== Sys2Proof/Machine/Ints.lean ====
section
/-! DEFINITION. The integer operations that rows 0x1 and 0x3 share, for a width n (03 Table 3.4, 06 Table 6.2). -/
namespace Sys2Proof.Machine

/-- Ext: the value of the low n bits, signed unless u. -/
def extInt (n : Nat) (u : Bool) (x : Nat) : Int :=
  let v := x % 2 ^ n
  if !u && decide (2 ^ (n - 1) ≤ v) then (v : Int) - 2 ^ n else v

/-- The integer operations, in the order of the opcode columns; sub is SUB. -/
inductive IntOp where
  | add | sub | mul | div | and | or | xor | shl | shr | min | max | cmp | sel | bfx | bfi | bit | mad
  deriving DecidableEq, Repr

/-- A comparison by its condition code (03 Table 3.4). -/
def intCond (c : Nat) (a b : Int) : Bool :=
  match c with
  | 0 => a == b
  | 1 => a != b
  | 2 => decide (a < b)
  | 3 => decide (a ≤ b)
  | 4 => decide (b < a)
  | _ => decide (b ≤ a)

/-- pos and len of sbfx, sbfi, ibfx and ibfi. -/
def fieldPos (n b : Nat) : Nat := b % 64 % n
/-- len. -/
def fieldLen (n b : Nat) : Nat := Nat.min (b / 256 % 128) n

/-- The field of len bits at pos; bits at or above n read as zero. -/
def bitField (n a pos len : Nat) : Nat := a % 2 ^ n / 2 ^ pos % 2 ^ len

/-- a with its field replaced by the low bits of c; bits at or above n are not written. -/
def insertField (n a c pos len : Nat) : Nat :=
  (a % 2 ^ pos + (c % 2 ^ len) * 2 ^ pos + a / 2 ^ (pos + len) * 2 ^ (pos + len)) % 2 ^ n

/-- Leading zeros over n bits. -/
def clzN (n a : Nat) : Nat := if a % 2 ^ n = 0 then n else n - 1 - (a % 2 ^ n).log2
/-- Trailing zeros over n bits. -/
def ctzN (n a : Nat) : Nat := ((List.range n).find? fun i => a.testBit i).getD n
/-- The low n bits in reverse order. -/
def brevN (n a : Nat) : Nat := (List.range n).foldl (fun r i => if a.testBit i then r + 2 ^ (n - 1 - i) else r) 0

/-- The exact result of an integer operation on n-bit values a, b and c (as their low n bits); sel is the choice of a
select. -/
def intOp (op : IntOp) (n : Nat) (u : Bool) (sub : Nat) (sel : Bool) (a b c : Nat) : Int :=
  let x := extInt n u a
  let y := extInt n u b
  match op with
  | .add => x + y
  | .sub => x - y
  | .mul => if sub = 0 then x * y else x * y / 2 ^ n
  | .div =>
    if y = 0 then (if sub = 0 then 2 ^ n - 1 else x)
    else if sub = 0 then x.tdiv y else x.tmod y
  | .and => ((a &&& b) % 2 ^ n : Nat)
  | .or => ((a ||| b) % 2 ^ n : Nat)
  | .xor => ((a ^^^ b) % 2 ^ n : Nat)
  | .shl => (a % 2 ^ n * 2 ^ (b % n) : Nat)
  | .shr => x / 2 ^ (b % n)
  | .min => Min.min x y
  | .max => Max.max x y
  | .cmp => if intCond sub x y then 1 else 0
  | .sel => if sel then x else y
  | .bfx =>
    let len := fieldLen n b
    extInt (if len = 0 then 1 else len) (u || len == 0) (bitField n a (fieldPos n b) len)
  | .bfi => (insertField n (a % 2 ^ n) c (fieldPos n b) (fieldLen n b) : Nat)
  | .bit =>
    ((match sub with
      | 0 => popBits' n a
      | 1 => clzN n a
      | 2 => ctzN n a
      | _ => brevN n a : Nat) : Int)
  | .mad => x * y + extInt n u c
where
  /-- Ones over n bits. -/
  popBits' (n a : Nat) : Nat := ((List.range n).filter fun i => a.testBit i).length

/-- R63 and R119: the result after SAT and Trunc to n bits. -/
def intResult (op : IntOp) (n : Nat) (u sat : Bool) (sub : Nat) (sel : Bool) (a b c : Nat) : Nat :=
  let r := intOp op n u sub sel a b c
  truncInt n (if sat then clampInt r (minOf n u) (maxOf n u) else r)

end Sys2Proof.Machine
end

