-- ==== Sys2Proof/Machine/Uniform.lean ====
section
/-! DEFINITION. The uniform rows 0x1 and 0x2 (03 R62 to R70). -/
namespace Sys2Proof.Machine

/-! Row 0x1. -/

/-- The shared checks of a row 0x1 instruction: A and B (without I) and for sbfi C are s registers (03 R62). -/
def uReq (o : Op) (readsB readsC : Bool) (mask : Bool) : Req :=
  { g := o.g, phase := .A, who := .any,
    reads := rdS o.a :: ((if readsB && !immBit o then [rdS o.b] else []) ++ (if readsC then [rdS o.c] else [])),
    writes := if mask then [] else [atS o.d], md := if mask then some o.d else none }

/-- N of a row 0x1 instruction. -/
def uWidth (o : Op) : Nat := if w32F o then 32 else 64

/-- The value a row 0x1 instruction writes to an s register (03 R63). -/
def uResult (op : IntOp) (o : Op) (x : Iss) : DWord :=
  let n := uWidth o
  let sel := (x.uni.mask (bits o.c.reg 0 4) &&& x.sel) != 0
  let r := intResult op n (unsF o) (satF o) (subF o) sel (x.s o.a.reg).toNat (x.uniB o).toNat (x.s o.c.reg).toNat
  if w32F o then BitVec.ofInt 64 (extInt 32 (unsF o) r) else BitVec.ofNat 64 r

/-- R63 for an instruction that writes an s register. -/
def execU (op : IntOp) (readsB readsC : Bool) (o : Op) (s : State) : Res :=
  issue (uReq o readsB readsC false) (opLen o) s fun x => .next ((s.setS x o.d (uResult op o x)).advance x (opLen o))

/-- sadd (03 R63). -/
def execSadd (o : Op) (s : State) : Res := execU .add true false o s
/-- ssub (03 R63). -/
def execSsub (o : Op) (s : State) : Res := execU .sub true false o s
/-- smul (03 R63). -/
def execSmul (o : Op) (s : State) : Res := execU .mul true false o s
/-- sdiv (03 R63). -/
def execSdiv (o : Op) (s : State) : Res := execU .div true false o s
/-- sand (03 R63). -/
def execSand (o : Op) (s : State) : Res := execU .and true false o s
/-- sor (03 R63). -/
def execSor (o : Op) (s : State) : Res := execU .or true false o s
/-- sxor (03 R63). -/
def execSxor (o : Op) (s : State) : Res := execU .xor true false o s
/-- sshl (03 R63). -/
def execSshl (o : Op) (s : State) : Res := execU .shl true false o s
/-- sshr (03 R63). -/
def execSshr (o : Op) (s : State) : Res := execU .shr true false o s
/-- smin (03 R63). -/
def execSmin (o : Op) (s : State) : Res := execU .min true false o s
/-- smax (03 R63). -/
def execSmax (o : Op) (s : State) : Res := execU .max true false o s
/-- ssel (03 R63, Table 3.4): C names a mask. -/
def execSsel (o : Op) (s : State) : Res := execU .sel true false o s
/-- sbfx (03 R63). -/
def execSbfx (o : Op) (s : State) : Res := execU .bfx true false o s
/-- sbfi (03 R63). -/
def execSbfi (o : Op) (s : State) : Res := execU .bfi true true o s
/-- sbit (03 R63). -/
def execSbit (o : Op) (s : State) : Res := execU .bit false false o s
/-- scmp (03 R63): the whole mask, not ANDed with %exec. -/
def execScmp (o : Op) (s : State) : Res :=
  issue (uReq o true false true) (opLen o) s fun x =>
    let r := intResult .cmp (uWidth o) (unsF o) false (subF o) false (x.s o.a.reg).toNat (x.uniB o).toNat 0
    .next ((s.setM x o.d (if r = 1 then LaneSet.all else 0)).advance x (opLen o))

/-! Row 0x2. -/

/-- smov (03 R64). -/
def execSmov (o : Op) (s : State) : Res :=
  issue { Req.plain o.g with reads := if immBit o then [] else [rdS o.a], writes := [atS o.d] } (opLen o) s fun x =>
    .next ((s.setS x o.d (if immBit o then x.uniB o else x.s o.a.reg)).advance x (opLen o))

/-- slea (03 R65). -/
def execSlea (o : M64) (s : State) : Res :=
  issue { Req.plain o.g with reads := addrReads o .s, writes := [atS o.d] } 8 s fun x =>
    .next ((s.setS x o.d (BitVec.ofNat 64 (x.addr o 0))).advance x 8)

/-- Bytes of an sld type (03 R66). -/
def sldBytes (t : Nat) : Nat := match t with | 0 => 1 | 1 => 1 | 2 => 2 | 3 => 2 | 6 => 8 | _ => 4
/-- The 64-bit value an sld loads: the s types (odd codes below 6) are sign-extended. -/
def sldExtend (t v : Nat) : DWord :=
  BitVec.ofInt 64 (extInt (8 * sldBytes t) (t % 2 == 0 || t == 6) v)

/-- sld (03 R66): the bytes are read when it issues (log 5), and the register fills later. -/
def execSld (o : M64) (s : State) : Res :=
  issue { Req.plain o.g with reads := addrReads o .s, writes := [atS o.d] } 8 s fun x =>
    let t := bits o.fn 0 3
    let a := x.addr o 0
    match s.accessCheck x [0] (fun _ => a) (sldBytes t) (sldBytes t) false with
    | some f => faultR x s { f with lanes := x.sel }
    | none =>
      let v := sldExtend t (s.sliceLE x.core (aliasOff a) (sldBytes t))
      .next ((s.pendResult x .load 0 [] [(sNum o.d, v)] false none).advance x 8)

/-- sst (03 R67): no store when every selected lane is a helper lane. -/
def execSst (o : M64) (s : State) : Res :=
  issue { Req.plain o.g with reads := atS o.d :: addrReads o .s } 8 s fun x =>
    let n := 2 ^ bits o.fn 0 2
    let a := x.addr o 0
    if x.active = 0 then .next (s.advance x 8)
    else match s.accessCheck x [0] (fun _ => a) n n true with
      | some f => faultR x s { f with lanes := x.sel }
      | none => .next ((s.sliceWrite x.core (aliasOff a) (toLE n (x.s o.d).toNat)).advance x 8)

/-- The sources of a vtos that are in error: the register that gives the lane, and the one lane that it reads (24 R349). -/
def vtosBad (x : Iss) (o : Op) (lane : Nat) : Option (BitVec 9 × LaneSet) :=
  (if immBit o then x.badSource x.sel [rdS o.b] else none).orElse fun _ => x.badSource (1#128 <<< lane) [rdV o.a]

/-- vtos (03 R68). -/
def execVtos (o : Op) (s : State) : Res :=
  issue { g := o.g, phase := .C, who := .group, reads := rdV o.a :: (if immBit o then [rdS o.b] else []),
          writes := [atS o.d], own := true } 8 s fun x =>
    let lane := if immBit o then bits (x.s o.b.reg) 0 7 else bits o.fn 0 7
    if let some (reg, lanes) := vtosBad x o lane then regEccR x s reg lanes
    else .next ((s.pendResult x .vtos 0 [] [(sNum o.d, (x.lane o.a.reg lane).setWidth 64)] false none).advance x 8)

/-- VTOS_RESULT (03 R68): the lane value arrives. -/
def execVtosResult (core id : Nat) (s : State) : Res := landEvent "VTOS_RESULT" .vtos core id s

/-- LOAD_DATA_RETURN (03 R52): a load's data land. -/
def execLoadDataReturn (core id : Nat) (s : State) : Res := landEvent "LOAD_DATA_RETURN" .load core id s

/-- mtos (03 R69). -/
def execMtos (o : Op) (s : State) : Res :=
  issue { g := o.g, phase := .C, who := .group, reads := [], writes := [atS o.d] } 8 s fun x =>
    let m := x.uni.mask (bits o.a.reg 0 4)
    .next ((s.setS x o.d (if o.fn.getLsbD 0 then m.extractLsb' 64 64 else m.extractLsb' 0 64)).advance x 8)

/-- stom (03 R69). -/
def execStom (o : Op) (s : State) : Res :=
  issue { g := o.g, phase := .C, who := .group, reads := [rdS o.a, rdS o.b], writes := [], md := some o.d } 8 s fun x =>
    .next ((s.setM x o.d (x.s o.b.reg ++ x.s o.a.reg)).advance x 8)

/-- sclk (03 R70). -/
def execSclk (o : Op) (s : State) : Res :=
  issue { Req.plain o.g with writes := [atS o.d] } 8 s fun x => .next ((s.setS x o.d s.clock).advance x 8)

/-- sid (03 R70). -/
def execSid (o : Op) (s : State) : Res :=
  issue { Req.plain o.g with writes := [atS o.d], extra := s.sprAllowed (0x10 + o.fn.toNat) } 8 s fun x =>
    .next ((s.setS x o.d (s.identityReg x o.fn.toNat)).advance x 8)

end Sys2Proof.Machine
end

