-- ==== Sys2Proof/Machine/Vector.lean ====
section
/-! DEFINITION. The vector integer row 0x3 and the vector float row 0x4 (06 R116 to R126). -/
namespace Sys2Proof.Machine

/-! Writing results. -/

/-- Bits of a mask with the selected lanes replaced (06 R116). -/
def mergeMask (sel old new : LaneSet) : LaneSet := (old &&& ~~~sel) ||| (new &&& sel)
/-- Writes the selected lanes of a mask. -/
def State.setMLanes (s : State) (x : Iss) (d : BitVec 9) (new : LaneSet) : State :=
  s.setM x d (mergeMask x.sel (x.uni.mask (bits d 0 4)) new)

/-- The results of the selected lanes; the others hold code 0 and no flag. -/
def Iss.laneRes (x : Iss) (f : Nat → FRes) : List FRes :=
  (List.range 128).map fun i => if x.sel.getLsbD i then f i else ⟨0, fNone⟩
/-- The flags of the lanes of a set, together (05 R106). -/
def flagsOf (set : LaneSet) (l : List FRes) : FFlags :=
  (List.range 128).foldl (fun fl i => if set.getLsbD i then fl ||| (l.getD i ⟨0, fNone⟩).flags else fl) fNone

/-- Writes float results to a v register, and the flags of the selected lanes that are no helper lanes (05 R106). -/
def State.setVF (s : State) (x : Iss) (d : Nat) (l : List FRes) (taint : Bool) : State :=
  (s.setV x d (fun i => BitVec.ofNat 32 (l.getD i ⟨0, fNone⟩).code) taint).orFlags x (flagsOf x.active l)

/-! Row 0x3. -/

/-- The shared checks of an instruction of rows 0x3 and 0x4 that writes a v register, or with mask a mask. -/
def lReq (o : Op) (readsB readsC mask : Bool) : Req :=
  { g := o.g, phase := .C, who := .group, reads := laneReads o readsB readsC,
    writes := if mask then [] else [atV o.d], md := if mask then some o.d else none, extra := crossOk o, whole := (crossBlock o).isSome }

/-- Lane i of a row 0x3 result (06 R119). -/
def iLane (op : IntOp) (o : Op) (x : Iss) (i : Nat) : Nat :=
  intResult op 32 (unsF o) (satF o) (subF o) ((x.uni.mask (bits o.c.reg 0 4)).getLsbD i)
    (x.val o false i).toNat (x.valB o i).toNat (x.lane o.c.reg i).toNat

/-- R119 for an instruction that writes a v register. -/
def execI (op : IntOp) (readsB readsC : Bool) (o : Op) (s : State) : Res :=
  issue (lReq o readsB readsC false) (opLen o) s fun x =>
    .next ((s.setV x o.d.toNat (fun i => BitVec.ofNat 32 (iLane op o x i))
      (x.anyTaint (laneReads o readsB readsC))).advance x (opLen o))

/-- iadd (06 R119). -/
def execIadd (o : Op) (s : State) : Res := execI .add true false o s
/-- isub (06 R119). -/
def execIsub (o : Op) (s : State) : Res := execI .sub true false o s
/-- imul (06 R119). -/
def execImul (o : Op) (s : State) : Res := execI .mul true false o s
/-- imad (06 R119). -/
def execImad (o : Op) (s : State) : Res := execI .mad true true o s
/-- iand (06 R119). -/
def execIand (o : Op) (s : State) : Res := execI .and true false o s
/-- ior (06 R119). -/
def execIor (o : Op) (s : State) : Res := execI .or true false o s
/-- ixor (06 R119). -/
def execIxor (o : Op) (s : State) : Res := execI .xor true false o s
/-- ishl (06 R119). -/
def execIshl (o : Op) (s : State) : Res := execI .shl true false o s
/-- ishr (06 R119). -/
def execIshr (o : Op) (s : State) : Res := execI .shr true false o s
/-- imin (06 R119). -/
def execImin (o : Op) (s : State) : Res := execI .min true false o s
/-- imax (06 R119). -/
def execImax (o : Op) (s : State) : Res := execI .max true false o s
/-- isel (06 R119): C names a mask. -/
def execIsel (o : Op) (s : State) : Res := execI .sel true false o s
/-- ibfx (06 R119). -/
def execIbfx (o : Op) (s : State) : Res := execI .bfx true false o s
/-- ibfi (06 R119). -/
def execIbfi (o : Op) (s : State) : Res := execI .bfi true true o s
/-- ibit (06 R119). -/
def execIbit (o : Op) (s : State) : Res := execI .bit false false o s
/-- icmp (06 R119). -/
def execIcmp (o : Op) (s : State) : Res :=
  issue (lReq o true false true) (opLen o) s fun x =>
    .next ((s.setMLanes x o.d (LaneSet.ofTest fun i => iLane .cmp o x i == 1)).advance x (opLen o))

/-! Row 0x4. -/

/-- RM of the split's FMT (05 Table 5.5). -/
def Iss.rm (x : Iss) : RMode := RMode.ofRM (bits x.flow.fmt 10 2)

/-- The element format of TYPE (06 Table 6.3). -/
def typeFmt (t : Nat) : FloatFmt := match t with | 0 => .f32 | 1 => .f16 | _ => .bf16
/-- A code with its sign flipped when neg holds (02 R35). -/
def flipSign (f : FloatFmt) (neg : Bool) (code : Nat) : Nat :=
  if neg then code ^^^ 2 ^ (f.width - 1) else code

/-- The float operations of row 0x4 that write elements, in the order of the opcode columns. -/
inductive FloatOp where
  | add | sub | mul | fma | min | max | div | rcp | rsq | sqrt | ex2 | lg2 | sincos | rnd
  deriving DecidableEq, Repr

/-- One element (06 R121, R122, R124, R125): codes in, code and flags out. -/
def floatOp (op : FloatOp) (f : FloatFmt) (rm : RMode) (sub : Nat) (a b c : Nat) : FRes :=
  let x := decodeFloat f a
  let y := decodeFloat f b
  let rd := rm == .rd
  let fin : Exact → FRes := fun e => e.round f (RCtl.plain rm)
  match op with
  | .add => fin (sumFV [x, y] rd)
  | .sub => fin (sumFV [x, y.neg] rd)
  | .mul => fin (x.mul y).toExact
  | .fma => fin (sumFV [x.mul y, decodeFloat f c] rd)
  | .min => minMax f false a b
  | .max => minMax f true a b
  | .div => fin (divFV x y)
  | .rcp => fin (rcpFV x)
  | .rsq => fin (rsqrtFV x)
  | .sqrt => fin (sqrtFV x)
  | .ex2 => fin (exp2FV x)
  | .lg2 => fin (log2FV x)
  | .sincos => fin (if sub = 0 then sinFV x else cosFV x)
  | .rnd => rndFV f (if sub = 4 then rm else RMode.ofRM sub) x

/-- Lane i of a row 0x4 result: one FP32 element, or two packed ones (06 R120). -/
def fLane (op : FloatOp) (o : Op) (x : Iss) (i : Nat) : FRes :=
  let f := typeFmt (typeF o)
  let w := f.width
  let elem := fun (v : Word) (neg : Bool) (e : Nat) => flipSign f neg (bits v (w * e) w)
  let one := fun e => floatOp op f x.rm (fsubF o) (elem (x.val o false i) o.na e) (elem (x.valB o i) false e)
    (elem (x.lane o.c.reg i) o.nc e)
  if typeF o = 0 then one 0
  else ⟨(one 0).code + 2 ^ w * (one 1).code, (one 0).flags ||| (one 1).flags⟩

/-- R121 for an instruction that writes elements. -/
def execF (op : FloatOp) (readsB readsC : Bool) (o : Op) (s : State) : Res :=
  issue (lReq o readsB readsC false) (opLen o) s fun x =>
    .next ((s.setVF x o.d.toNat (x.laneRes (fLane op o x)) (x.anyTaint (laneReads o readsB readsC))).advance x (opLen o))

/-- fadd (06 R121, R122). -/
def execFadd (o : Op) (s : State) : Res := execF .add true false o s
/-- fsub (06 R121, R122). -/
def execFsub (o : Op) (s : State) : Res := execF .sub true false o s
/-- fmul (06 R121, R122). -/
def execFmul (o : Op) (s : State) : Res := execF .mul true false o s
/-- fma (06 R121, R122). -/
def execFma (o : Op) (s : State) : Res := execF .fma true true o s
/-- fmin (05 R107, 06 R121). -/
def execFmin (o : Op) (s : State) : Res := execF .min true false o s
/-- fmax (05 R107, 06 R121). -/
def execFmax (o : Op) (s : State) : Res := execF .max true false o s
/-- fdiv (06 R121, R122). -/
def execFdiv (o : Op) (s : State) : Res := execF .div true false o s
/-- frcp (06 R124). -/
def execFrcp (o : Op) (s : State) : Res := execF .rcp false false o s
/-- frsq (06 R124). -/
def execFrsq (o : Op) (s : State) : Res := execF .rsq false false o s
/-- fsqrt (06 R124). -/
def execFsqrt (o : Op) (s : State) : Res := execF .sqrt false false o s
/-- fex2 (06 R124). -/
def execFex2 (o : Op) (s : State) : Res := execF .ex2 false false o s
/-- flg2 (06 R124). -/
def execFlg2 (o : Op) (s : State) : Res := execF .lg2 false false o s
/-- fsin (06 R124). -/
def execFsin (o : Op) (s : State) : Res := execF .sincos false false o s
/-- frnd (06 R125). -/
def execFrnd (o : Op) (s : State) : Res := execF .rnd false false o s

/-- fcmp (06 R123). -/
def execFcmp (o : Op) (s : State) : Res :=
  issue (lReq o true false true) (opLen o) s fun x =>
    let l := x.laneRes fun i =>
      let r := fcmpFV (fsubF o) (decodeFloat .f32 (flipSign .f32 o.na (x.val o false i).toNat)) (fv32 (x.valB o i))
      ⟨if r.1 then 1 else 0, r.2⟩
    .next (((s.setMLanes x o.d (LaneSet.ofTest fun i => (l.getD i ⟨0, fNone⟩).code == 1)).orFlags x
      (flagsOf x.active l)).advance x (opLen o))

/-- The registers of a triple (06 R126). -/
def triple (a : Src) : List Opnd := regRange a.reg 3 .any a.fe
/-- A triple within one file. -/
def tripleOk (a : Src) : Bool := if isS a.reg then decide (a.reg.toNat + 2 < 512) else decide (a.reg.toNat + 2 < 384)
/-- Lane i of a triple. -/
def Iss.tripleLane (x : Iss) (a : Src) (neg : Bool) (i : Nat) : List FV :=
  (triple a).map fun o => decodeFloat .f32 (flipSign .f32 neg (x.lane o.reg i).toNat)

/-- fdp3 (06 R126). -/
def execFdp3 (o : Op) (s : State) : Res :=
  issue { g := o.g, phase := .C, who := .group, reads := triple o.a ++ triple o.b, writes := [atV o.d],
          extra := tripleOk o.a && tripleOk o.b } 8 s fun x =>
    let l := x.laneRes fun i =>
      (sumFV ((x.tripleLane o.a o.na i).zipWith FV.mul (x.tripleLane o.b false i)) (x.rm == .rd)).round .f32
        (RCtl.plain x.rm)
    .next ((s.setVF x o.d.toNat l (x.anyTaint (triple o.a ++ triple o.b))).advance x 8)

end Sys2Proof.Machine
end

