-- ==== Sys2Proof/Machine/Convert.lean ====
section
/-! DEFINITION. Conversions between element encodings, and row 0x5 (05 R100 to R115, 02 R388). -/
namespace Sys2Proof.Machine

/-! Elements. -/

/-- The exact value of an element's code (05 R97, R98, Table 5.1); an integer zero is +0. -/
def Elem.decode (e : Elem) (code : Nat) : FV :=
  match e with
  | .float f => decodeFloat f (code % 2 ^ f.width)
  | .int signed n => let v := extInt n (!signed) code; FV.mk (decide (v < 0)) v.natAbs 0

/-- An exact value that is an integer, as an integer. -/
def FV.int? (x : FV) : Option Int :=
  match x with
  | .zero _ => some 0
  | .fin neg m e =>
    let v : Option Nat := if 0 ≤ e then some (m * 2 ^ e.toNat)
      else if e < -4096 then none
      else if m % 2 ^ (-e).toNat = 0 then some (m / 2 ^ (-e).toNat) else none
    v.map fun n => if neg then -(n : Int) else n
  | _ => none

/-- Convert: Round (R102 to R104) to a float, R105 to an integer. narrow holds when the source is a wider integer: an
integer value is then clamped with SAT, keeps its low bits without, and sets no flag. A value with a fraction, which only
SCL of a record can give (07 R153), is rounded and clamped with NV instead (log 15: DEDUCED). -/
def Elem.encode (e : Elem) (narrow : Bool) (c : RCtl) (x : FV) : FRes :=
  match e with
  | .float f => roundFV f c x
  | .int signed n =>
    match narrow, x.int? with
    | true, some v => ⟨truncInt n (if c.sat then clampInt v (minOf n !signed) (maxOf n !signed) else v), fNone⟩
    | _, _ => roundInt n (!signed) c x

/-- A conversion goes from an integer to a narrower integer (05 R105); to one of equal or greater width, a value out of
range gives the nearest bound and NV, as any conversion to an integer does (log 15). -/
def narrows (src dst : Elem) : Bool := !src.isFloat && !dst.isFloat && decide (dst.bits < src.bits)

/-- An element's code as a lane: integers extended by signedness, floats zero-extended (05 R110). -/
def Elem.extend (e : Elem) (code : Nat) : Nat :=
  match e with
  | .int true n => truncInt 64 (extInt n false code)
  | _ => code

/-- RotR(x, n) of a 32-bit value. -/
def rotR (x : Word) (n : Nat) : Word := x.rotateRight n

/-! The control word (05 R109, R388). -/

/-- SR of an FMT. -/
def fmtSR (f : Word) : Bool := f.getLsbD 13
/-- SRN of an FMT. -/
def fmtSRN (f : Word) : Nat := bits f 14 5
/-- SAT of an FMT. -/
def fmtSAT (f : Word) : Bool := f.getLsbD 12
/-- XS of an FMT. -/
def fmtXS (f : Word) : Int := (f.extractLsb' 24 8).toInt
/-- The rounding control an FMT gives, with random bits. -/
def fmtCtl (f : Word) (rnd : Nat) : RCtl :=
  ⟨if fmtSR f then .sr else RMode.ofRM (bits f 10 2), fmtSAT f, fmtSRN f, rnd⟩

/-- SR is in effect. -/
def cwSr (w fmt : Word) : Bool := if cwF w then fmtSR fmt else cwSR w
/-- Rounding control of a row 0x5 instruction, from word 2 or FMT, with random bits. -/
def cwCtl (w fmt : Word) (rnd : Nat) : RCtl :=
  if cwF w then fmtCtl fmt rnd
  else ⟨if cwSR w then .sr else RMode.ofRM (cwRM w), cwSAT w, cwSRN w, rnd⟩

/-- FMT of the current thread. -/
def State.curFmt (s : State) : Word := match s.iss? s.cur with | some x => x.flow.fmt | none => 0

/-- The element that a code names; the decoder has refused the codes that name none. -/
def elemOf (c : BitVec 8) : Elem := (elemOfCode c).getD (.int false 8)

/-- X: the scale of a conversion, 2^XS for an 8-bit float source and 2^-XS for an 8-bit float destination (05 Table 5.7). -/
def xScale (on : Bool) (src dst : Elem) (fmt : Word) (x : FV) : FV :=
  if on then
    let y := if src.isF8 then x.scale (fmtXS fmt) else x
    if dst.isF8 then y.scale (-(fmtXS fmt)) else y
  else x

/-- One conversion of row 0x5. -/
def cwConvert (w fmt : Word) (ctl : RCtl) (code : Nat) : FRes :=
  let src := elemOf (cwSC w)
  let dst := elemOf (cwDC w)
  dst.encode (narrows src dst) ctl (xScale (cwX w) src dst fmt (src.decode code))

/-- The random register of cvt and qpack, when SR is in effect (05 R109). -/
def rndReads (o : Op) (fmt : Word) : List Opnd := if cwSr (word2 o) fmt then [rdAny o.b] else []
/-- R388: a nonzero B while SR is not in effect. -/
def rndBad (o : Op) (fmt : Word) : Bool := !cwSr (word2 o) fmt && !zeroS o.b

/-! cvt (05 R110). -/

/-- SC or DC is u64. -/
def isU64 (c : BitVec 8) : Bool := c == 0x0A#8

/-- The source element of lane i: SEL names it within the lane; a u64 is a register pair, or all of an s register. -/
def Iss.element (x : Iss) (a : Src) (sc : BitVec 8) (sel i : Nat) : Nat :=
  if isU64 sc then
    if isS a.reg then (x.s a.reg).toNat
    else (x.lane a.reg i).toNat + 2 ^ 32 * (x.lane (a.reg + 1) i).toNat
  else let w := codeBits sc; bits (x.lane a.reg i) (w * sel) w

/-- The registers of a cvt: its source, a second one for a u64 pair, the random register, and D when INS reads it. -/
def cvtReads (o : Op) (fmt : Word) : List Opnd :=
  (if isU64 (cwSC (word2 o)) && !isS o.a.reg then regRange o.a.reg 2 .v o.a.fe else [rdAny o.a])
    ++ rndReads o fmt ++ (if o.fn.getLsbD 4 then [atV o.d] else [])
/-- The destination, a pair for u64. -/
def cvtWrites (o : Op) : List Opnd := if isU64 (cwDC (word2 o)) then regRange o.d 2 .v else [atV o.d]
/-- u64 pairs start at even registers. -/
def cvtPairs (o : Op) : Bool :=
  (!isU64 (cwSC (word2 o)) || isS o.a.reg || !o.a.reg.getLsbD 0) && (!isU64 (cwDC (word2 o)) || !o.d.getLsbD 0)

/-- cvt of lane i: its code, already inserted or extended. -/
def Iss.cvtLane (x : Iss) (o : Op) (i : Nat) : FRes :=
  let w := word2 o
  let dst := elemOf (cwDC w)
  let r := cwConvert w x.flow.fmt (cwCtl w x.flow.fmt (x.lane o.b.reg i).toNat)
    (x.element o.a (cwSC w) (bits o.fn 0 2) i)
  if o.fn.getLsbD 4 then
    let n := dst.bits
    let at_ := n * bits o.fn 2 2
    let old := (x.lane o.d i).toNat
    ⟨old % 2 ^ at_ + r.code * 2 ^ at_ + old / 2 ^ (at_ + n) * 2 ^ (at_ + n), r.flags⟩
  else ⟨dst.extend r.code, r.flags⟩

/-- cvt (05 R110). -/
def execCvt (o : Op) (s : State) : Res :=
  issue { g := o.g, phase := .C, who := .group, reads := cvtReads o s.curFmt, writes := cvtWrites o,
          extra := cvtPairs o } 12 s fun x =>
    if rndBad o x.flow.fmt then trapR x s 0x02
    else
      let l := x.laneRes (x.cvtLane o)
      let t := x.anyTaint (cvtReads o x.flow.fmt)
      let s1 := s.setVF x o.d.toNat l t
      let s2 := if isU64 (cwDC (word2 o)) then
          s1.setV x (o.d.toNat + 1) (fun i => BitVec.ofNat 32 ((l.getD i ⟨0, fNone⟩).code / 2 ^ 32)) t
        else s1
      .next (s2.advance x 12)

/-! qpack, qunpk (05 R111, R112). -/

/-- The elements of a lane: 4 of 8 bits, or 2 of 16. -/
def packCount (c : BitVec 8) : Nat := 32 / codeBits c
/-- Consecutive registers that stay within the vector file. -/
def vecRangeOk (d : BitVec 9) (n : Nat) : Bool := decide (d.toNat + n ≤ 384)

/-- qpack of lane i. -/
def Iss.qpackLane (x : Iss) (o : Op) (i : Nat) : FRes :=
  let w := word2 o
  let n := packCount (cwDC w)
  (List.range n).foldl (fun acc j =>
    let r := cwConvert w x.flow.fmt (cwCtl w x.flow.fmt (rotR (x.lane o.b.reg i) (32 / n * j)).toNat)
      (x.lane (o.a.reg + BitVec.ofNat 9 j) i).toNat
    ⟨acc.code + r.code * 2 ^ (32 / n * j), acc.flags ||| r.flags⟩) ⟨0, fNone⟩

/-- qpack (05 R111). -/
def execQpack (o : Op) (s : State) : Res :=
  let n := packCount (cwDC (word2 o))
  let src := regRange o.a.reg n .v o.a.fe
  issue { g := o.g, phase := .C, who := .group, reads := src ++ rndReads o s.curFmt, writes := [atV o.d],
          extra := vecRangeOk o.a.reg n } 12 s fun x =>
    if rndBad o x.flow.fmt then trapR x s 0x02
    else .next ((s.setVF x o.d.toNat (x.laneRes (x.qpackLane o))
      (x.anyTaint (src ++ rndReads o x.flow.fmt))).advance x 12)

/-- Element j of qunpk of lane i: it never rounds stochastically. -/
def Iss.qunpkLane (x : Iss) (o : Op) (j i : Nat) : FRes :=
  let w := word2 o
  let b := codeBits (cwSC w)
  let ctl : RCtl := if cwF w then ⟨x.rm, fmtSAT x.flow.fmt, 0, 0⟩ else ⟨RMode.ofRM (cwRM w), cwSAT w, 0, 0⟩
  cwConvert w x.flow.fmt ctl (bits (x.lane o.a.reg i) (b * j) b)

/-- qunpk (05 R112). -/
def execQunpk (o : Op) (s : State) : Res :=
  let n := packCount (cwSC (word2 o))
  issue { g := o.g, phase := .C, who := .group, reads := [rdV o.a], writes := regRange o.d n .v,
          extra := vecRangeOk o.d n } 12 s fun x =>
    .next (((List.range n).foldl (fun s j =>
      s.setVF x (o.d.toNat + j) (x.laneRes (x.qunpkLane o j)) (x.taint o.a.reg)) s).advance x 12)

/-! fscl, fcls, ffrx (05 R113 to R115). -/

/-- fscl (05 R113). -/
def execFscl (o : Op) (s : State) : Res :=
  issue { g := o.g, phase := .C, who := .group, reads := [rdAny o.a, rdAny o.b], writes := [atV o.d] } 8 s fun x =>
    let l := x.laneRes fun i =>
      roundFV .f32 (RCtl.plain x.rm) ((fv32 (x.lane o.a.reg i)).scale (x.lane o.b.reg i).toInt)
    .next ((s.setVF x o.d.toNat l (x.anyTaint [rdAny o.a, rdAny o.b])).advance x 8)

/-- The class of a code, as the bit number of R114. -/
def classBit (f : FloatFmt) (code : Nat) : Nat :=
  let normal := decide (2 ^ f.fracBits ≤ (code % 2 ^ (f.expBits + f.fracBits)))
  match decodeFloat f code with
  | .inf neg => if neg then 0 else 7
  | .fin neg _ _ => if neg then (if normal then 1 else 2) else (if normal then 6 else 5)
  | .zero neg => if neg then 3 else 4
  | .nan s => if s then 8 else 9

/-- fcls (05 R114). -/
def execFcls (o : Op) (s : State) : Res :=
  issue { g := o.g, phase := .C, who := .group, reads := [rdAny o.a], writes := [atV o.d] } 8 s fun x =>
    let f := match elemOf o.fn with | .float f => f | .int _ _ => .f32
    .next ((s.setV x o.d.toNat (fun i => BitVec.ofNat 32 (2 ^ classBit f (bits (x.lane o.a.reg i) 0 f.width)))
      (x.taint o.a.reg)).advance x 8)

/-- Fraction or exponent of an FP32 code (05 R115). -/
def splitFloat (exponent : Bool) (code : Word) : FRes :=
  match fv32 code with
  | .nan s => ⟨if exponent then 0 else 0x7FC00000, if s then fNV else fNone⟩
  | .fin neg m e =>
    let k : Int := (m.log2 : Int) + 1
    if exponent then ⟨truncInt 32 (e + k), fNone⟩ else roundFV .f32 RCtl.rne (.fin neg m (-k))
  | _ => ⟨if exponent then 0 else code.toNat, fNone⟩

/-- ffrx (05 R115). -/
def execFfrx (o : Op) (s : State) : Res :=
  issue { g := o.g, phase := .C, who := .group, reads := [rdAny o.a], writes := [atV o.d] } 8 s fun x =>
    .next ((s.setVF x o.d.toNat (x.laneRes fun i => splitFloat (o.fn.getLsbD 0) (x.lane o.a.reg i))
      (x.taint o.a.reg)).advance x 8)

end Sys2Proof.Machine
end

