-- ==== Sys2Proof/Machine/CrossLane.lean ====
section
/-! DEFINITION. Row 0x6: lane moves, quads, masks, reductions and prefixes (06 R127 to R138). -/
namespace Sys2Proof.Machine

/-- The shared checks of a row 0x6 instruction. -/
def xlReq (g : Guard) (reads writes : List Opnd) (md : Option (BitVec 9) := none) : Req :=
  { g := g, phase := .C, who := .group, reads := reads, writes := writes, md := md, whole := true }

/-! Lane moves (06 R128, R129). -/

/-- shfl (06 R128). -/
def execShfl (o : Op) (s : State) : Res :=
  issue { xlReq o.g (laneReads o false false) [atV o.d] with extra := crossOk o } (opLen o) s fun x =>
    .next ((s.setV x o.d.toNat (fun i => x.val o false i) (x.anyTaint (laneReads o false false))).advance x (opLen o))

/-- The lane amount of lrot and lbc: FN[6:0], or s[B][6:0]. -/
def laneAmount (o : Op) (x : Iss) : Nat := if immBit o then bits o.fn 0 7 else bits (x.s o.b.reg) 0 7
/-- What lrot and lbc read. -/
def amountReads (o : Op) : List Opnd := rdV o.a :: (if immBit o then [] else [rdS o.b])

/-- A row 0x6 instruction that gives each selected lane a value made from register A. -/
def execMove (o : Op) (reads : List Opnd) (f : Iss → Nat → Word) (s : State) : Res :=
  issue (xlReq o.g reads [atV o.d]) 8 s fun x =>
    .next ((s.setV x o.d.toNat (f x) (x.anyTaint reads)).advance x 8)

/-- lrot (06 R128). -/
def execLrot (o : Op) (s : State) : Res :=
  execMove o (amountReads o) (fun x i => x.lane o.a.reg ((i + laneAmount o x) % 128)) s
/-- lbc (06 R128). -/
def execLbc (o : Op) (s : State) : Res := execMove o (amountReads o) (fun x _ => x.lane o.a.reg (laneAmount o x)) s
/-- qswp (06 R129). -/
def execQswp (o : Op) (s : State) : Res :=
  execMove o [rdV o.a] (fun x i => x.lane o.a.reg (i ^^^ bits o.fn 0 2)) s

/-- FP32 a[hi] - a[lo] under RM (06 R130). -/
def Iss.lanesDiff (x : Iss) (a : BitVec 9) (hi lo : Nat) : FRes :=
  (sumFV [fv32 (x.lane a hi), (fv32 (x.lane a lo)).neg] (x.rm == .rd)).round .f32 (RCtl.plain x.rm)

/-- A derivative: step is the lane distance, and coarse takes the quad's first pair for every lane (06 R130). -/
def execDeriv (step : Nat) (o : Op) (s : State) : Res :=
  issue (xlReq o.g [rdV o.a] [atV o.d]) 8 s fun x =>
    let l := x.laneRes fun i =>
      let b := if o.fn.getLsbD 0 then i / 4 * 4 else i / 4 * 4 + (i % 4 &&& (3 - step))
      x.lanesDiff o.a.reg (b + step) b
    .next ((s.setVF x o.d.toNat l (x.taint o.a.reg)).advance x 8)

/-- qddx (06 R130). -/
def execQddx (o : Op) (s : State) : Res := execDeriv 1 o s
/-- qddy (06 R130). -/
def execQddy (o : Op) (s : State) : Res := execDeriv 2 o s

/-! Masks (06 R131 to R134). -/

/-- The mask that an operand field names. -/
def Iss.maskOf (x : Iss) (a : Src) : LaneSet := x.uni.mask (bits a.reg 0 4)

/-- vote on a mask and the participating lanes (06 R132). -/
def voteMask (fn : Nat) (m p : LaneSet) : LaneSet :=
  let b := fun (c : Bool) => if c then LaneSet.all else 0
  match fn with
  | 0 => b (p &&& ~~~m == 0)
  | 1 => b (p &&& m != 0)
  | 2 => b (p &&& ~~~m == 0 || p &&& m == 0)
  | _ => m &&& p

/-- vote (06 R132): all 128 bits are written. -/
def execVote (o : Op) (s : State) : Res :=
  issue (xlReq o.g [] [] (some o.d)) 8 s fun x =>
    .next ((s.setM x o.d (voteMask o.fn.toNat (x.maskOf o.a) x.active)).advance x 8)

/-- The functions of mlog (06 Table 6.6). -/
def mlogMask (fn : Nat) (a b : LaneSet) : LaneSet :=
  match fn with
  | 0 => a &&& b
  | 1 => a ||| b
  | 2 => a ^^^ b
  | 3 => a &&& ~~~b
  | 4 => ~~~a
  | _ => a

/-- mlog (06 R133). -/
def execMlog (o : Op) (s : State) : Res :=
  issue (xlReq o.g [] [] (some o.d)) 8 s fun x =>
    .next ((s.setMLanes x o.d (mlogMask o.fn.toNat (x.maskOf o.a) (x.maskOf o.b))).advance x 8)

/-- mcnt (06 R134). -/
def execMcnt (o : Op) (s : State) : Res :=
  issue (xlReq o.g [] [atS o.d]) 8 s fun x =>
    .next ((s.setS x o.d (BitVec.ofNat 64 (x.maskOf o.a &&& x.active).count)).advance x 8)

/-- mfst (06 R134): helper lanes included. -/
def execMfst (o : Op) (s : State) : Res :=
  issue (xlReq o.g [] [atS o.d]) 8 s fun x =>
    let l := (x.maskOf o.a &&& x.sel).toList
    let r := if o.fn.getLsbD 0 then l.getLast? else l.head?
    .next ((s.setS x o.d (BitVec.ofNat 64 (r.getD 128))).advance x 8)

/-- mget (06 R133). -/
def execMget (o : Op) (s : State) : Res :=
  execMove o [] (fun x i =>
    if (x.maskOf o.a).getLsbD i then (if o.fn.getLsbD 0 then 0xFFFFFFFF else 1) else 0) s

/-- mset (06 R133). -/
def execMset (o : Op) (s : State) : Res :=
  issue (xlReq o.g [rdAny o.a] [] (some o.d)) 8 s fun x =>
    .next ((s.setMLanes x o.d (LaneSet.ofTest fun i => x.lane o.a.reg i != 0)).advance x 8)

/-! Reductions and prefixes (06 R135, R136). -/

/-- Identity of a reduction operation (06 Table 6.7). -/
def redIdentity (op : Nat) : Nat :=
  match op with
  | 0 => 0x80000000
  | 1 => 0x7FC00000
  | 2 => 0x7FC00000
  | 3 => 0
  | 4 => 0x7FFFFFFF
  | 5 => 0x80000000
  | 6 => 0xFFFFFFFF
  | _ => 0

/-- The node operation on 32-bit codes: fadd rounds by RNE. iadd works on 64 bits, of which scan keeps 32. -/
def redNode (op a b : Nat) : FRes :=
  match op with
  | 0 => (sumFV [decodeFloat .f32 a, decodeFloat .f32 b] false).round .f32 RCtl.rne
  | 1 => minMax .f32 false a b
  | 2 => minMax .f32 true a b
  | 3 => ⟨(a + b) % 2 ^ 64, fNone⟩
  | 4 => ⟨truncInt 32 (min (extInt 32 false a) (extInt 32 false b)), fNone⟩
  | 5 => ⟨truncInt 32 (max (extInt 32 false a) (extInt 32 false b)), fNone⟩
  | 6 => ⟨min a b, fNone⟩
  | _ => ⟨max a b, fNone⟩

/-- One level of the pairwise tree (05 R108). -/
def pairLevel (node : Nat → Nat → FRes) : List FRes → List FRes
  | a :: b :: r =>
    let n := node a.code b.code
    ⟨n.code, n.flags ||| a.flags ||| b.flags⟩ :: pairLevel node r
  | r => r

/-- PairSum with a node operation, of 2^n values (05 R108). -/
def pairTree (node : Nat → Nat → FRes) : Nat → List FRes → FRes
  | 0, l => l.headD ⟨0, fNone⟩
  | n + 1, l => pairTree node n (pairLevel node l)

/-- The contribution of a lane: its value in P, and the identity elsewhere. iadd sums signed values, as 64 bits. -/
def Iss.contribution (x : Iss) (op : Nat) (a : BitVec 9) (i : Nat) : Nat :=
  if x.active.getLsbD i then
    (if op = 3 then truncInt 64 (extInt 32 false (x.lane a i).toNat) else (x.lane a i).toNat)
  else redIdentity op

/-- The value of s[D] that red makes of its 32-bit result (06 Table 6.7). -/
def redResult (op code : Nat) : DWord :=
  if op = 4 ∨ op = 5 then BitVec.ofInt 64 (extInt 32 false code) else BitVec.ofNat 64 code

/-- red (06 R135). -/
def execRed (o : Op) (s : State) : Res :=
  let op := bits o.fn 0 3
  issue (xlReq o.g [rdV o.a] [atS o.d]) 8 s fun x =>
    let r := pairTree (redNode op) 7 ((List.range 128).map fun i => ⟨x.contribution op o.a.reg i, fNone⟩)
    .next (((s.setS x o.d (redResult op r.code) (x.taint o.a.reg)).orFlags x r.flags).advance x 8)

/-- The running values of scan, one for each lane, and the flags of every step (06 R136). -/
def scanFrom (op : Nat) (excl : Bool) : List Nat → Nat → FFlags → List FRes
  | [], _, _ => []
  | v :: r, acc, fl =>
    let n := redNode op acc v
    let f := fl ||| n.flags
    ⟨if excl then acc else n.code, f⟩ :: scanFrom op excl r n.code f

/-- scan (06 R136). -/
def execScan (o : Op) (s : State) : Res :=
  let op := bits o.fn 0 3
  issue (xlReq o.g [rdV o.a] [atV o.d]) 8 s fun x =>
    let l := scanFrom op (o.fn.getLsbD 3) ((List.range 128).map (x.contribution op o.a.reg)) (redIdentity op) fNone
    let fl := match l.getLast? with | some r => r.flags | none => fNone
    .next (((s.setV x o.d.toNat (fun i => BitVec.ofNat 32 (l.getD i ⟨0, fNone⟩).code) (x.taint o.a.reg)).orFlags x
      fl).advance x 8)

/-! Lane identity and packing (06 R137, R138). -/

/-- The number of lanes of a set below i. -/
def rankIn (m : LaneSet) (i : Nat) : Nat := (m &&& LaneSet.below i).count

/-- lid (06 R137). -/
def execLid (o : Op) (s : State) : Res :=
  execMove o [] (fun x i => BitVec.ofNat 32 (match bits o.fn 0 2 with
    | 0 => i
    | 1 => i / 4
    | 2 => i % 4
    | _ => rankIn x.sel i)) s

/-- lpak (06 R138). -/
def execLpak (o : Op) (s : State) : Res :=
  execMove o [rdV o.a] (fun x i =>
    match ((x.maskOf o.b &&& x.sel).toList)[i]? with
    | some j => x.lane o.a.reg j
    | none => if o.fn.getLsbD 0 then x.lane o.a.reg i else 0) s

end Sys2Proof.Machine
end

