-- ==== Sys2Proof/Machine/Slice.lean ====
section
/-! DEFINITION. Row 0x7: loads, stores, buffer records, ordering and atomics (07 R139 to R166). A meaning performs its
access when its instruction issues, in ascending lane order; an access that is performed later, and what lda, stl, fence
and the orders of atomics then demand, is Order.lean's (log 5). A load's data land later (03 R52). -/
namespace Sys2Proof.Machine

/-! Loads and stores (07 R144 to R146, R159). -/

/-- The bytes of an ld width code (07 Table 7.2). -/
def ldBytes (t : Nat) : Nat := match t with | 0 => 1 | 1 => 1 | 2 => 2 | 3 => 2 | 4 => 4 | 5 => 8 | _ => 16
/-- The registers of an access of some bytes. -/
def accRegs (n : Nat) : Nat := if n ≤ 4 then 1 else n / 4
/-- D is a multiple of n (07 R141). -/
def alignedD (d : BitVec 9) (n : Nat) : Bool := d.toNat % n == 0

/-- The loaded value of n bytes as register words: sign-extended below a word when signed. -/
def loadWord (n : Nat) (signed : Bool) (v j : Nat) : Word :=
  if n < 4 ∧ signed = true then BitVec.ofInt 32 (extInt (8 * n) false v) else BitVec.ofNat 32 (v / 2 ^ (32 * j))

/-- The vector registers that a load fills: lane i's bytes are read at the slice offset of its address. -/
def State.loadRegs (s : State) (k : Nat) (addr : Nat → Nat) (lanes : LaneSet) (n : Nat) (signed : Bool) (d : Nat) :
    List (Nat × List Word) :=
  let vals := (List.range 128).map fun i => if lanes.getLsbD i then s.sliceLE k (aliasOff (addr i)) n else 0
  (List.range (accRegs n)).map fun j => (d + j, vals.map fun v => loadWord n signed v j)

/-- The shared checks of an M64 instruction of row 0x7 that reads and writes registers from D on. -/
def mReq (o : M64) (k : RegKind) (rd wr mult : Nat) : Req :=
  { g := o.g, phase := .C, who := .group, reads := regRange o.d rd .v ++ addrReads o k, writes := regRange o.d wr .v,
    extra := alignedD o.d mult }

/-- The lane addresses of an instruction: row w of an ldw or stw (07 R146), else R141. -/
def laneAddr (x : Iss) (o : M64) (row : Bool) (w i : Nat) : Nat :=
  if row then (x.addr o 0 + w * i) % 2 ^ 48 else x.addr o i

/-- R144 for n bytes a lane. -/
def execLoad (row : Bool) (n : Nat) (signed taint : Bool) (o : M64) (s : State) : Res :=
  issue (mReq o (if row then .s else .any) 0 (accRegs n) (accRegs n)) 8 s fun x =>
    let addr := laneAddr x o row n
    match s.accessCheck x x.sel.toList addr n n false with
    | some f => faultR x s f
    | none => .next ((s.pendResult x .load x.sel (s.loadRegs x.core addr x.sel n signed o.d.toNat) [] taint
        none).advance x 8)

/-- The stores of a list of lanes, in order. -/
def State.storeLanes (s : State) (k : Nat) (addr : Nat → Nat) (bytes : Nat → List Byte) (lanes : List Nat) : State :=
  lanes.foldl (fun s i => s.sliceWrite k (aliasOff (addr i)) (bytes i)) s

/-- Lane i of n bytes held in registers from d on. -/
def Iss.laneBytes (x : Iss) (d : BitVec 9) (n i : Nat) : Nat :=
  (List.range (accRegs n)).foldl (fun v j => v + (x.lane (d + BitVec.ofNat 9 j) i).toNat * 2 ^ (32 * j)) 0

/-- R145 for n bytes a lane. -/
def execStore (row : Bool) (n : Nat) (o : M64) (s : State) : Res :=
  issue (mReq o (if row then .s else .any) (accRegs n) 0 (accRegs n)) 8 s fun x =>
    let addr := laneAddr x o row n
    match s.accessCheck x x.active.toList addr n n true with
    | some f => faultR x s f
    | none => .next ((s.storeLanes x.core addr (fun i => toLE n (x.laneBytes o.d n i)) x.active.toList).advance x 8)

/-- ld (07 R144). -/
def execLd (o : M64) (s : State) : Res :=
  let t := bits o.fn 0 3
  execLoad false (ldBytes t) (t == 0 || t == 2) false o s
/-- st (07 R145). -/
def execSt (o : M64) (s : State) : Res := execStore false (2 ^ bits o.fn 0 3) o s
/-- ldw (07 R146). -/
def execLdw (o : M64) (s : State) : Res := execLoad true (2 ^ bits o.fn 0 2) (o.fn.getLsbD 2) false o s
/-- stw (07 R146). -/
def execStw (o : M64) (s : State) : Res := execStore true (2 ^ bits o.fn 0 2) o s
/-- ldc (07 R144): taints its destination. -/
def execLdc (o : M64) (s : State) : Res :=
  let t := bits o.fn 0 3
  execLoad false (ldBytes t) (t == 0 || t == 2) true o s
/-- lda (07 R159). -/
def execLda (o : M64) (s : State) : Res := execLoad false (ldBytes (bits o.fn 0 3)) false false o s
/-- stl (07 R159). -/
def execStl (o : M64) (s : State) : Res := execStore false (2 ^ bits o.fn 0 3) o s

/-- fence (07 R160): it moves nothing itself; what it orders is Machine/Order.lean's. -/
def execFence (o : Op) (s : State) : Res :=
  issue { g := o.g, phase := .C, who := .group, reads := [], writes := [] } 8 s fun x => .next (s.advance x 8)

/-- Clears the taint bit of a register of the issuer. -/
def State.clearTaint (s : State) (x : Iss) (r : BitVec 9) : State :=
  if isS r then s.modUni x fun u => { u with sTaint := u.sTaint &&& ~~~(1#128 <<< sNum r) }
  else s.modIssGroup x fun g => { g with vTaint := g.vTaint &&& ~~~(1#384 <<< r.toNat) }

/-- tclr (07 R162). -/
def execTclr (o : Op) (s : State) : Res :=
  issue { g := o.g, phase := .C, who := .group, reads := [], writes := [⟨o.d, .any, false⟩] } 8 s fun x =>
    .next ((s.clearTaint x o.d).advance x 8)

/-! Buffer records (07 R147 to R153). -/

/-- A buffer record's bits (07 Table 7.3). -/
abbrev RecBits := BitVec 320

/-- Record n of a record store. -/
def recordBits (m : Memory) (n : Nat) : RecBits := BitVec.ofNat 320 (m.readLE (40 * n) 40)

/-- DIM j. -/
def recDim (r : RecBits) (j : Nat) : Nat := bits r (48 + 20 * j) 20
/-- STR j, signed. -/
def recStr (r : RecBits) (j : Nat) : Int := (r.extractLsb' (96 + 32 * j) 32).toInt
/-- BASE. -/
def recBase (r : RecBits) : Nat := bits r 0 48
/-- ENC. -/
def recEnc (r : RecBits) : BitVec 8 := r.extractLsb' 224 8
/-- VIEW. -/
def recView (r : RecBits) : BitVec 8 := r.extractLsb' 232 8
/-- ILV. -/
def recIlv (r : RecBits) : Nat := bits r 240 4
/-- CMP. -/
def recCmp (r : RecBits) : Nat := bits r 244 4
/-- SCL. -/
def recScl (r : RecBits) : Int := (r.extractLsb' 248 8).toInt
/-- ZPT. -/
def recZpt (r : RecBits) : Int := (r.extractLsb' 256 8).toInt
/-- FILL, replicated to 32 bits. -/
def recFill (r : RecBits) : Word := r.extractLsb' 264 16 ++ r.extractLsb' 264 16
/-- RND. -/
def recRnd (r : RecBits) : Nat := bits r 280 3
/-- SAT. -/
def recSat (r : RecBits) : Bool := r.getLsbD 283
/-- PERMIT. -/
def recPermit (r : RecBits) : Bool := r.getLsbD 284
/-- WRITABLE. -/
def recWritable (r : RecBits) : Bool := r.getLsbD 285

/-- The code is one that ENC and VIEW may hold: valid and not u64. -/
def recCode (c : BitVec 8) : Bool := codeValid c && c != 0x0A#8

/-- R148: none of the conditions of the record-table trap holds for a record that ldb or cpyx reads. -/
def recOk (r : RecBits) : Bool :=
  r.getLsbD 286 && bits r 287 33 == 0
    && (List.range 4).all (fun j => recDim r j != 0)
    && recCode (recEnc r) && recCode (recView r)
    && decide (recIlv r ≤ 5) && decide (recCmp r ≤ 2) && decide (recRnd r ≤ 4)
    && (recCmp r == 0 || recIlv r == 0)
    && (recCmp r != 1 || (recEnc r == 0x02#8 && recZpt r == 0))
    && (recCmp r != 2 || (recBase r % 4 == 0 && [1, 2, 3].all fun j => recStr r j % 4 == 0))
    && (recIlv r != 5 || (decide (recDim r 0 ≤ 1024) && decide (recDim r 1 ≤ 1024)))

/-- R148 for a record that stb or cpyx writes. -/
def recStoreOk (r : RecBits) : Bool := recOk r && recWritable r && recCmp r == 0

/-- The product of DIM j from a dimension on. -/
def recSpan (r : RecBits) (j : Nat) : Nat :=
  (List.range (4 - j)).foldl (fun p i => p * recDim r (j + i)) 1

/-- R149: the four coordinates of NC coordinate values, or none when they are out of range. -/
def recCoords (r : RecBits) (cs : List Nat) : Option (List Nat) :=
  let n := cs.length - 1
  let l := cs.getD n 0
  let d := recDim r
  if (List.range n).all (fun j => decide (cs.getD j 0 < d j)) && decide (l < recSpan r n) then
    some (match n with
      | 0 => [l % d 0, l / d 0 % d 1, l / d 0 / d 1 % d 2, l / d 0 / d 1 / d 2]
      | 1 => [cs.getD 0 0, l % d 1, l / d 1 % d 2, l / d 1 / d 2]
      | 2 => [cs.getD 0 0, cs.getD 1 0, l % d 2, l / d 2]
      | _ => [cs.getD 0 0, cs.getD 1 0, cs.getD 2 0, l])
  else none

/-- Spread: bit b moves to bit 2b. -/
def spread (v : Nat) : Nat := (List.range 20).foldl (fun r b => if v.testBit b then r + 2 ^ (2 * b) else r) 0

/-- Plane (07 Table 7.4). -/
def recPlane (r : RecBits) (w c0 c1 : Nat) : Int :=
  match recIlv r with
  | 0 => c0 * w + c1 * recStr r 1
  | 4 => (c1 / 8 * 8 : Nat) * recStr r 1 + ((c0 / 8 * 64 * w + (8 * (c1 % 8) + c0 % 8) * w : Nat) : Int)
  | 5 => ((spread c0 + 2 * spread c1) * w : Nat)
  | l => let n := 2 ^ l
         (c1 / n * n : Nat) * recStr r 1 + (((n * c0 + c1 % n) * w : Nat) : Int)

/-- Bytes of the element, or of the block that holds it (07 R151). -/
def recSize (r : RecBits) : Nat :=
  let w := codeBits (recEnc r) / 8
  match recCmp r with | 0 => w | 1 => 33 | _ => 4 + 32 * w

/-- R149, R151: the address of the element, or of its block; alloc is the workgroup's allocation base. -/
def recAddr (r : RecBits) (alloc : Nat) (c : List Nat) : Nat :=
  let w := codeBits (recEnc r) / 8
  let base : Int := (recBase r + (if recBase r < 0x04000000 then alloc else 0) : Nat)
  let outer := (c.getD 2 0 : Int) * recStr r 2 + (c.getD 3 0 : Int) * recStr r 3
  let a : Int := if recCmp r = 0 then base + recPlane r w (c.getD 0 0) (c.getD 1 0) + outer
    else base + (c.getD 1 0 : Int) * recStr r 1 + outer + ((c.getD 0 0 / 32 * recSize r : Nat) : Int)
  (a % 2 ^ 48).toNat

/-- A number with an integer added (07 R153). A sum that is exactly zero is +0 under every rounding, and adding 0 changes
nothing, the sign of a zero included (log 100: DESIGN CHOICE). -/
def FV.addInt (x : FV) (n : Int) : FV :=
  match x with
  | .zero _ => if n = 0 then x else FV.mk (decide (n < 0)) n.natAbs 0
  | .fin _ _ e =>
    let e0 := min e 0
    let t := x.signedAt e0 + n * 2 ^ (-e0).toNat
    if n = 0 then x else FV.mk (decide (t < 0)) t.natAbs e0
  | _ => x

/-- The bits pass through unchanged (07 R153). -/
def recPass (r : RecBits) : Bool := recCmp r != 1 && recEnc r == recView r && recScl r == 0 && recZpt r == 0

/-- The ENC code of element j of a fetched element or block (07 R151); a BE32 element is given by its value. -/
def recElement (r : RecBits) (bs : List Byte) (j : Nat) : Nat :=
  match recCmp r with
  | 0 => ofLE bs
  | 1 => (bs.getD (1 + j) 0).toNat
  | _ =>
    let w := codeBits (recEnc r) / 8
    let m := ofLE (bs.take 4)
    if m.testBit j then ofLE ((bs.drop (4 + w * popBits j (m % 2 ^ j))).take w) else 0

/-- ldb's conversion of element j (07 R153), as a lane and its flags. -/
def recLoad (r : RecBits) (bs : List Byte) (j : Nat) : FRes :=
  let enc := elemOf (recEnc r)
  let view := elemOf (recView r)
  let q := recElement r bs j
  if recPass r then ⟨view.extend q % 2 ^ 32, fNone⟩
  else
    let x := if recCmp r = 1 then (Elem.decode (.int true 8) q).scale ((bs.getD 0 0).toNat - 127)
      else ((enc.decode q).addInt (-recZpt r)).scale (recScl r)
    let x := if recCmp r = 1 then x.scale (recScl r) else x
    let y := view.encode (recCmp r != 1 && narrows enc view) ⟨.rne, recSat r, 0, 0⟩ x
    ⟨view.extend y.code % 2 ^ 32, y.flags⟩

/-- stb goes from an integer VIEW to an integer ENC by R105's clamping or low bits, whatever their widths, when SCL = 0 (07
R154); with a scale it does so to a narrower ENC (log 15: DEDUCED). -/
def recKeeps (r : RecBits) : Bool :=
  let view := elemOf (recView r)
  let enc := elemOf (recEnc r)
  narrows view enc || (!view.isFloat && !enc.isFloat && recScl r == 0)

/-- stb's conversion of a lane (07 R153), as an ENC code and its flags. -/
def recStore (r : RecBits) (lane : Word) (rnd : Word) : FRes :=
  let enc := elemOf (recEnc r)
  let view := elemOf (recView r)
  let q := bits lane 0 view.bits
  if recPass r then ⟨q, fNone⟩
  else
    let x := ((view.decode q).scale (-recScl r)).addInt (recZpt r)
    enc.encode (recKeeps r)
      ⟨if recRnd r = 4 then .sr else RMode.ofRM (recRnd r), recSat r, 16, rnd.toNat⟩ x

/-! ldb and stb (07 R154). -/

/-- NC. -/
def recNc (o : Op) : Nat := bits (word2 o) 8 2 + 1
/-- REC. -/
def recNum (o : Op) : Nat := bits (word2 o) 0 8
/-- The coordinate registers. -/
def coordReads (o : Op) : List Opnd := regRange o.a.reg (recNc o) .v o.a.fe
/-- The coordinates of a lane. -/
def Iss.coords (x : Iss) (o : Op) (i : Nat) : List Nat := (coordReads o).map fun r => (x.lane r.reg i).toNat

/-- The workgroup of a group on a core. -/
def State.workgroup? (s : State) (k slot : Nat) : Option Workgroup :=
  match s.core? k with
  | none => none
  | some c => (c.group? slot).bind fun g => c.wgs.get? g.wg
/-- The record that an instruction of the current thread names. -/
def State.recordOf (s : State) (x : Iss) (n : Nat) : RecBits :=
  match s.workgroup? x.core x.slot with | some w => recordBits w.records n | none => 0
/-- The allocation base of the issuing group's workgroup. -/
def State.allocBase (s : State) (x : Iss) : Nat :=
  match s.workgroup? x.core x.slot with | some w => w.base | none => 0

/-- The checks of R142 for ldb and stb on the checked lanes: the coordinates of R150 and the addresses. -/
def State.recordCheck (s : State) (x : Iss) (o : Op) (r : RecBits) (lanes : List Nat) (write : Bool) :
    Option AccessFault :=
  let co := fun i => recCoords r (x.coords o i)
  let base := s.allocBase x
  let out := lanes.filter fun i => (co i).isNone
  if !recPermit r && !out.isEmpty then
    some ⟨0x0A, LaneSet.ofTest fun j => out.contains j, 0⟩
  else s.accessCheck x (lanes.filter fun i => (co i).isSome) (fun i => recAddr r base ((co i).getD [])) (recSize r)
    (if recCmp r = 0 then recSize r else 1) write

/-- What ldb loads into each lane, with the flags (07 R150 to R153). -/
def State.recordLanes (s : State) (x : Iss) (o : Op) : List FRes :=
  let r := s.recordOf x (recNum o)
  x.laneRes fun i =>
    match recCoords r (x.coords o i) with
    | none => ⟨(recFill r).toNat, fNone⟩
    | some c => recLoad r (s.sliceRead x.core (aliasOff (recAddr r (s.allocBase x) c)) (recSize r)) (c.getD 0 0 % 32)

/-- ldb (07 R150 to R154). -/
def execLdb (o : Op) (s : State) : Res :=
  issue { g := o.g, phase := .C, who := .group, reads := coordReads o, writes := [atV o.d],
          extra := vecRangeOk o.a.reg (recNc o) } 12 s fun x =>
    let r := s.recordOf x (recNum o)
    if !recOk r then trapR x s 0x09
    else match s.recordCheck x o r x.sel.toList false with
      | some f => faultR x s f
      | none =>
        let l := s.recordLanes x o
        .next (((s.pendResult x .load x.sel [(o.d.toNat, l.map fun y => BitVec.ofNat 32 y.code)] [] false none).orFlags x
          (flagsOf x.active l)).advance x 12)

/-- RND of the record that an stb of the current thread names is SR (02 R388). -/
def State.stbSr (s : State) (o : Op) : Bool :=
  match s.iss? s.cur with | some x => recRnd (s.recordOf x (recNum o)) == 4 | none => false

/-- stb (07 R150 to R154, 02 R388). A record that fails R148 traps before a nonzero C does, and a nonzero C traps also where
every selected lane is a helper lane (log 90: DEDUCED). -/
def execStb (o : Op) (s : State) : Res :=
  issue { g := o.g, phase := .C, who := .group,
          reads := atV o.d :: coordReads o ++ (if s.stbSr o then [rdV o.c] else []), writes := [],
          extra := vecRangeOk o.a.reg (recNc o) } 12 s fun x =>
    let r := s.recordOf x (recNum o)
    let lanes := x.active.toList
    let bad := recRnd r != 4 && !zeroS o.c
    if lanes.isEmpty then if bad then trapR x s 0x02 else .next (s.advance x 12)
    else if !recStoreOk r then trapR x s 0x09 x.active
    else if bad then trapR x s 0x02 x.active
    else match s.recordCheck x o r lanes true with
      | some f => faultR x s f
      | none =>
        let base := s.allocBase x
        let l := x.laneRes fun i =>
          if (recCoords r (x.coords o i)).isSome && x.active.getLsbD i then
            recStore r (x.lane o.d i) (if recRnd r = 4 then x.lane o.c.reg i else 0)
          else ⟨0, fNone⟩
        let st := lanes.filter fun i => (recCoords r (x.coords o i)).isSome
        .next (((s.storeLanes x.core (fun i => recAddr r base ((recCoords r (x.coords o i)).getD []))
          (fun i => toLE (recSize r) (l.getD i ⟨0, fNone⟩).code) st).orFlags x (flagsOf x.active l)).advance x 12)

/-! Atomics (07 R163 to R166). -/

/-- The result of atomics on a list of lanes: memory after, old values, flags. -/
structure AtomRun where
  s : State
  old : List (Nat × Nat)
  flags : FFlags

/-- What an atomic makes of a lane's word: the new value, if one is stored, and the flags. -/
abbrev AtomFn := Nat → Nat → Option Nat × FFlags

/-- R163: each lane in turn reads its word, and f gives the new one, if one is stored, and the flags. -/
def State.atomLanes (s : State) (k n : Nat) (addr : Nat → Nat) (f : AtomFn)
    (lanes : List Nat) : AtomRun :=
  lanes.foldl (fun r i =>
    let off := aliasOff (addr i)
    let w := r.s.sliceLE k off n
    let y := f i w
    ⟨match y.1 with | some v => r.s.sliceWrite k off (toLE n v) | none => r.s, r.old ++ [(i, w)], r.flags ||| y.2⟩)
    ⟨s, [], fNone⟩

/-- The registers from d on that receive the old values of n bytes. -/
def AtomRun.regs (r : AtomRun) (n d : Nat) : List (Nat × List Word) :=
  let old := fun i => ((r.old.find? fun p => p.1 == i).map Prod.snd).getD 0
  (List.range (n / 4)).map fun j => (d + j, (List.range 128).map fun i => BitVec.ofNat 32 (old i / 2 ^ (32 * j)))

/-- An atomic on n bytes whose operands take ops registers from D on (07 R163). -/
def execAtomic (n ops : Nat) (f : Iss → AtomFn) (o : M64) (s : State) : Res :=
  issue (mReq o .any ops (n / 4) ops) 8 s fun x =>
    let lanes := x.active.toList
    match s.accessCheck x lanes (x.addr o) n n true with
    | some e => faultR x s e
    | none =>
      if lanes.isEmpty then .next (s.advance x 8)
      else
        let r := s.atomLanes x.core n (x.addr o) (f x) lanes
        .next (((r.s.pendResult x .atomic x.active (r.regs n o.d.toNat) [] false none).orFlags x r.flags).advance x 8)

/-- Bytes of an atomic, from W64. -/
def atomBytes (o : M64) : Nat := if o.fn.getLsbD 4 then 8 else 4

/-- The operations of atom, on n-bit values (07 Table 7.6). -/
def atomNew (op n w b : Nat) : Nat :=
  match op with
  | 0 => (w + b) % 2 ^ n
  | 1 => if extInt n false w ≤ extInt n false b then w else b
  | 2 => if extInt n false b ≤ extInt n false w then w else b
  | 3 => min w b
  | 4 => max w b
  | 5 => w &&& b
  | 6 => w ||| b
  | 7 => w ^^^ b
  | 8 => b
  | _ => if b ≤ w then 0 else w + 1

/-- What atom makes of a word (07 R164). -/
def atomFn (o : M64) (x : Iss) : AtomFn := fun i w =>
  (some (atomNew (bits o.fn 0 4) (8 * atomBytes o) w (x.laneBytes o.d (atomBytes o) i)), fNone)
/-- atom (07 R164). -/
def execAtom (o : M64) (s : State) : Res := execAtomic (atomBytes o) (atomBytes o / 4) (atomFn o) o s

/-- What acas makes of a word (07 R165). -/
def acasFn (o : M64) (x : Iss) : AtomFn := fun i w =>
  let n := atomBytes o
  (if w = x.laneBytes o.d n i then some (x.laneBytes (o.d + BitVec.ofNat 9 (n / 4)) n i) else none, fNone)
/-- acas (07 R165). -/
def execAcas (o : M64) (s : State) : Res := execAtomic (atomBytes o) (atomBytes o / 2) (acasFn o) o s

/-- The sum of two words of elements under RNE (07 R166). -/
def addElems (t : Nat) (w b : Nat) : FRes :=
  let f := typeFmt t
  let n := f.width
  let one := fun e => (sumFV [decodeFloat f (w / 2 ^ (n * e) % 2 ^ n), decodeFloat f (b / 2 ^ (n * e) % 2 ^ n)] false).round f RCtl.rne
  if t = 0 then one 0 else ⟨(one 0).code + 2 ^ n * (one 1).code, (one 0).flags ||| (one 1).flags⟩

/-- What afadd makes of a word (07 R166). -/
def afaddFn (o : M64) (x : Iss) : AtomFn := fun i w =>
  let r := addElems (bits o.fn 3 2) w (x.laneBytes o.d 4 i)
  (some r.code, r.flags)
/-- afadd (07 R166). -/
def execAfadd (o : M64) (s : State) : Res :=
  execAtomic 4 1 (afaddFn o) o s

/-- ATOMIC_RESULT_RETURN (07 R163): the old values land. -/
def execAtomicResultReturn (core id : Nat) (s : State) : Res := landEvent "ATOMIC_RESULT_RETURN" .atomic core id s

end Sys2Proof.Machine
end

