-- ==== Sys2Proof/Machine/Engines.lean ====
section
/-! DEFINITION. Engine operations: how they issue, count and end (08 R167 to R170, R182 to R185), sweeps (R171 to R175) and
copies (R176 to R181). An operation runs at its event, after every operation of its engine that arrived earlier (22 R327), but for
the bytes of its sources that the agenda has had it read before (R182); that its writes appear later is Machine/Order.lean's. -/
namespace Sys2Proof.Machine

/-! Issue and end. -/

/-- Registers whose number is known only at issue, sources (of which lanes are read) and destinations: the operand rules,
the empty rules of R53, and then the reading of the sources (24 R349). -/
def regsGate (x : Iss) (s : State) (lanes : LaneSet) (reads writes : List Opnd) (k : Res) : Res :=
  if !((reads ++ writes).all fun o => o.ok x.isCt x.blocks) then trapR x s 0x02
  else if reads.any fun o => o.fe && x.empty o.reg then trapR x s 0x06
  else if (reads ++ writes).any fun o => x.empty o.reg then waitR s
  else match x.badSource lanes reads with
    | some (reg, lanes) => regEccR x s reg lanes
    | none => k

/-- Counts and queues an engine operation (08 R168). -/
def State.issueEngine (s : State) (x : Iss) (cls : Nat) (i : Instr) (vals : List DWord) (rows : List (List Word))
    (lanes : LaneSet) : State :=
  let (r, s1) := s.countOp x.core x.party cls
  let (id, s2) := s1.fresh
  s2.modCore x.core fun c => { c with ops := c.ops ++ [⟨id, some r, s.issuer x, i, vals, rows, lanes, x.flow.fmt, []⟩] }

/-- Issues an engine operation of len bytes; at 63 outstanding it waits (08 R168). -/
def engineR (x : Iss) (s : State) (cls len : Nat) (i : Instr) (vals : List DWord) (rows : List (List Word) := [])
    (lanes : LaneSet := 0) : Res :=
  if 63 ≤ (x.uni.count cls).val then waitR s
  else .next ((s.issueEngine x cls i vals rows lanes).advance x len)

/-- The engine of an operation: one for each class of Table 8.1, and the rasteriser for what is counted on none. -/
def EngineOp.engine (op : EngineOp) : Nat := match op.ref with | some r => r.cls | none => 5

/-- An operation that may run now: each engine takes operations in the order of their arrival, whoever issued them (08
R182, 22 R327). -/
def Core.nextOp (c : Core) (id : Nat) (p : Instr → Bool) : Option EngineOp :=
  match c.ops.find? fun o => o.id == id && p o.instr with
  | none => none
  | some o => match c.ops.find? fun e => e.engine == o.engine with
    | some f => if f.id = o.id then some o else none
    | none => some o

/-- Takes an operation out of the core's list. -/
def State.dropOp (s : State) (k id : Nat) : State :=
  s.modCore k fun c => { c with ops := c.ops.filter fun o => o.id != id }

/-- ORs flags into %fflags of a party's group (05 R106). -/
def State.partyFlags (s : State) (k : Nat) (p : Option Party) (f : FFlags) : State :=
  match p with
  | some (.group slot) => s.modGroup k slot fun g => { g with fflags := g.fflags ||| f }
  | _ => s

/-- Completes an operation's counter entry. -/
def State.completeOp (s : State) (op : EngineOp) (bad : Bool) : State :=
  match op.ref with | some r => s.complete op.who.core r bad | none => s

/-- Ends an operation: it leaves the list, a fault is recorded with a record class (08 R184), flags are ORed, and it is
counted complete. -/
def State.endOp (s : State) (op : EngineOp) (recCls : Nat) (fault : Option (Nat × Nat)) (fl : FFlags := fNone) : State :=
  let s1 := s.dropOp op.who.core op.id
  let s2 := match fault with
    | some (cause, a) => (if cause = 0x1B then s1.countEcc op.who.core else s1).deferFault op.who recCls cause a
    | none => s1
  (s2.partyFlags op.who.core op.who.party fl).completeOp op fault.isSome

/-! Operand checks of the engines (08 R173). -/

/-- An operand: n bytes at an address, written or read, that may or may not lie in device-virtual memory. -/
structure Span where
  a : Nat
  n : Nat
  write : Bool
  dv : Bool
  align : Nat

/-- An address as a record gives it: the own slice in alias form (08 Table 8.6). -/
def aliasForm (k a : Nat) : Nat :=
  match rangeOf k a with | .slice j off => if j = k then off else a | _ => a

/-- The lowest address of an operand's bytes that fail with a cause. -/
def State.spanFails (s : State) (k ctx : Nat) (p : Party) (cause : Nat) (sp : Span) : Option Nat :=
  least ((List.range sp.n).filterMap fun i =>
    let a := (sp.a + i) % 2 ^ 48
    if !(sp.dv && isVirtual a) && s.judgeByte k ctx p sp.write a == cause then some (aliasForm k a) else none)

/-- The lowest address of what an operand meets that is in error: a bank word of the own slice, in alias form, or a byte of
GDDR 7 that is read (24 R349). -/
def State.spanPoisoned (s : State) (k ctx : Nat) (sp : Span) : Option Nat :=
  match rangeOf k sp.a, s.core? k with
  | .slice _ off, some c => (c.poisoned sp.write off sp.n).map (16 * ·)
  | _, _ => if sp.dv && !sp.write then s.virtBad ctx sp.a sp.n else none

/-- R173's choice: misaligned, then phase-illegal access, then slice bounds, then an uncorrectable error, each with the
lowest address that fails it. An operation is judged on all its operands before it starts, also on words that it would
overwrite before it reads them, and moves nothing when one is in error (log 105: DESIGN CHOICE). -/
def State.operandFault (s : State) (k ctx : Nat) (p : Party) (l : List Span) : Option (Nat × Nat) :=
  let first := fun (cause : Nat) (f : Span → Option Nat) => (least (l.filterMap f)).map fun a => (cause, a)
  (first 0x08 fun sp => if sp.a % sp.align = 0 then none else some (aliasForm k sp.a)).orElse fun _ =>
    (first 0x04 (s.spanFails k ctx p 0x04)).orElse fun _ =>
      (first 0x07 (s.spanFails k ctx p 0x07)).orElse fun _ => first 0x1B (s.spanPoisoned k ctx)

/-- The party of an operation. -/
def EngineOp.party (op : EngineOp) : Party := op.who.party.getD (.ct op.who.ctx false)

/-- R173 for an operation's operands. -/
def State.opFault (s : State) (op : EngineOp) (l : List Span) : Option (Nat × Nat) :=
  s.operandFault op.who.core op.who.ctx op.party l

/-- Value n that an operation captured. -/
def EngineOp.val (op : EngineOp) (n : Nat) : DWord := op.vals.getD n 0

/-- An address modulo 2^48. -/
def wrap48 (a : Int) : Nat := (a % 2 ^ 48).toNat

/-! wcnt (08 R169). -/

/-- wcnt (08 R169). -/
def execWcnt (o : Op) (s : State) : Res :=
  issue { Req.plain o.g with writes := [atS o.d] } 8 s fun x =>
    .next ((s.setS x o.d (BitVec.ofNat 64 (x.uni.count (bits o.fn 0 3)).val)).advance x 8)

/-! Sweeps (08 R171 to R175). -/

/-- The float format of a sweep TYPE, if it is a float (08 Table 8.3). -/
def swFmt (t : Nat) : Option FloatFmt :=
  match t with | 0 => some .f32 | 3 => some .f16 | 4 => some .bf16 | _ => none

/-- How a sweep runs: the widths of its streams, which sources it uses, and the result of one element. -/
structure SweepPlan where
  wD : Nat
  wA : Nat
  wB : Nat
  useA : Bool
  useB : Bool
  f : Nat → Nat → FRes

/-- An element operation on floats or on integers, by TYPE (08 R172). -/
def swNum (o : Op) (fmt : Word) (fop : FloatOp) (iop : IntOp) (a b c : Nat) : FRes :=
  match swFmt (swType o) with
  | some f => floatOp fop f (RMode.ofRM (bits fmt 10 2)) 0 a b c
  | none => ⟨intResult iop 32 (swType o == 2) (swSat o) 0 false a b c, fNone⟩

/-- swsel's choice (08 Table 8.4): the bits of the operand unchanged, those of a NaN too, as a move leaves them (05 R96, log
103: DEDUCED). -/
def swChoose (o : Op) (a b c : Nat) : FRes :=
  match swFmt (swType o) with
  | some f =>
    let r := fcmpFV (swSub o) (decodeFloat f a) (decodeFloat f c)
    ⟨if r.1 then a else b, r.2⟩
  | none => ⟨if intCond (swSub o) (extInt 32 (swType o == 2) a) (extInt 32 (swType o == 2) c) then a else b, fNone⟩

/-- How an operation sweeps; none for other instructions and for swred. -/
def sweepPlan (op : EngineOp) : Option (Op × SweepPlan) :=
  let plain := fun (o : Op) (ua ub : Bool) (f : Nat → Nat → Nat → FRes) =>
    let w := swWidth (swType o)
    some (o, (⟨w, w, w, ua, ub, fun a b => f a b ((op.val 3).toNat % 2 ^ (8 * w))⟩ : SweepPlan))
  match op.instr with
  | .swadd o => plain o true true fun a b _ => swNum o op.fmt .add .add a b 0
  | .swmul o => plain o true true fun a b _ => swNum o op.fmt .mul .mul a b 0
  | .swfma o => plain o true true fun a b c => swNum o op.fmt .fma .mad a c b
  | .swmax o => plain o true true fun a b _ => swNum o op.fmt .max .max a b 0
  | .swmin o => plain o true true fun a b _ => swNum o op.fmt .min .min a b 0
  | .swmov o => plain o true false fun a _ _ => ⟨a, fNone⟩
  | .swfill o => plain o false false fun _ _ c => ⟨c, fNone⟩
  | .swsel o => plain o true true (swChoose o)
  | .swcvt o =>
    let w := (op.val 3).lo
    some (o, ⟨codeBits (cwDC w) / 8, codeBits (cwSC w) / 8, 4, true, cwSr w op.fmt,
      fun a b => cwConvert w op.fmt (cwCtl w op.fmt b) a⟩)
  | _ => none

/-- The start of iteration t of a stream: stream 0 is D, 1 is A, 2 is B. -/
def swStart (op : EngineOp) (o : Op) (stream t : Nat) : Nat :=
  let step := match stream with | 0 => swSD o | 1 => swSA o | _ => swSB o
  wrap48 ((op.val stream).toNat + t * step)

/-- The operands of a stream. -/
def swSpans (op : EngineOp) (o : Op) (stream w : Nat) : List Span :=
  (List.range (swIter o)).map fun t => ⟨swStart op o stream t, 128 * w, stream == 0, false, if t = 0 then w else 1⟩

/-- Bytes from an address on, those that a read of an operation has taken early among them (08 R182). -/
def overlay (early : List Sample) (read a : Nat) (bs : List Byte) : List Byte :=
  if early.isEmpty then bs
  else (List.range bs.length).map fun i =>
    ((early.find? fun e => e.read == read && e.at_ == a + i).map Sample.byte).getD (bs.getD i 0)

/-- The 128 elements of w bytes of a row in the own slice, as a read of an operation takes them. -/
def State.sliceRow (s : State) (k : Nat) (early : List Sample) (read a w : Nat) : List Nat :=
  (List.range 128).map fun j => ofLE (overlay early read (aliasOff a + w * j) (s.sliceRead k (aliasOff a + w * j) w))
/-- What an operation has read early, without the bytes that it has written itself since: it reads those as it wrote them. -/
def unwritten (early : List Sample) (off n : Nat) : List Sample :=
  early.filter fun e => !decide (off ≤ e.at_ ∧ e.at_ < off + n)

/-- Runs the iterations of a sweep from t on (08 R173). Read 3 t + j is iteration t's read of stream j. -/
def State.sweepRows (s : State) (op : EngineOp) (o : Op) (p : SweepPlan) : Nat → Nat → FFlags → State × FFlags
  | 0, _, fl => (s, fl)
  | n + 1, t, fl =>
    let k := op.who.core
    let a := if p.useA then s.sliceRow k op.early (3 * t + 1) (swStart op o 1 t) p.wA else []
    let b := if p.useB then s.sliceRow k op.early (3 * t + 2) (swStart op o 2 t) p.wB else []
    let l := (List.range 128).map fun j => p.f (a.getD j 0) (b.getD j 0)
    let s' := s.sliceWrite k (aliasOff (swStart op o 0 t)) (l.flatMap fun r => toLE p.wD r.code)
    let op' := { op with early := unwritten op.early (aliasOff (swStart op o 0 t)) (128 * p.wD) }
    s'.sweepRows op' o p n (t + 1) (l.foldl (fun f r => f ||| r.flags) fl)

/-- A node of swred (08 R174). -/
def swNode (o : Op) (a b : Nat) : FRes :=
  match swFmt (swType o), swSub o with
  | some f, 0 => (sumFV [decodeFloat f a, decodeFloat f b] false).round f RCtl.rne
  | some f, n => minMax f (n == 2) a b
  | none, 0 => ⟨(a + b) % 2 ^ 32, fNone⟩
  | none, n =>
    let u := swType o == 2
    let lt := decide (extInt 32 u a < extInt 32 u b)
    ⟨if lt == (n == 1) then a else b, fNone⟩

/-- The value of swred over iterations, the accumulator first. -/
def State.swredAcc (s : State) (op : EngineOp) (o : Op) : List Nat → Option FRes → Option FRes
  | [], acc => acc
  | t :: r, acc =>
    let w := swWidth (swType o)
    let seg := pairTree (swNode o) 7 ((s.sliceRow op.who.core op.early (3 * t + 1) (swStart op o 1 t) w).map fun v => ⟨v, fNone⟩)
    s.swredAcc op o r (some (match acc with
      | none => seg
      | some v => let n := swNode o v.code seg.code; ⟨n.code, n.flags ||| v.flags ||| seg.flags⟩))

/-- Runs a sweep (08 R173, R174). -/
def State.runSweep (s : State) (op : EngineOp) : Option State :=
  match op.instr, sweepPlan op with
  | .swred o, _ =>
    let w := swWidth (swType o)
    let d := wrap48 (op.val 0).toNat
    match s.opFault op (⟨d, w, true, false, w⟩ :: swSpans op o 1 w) with
    | some f => some (s.endOp op 0 (some f))
    | none => match s.swredAcc op o (List.range (swIter o)) none with
      | none => some (s.endOp op 0 none)
      | some r => some ((s.sliceWrite op.who.core (aliasOff d) (toLE w r.code)).endOp op 0 none r.flags)
  | _, some (o, p) =>
    let spans := swSpans op o 0 p.wD ++ (if p.useA then swSpans op o 1 p.wA else [])
      ++ (if p.useB then swSpans op o 2 p.wB else [])
    match s.opFault op spans with
    | some f => some (s.endOp op 0 (some f))
    | none =>
      let r := s.sweepRows op o p (swIter o) 0 fNone
      some (r.1.endOp op 0 none r.2)
  | _, none => none

/-- Issues a sweep (08 R171, R173): D, and A, B, C where used, are s registers read at issue. -/
def execSweep (i : Instr) (o : Op) (a b c : Bool) (s : State) : Res :=
  issue { g := o.g, phase := .C, who := .group, writes := [],
          reads := atS o.d :: ((if a then [rdS o.a] else []) ++ (if b then [rdS o.b] else [])
            ++ (if c then [rdS o.c] else [])) } 16 s fun x =>
    if x.active = 0 then .next (s.advance x 16)
    else engineR x s 0 16 i [x.s o.d, x.s o.a.reg, x.s o.b.reg, x.s o.c.reg]

/-- swadd (08 R172). -/
def execSwadd (o : Op) (s : State) : Res := execSweep (.swadd o) o true true false s
/-- swmul (08 R172). -/
def execSwmul (o : Op) (s : State) : Res := execSweep (.swmul o) o true true false s
/-- swfma (08 R172). -/
def execSwfma (o : Op) (s : State) : Res := execSweep (.swfma o) o true true true s
/-- swmax (08 R172). -/
def execSwmax (o : Op) (s : State) : Res := execSweep (.swmax o) o true true false s
/-- swmin (08 R172). -/
def execSwmin (o : Op) (s : State) : Res := execSweep (.swmin o) o true true false s
/-- swmov (08 R172). -/
def execSwmov (o : Op) (s : State) : Res := execSweep (.swmov o) o true false false s
/-- swfill (08 R172). -/
def execSwfill (o : Op) (s : State) : Res := execSweep (.swfill o) o false false true s
/-- swred (08 R174). -/
def execSwred (o : Op) (s : State) : Res := execSweep (.swred o) o true false false s
/-- swsel (08 R172). -/
def execSwsel (o : Op) (s : State) : Res := execSweep (.swsel o) o true true true s

/-- R175: the control value and the steps of a swcvt that pass its checks at issue. -/
def swcvtOk (o : Op) (w fmt : Word) : Bool :=
  let sr := cwSr w fmt
  cwOk w && !isU64 (cwSC w) && !isU64 (cwDC w)
    && swSD o % (codeBits (cwDC w) / 8 : Nat) == 0 && swSA o % (codeBits (cwSC w) / 8 : Nat) == 0
    && (if sr then swSB o % 4 == 0 else zeroS o.b && swSB o == 0)

/-- swcvt (08 R175). -/
def execSwcvt (o : Op) (s : State) : Res :=
  issue { g := o.g, phase := .C, who := .group, writes := [], reads := [atS o.d, rdS o.a, rdS o.c] } 16 s fun x =>
    if x.active = 0 then .next (s.advance x 16)
    else
      let w := (x.s o.c.reg).lo
      if !swcvtOk o w x.flow.fmt then trapR x s 0x02
      else regsGate x s x.sel (if cwSr w x.flow.fmt then [rdS o.b] else []) []
        (engineR x s 0 16 (.swcvt o) [x.s o.d, x.s o.a.reg, x.s o.b.reg, x.s o.c.reg])

/-- SWEEP_EXECUTE (08 R173). -/
def execSweepExecute (core id : Nat) (s : State) : Res :=
  match (s.core? core).bind fun c => c.nextOp id fun _ => true with
  | none => .fault (.notEnabled "SWEEP_EXECUTE")
  | some op => match s.runSweep op with
    | some s' => .next s'
    | none => .fault (.notEnabled "SWEEP_EXECUTE")

/-! Deposits leave (08 R178, 09 R196, R200). -/

/-- The barrier object k of a context on a core (09 R198). -/
def CoreCtx.obj? (c : CoreCtx) (k : Nat) : Option Obj := c.objs.find? fun o => o.k == k
/-- A bound wing pair. -/
def CoreCtx.wing? (c : CoreCtx) (h : Nat) : Option Wing := c.wings.find? fun w => w.handle == h

/-- GEN of object k of a context on a core. -/
def State.objGen (s : State) (k ctx n : Nat) : Option Word :=
  match (s.cctx? k ctx).bind fun c => c.obj? n with
  | none => none
  | some o => some (BitVec.ofNat 32 (s.sliceLE k (o.addr + 20) 4))

/-- The lowest bank word in error of an object that is to be read (24 R349, R350), as a slice offset. -/
def State.objBad (s : State) (k : Nat) (o : Obj) : Option Nat :=
  match s.core? k with | some c => (c.poisoned false o.addr 32).map (16 * ·) | none => none

/-- An engine block names an object whose GEN cannot be read without an error: precise, as where barv reads it (24 R349). -/
def barGate (x : Iss) (s : State) (o : Op) (k : Res) : Res :=
  match (if ebBV o then ((s.cctx? x.core x.ctx).bind fun c => c.obj? (ebBar o)).bind (s.objBad x.core) else none) with
  | some w => eccR x s 1 w
  | none => k

/-- GEN of the issuer's own replica of the object that an engine block names, as an operation captures it at issue (log 130:
DESIGN CHOICE): bit 32 says that there is one (09 R200). -/
def State.genAtIssue (s : State) (x : Iss) (o : Op) : DWord :=
  if ebBV o then match s.objGen x.core x.ctx (ebBar o) with | some g => 1#32 ++ g | none => 0 else 0
/-- The generation that an operation has captured. -/
def capturedGen (v : DWord) : Option Word := if v.getLsbD 32 then some v.lo else none

/-- Sends one deposit of an operation: bytes at offsets from off, their extent and count, and the barrier object if the
block names one, with the generation captured at issue in value 4. -/
def State.sendDeposit (s : State) (op : EngineOp) (r : OpRef) (o : Op) (target off extent count : Nat)
    (bytes : List (Nat × Byte)) : State :=
  let (id, s1) := s.fresh
  let bar := if ebBV o then some (ebBar o, capturedGen (op.val 4)) else none
  { s1 with deposits := s1.deposits ++
      [⟨id, op.id, op.who, r, target, ebWH o, off, bytes, extent, count, bar, none, false, 0⟩] }

/-- Bytes at consecutive offsets from 0. -/
def offsetBytes (bs : List Byte) : List (Nat × Byte) := (List.range bs.length).zip bs

/-! cpy and xst (08 R176 to R178, 09 R197). -/

/-- The core that a deposit of the current party names: its flips, or none where they name no core of the cluster
(08 R176, R178). -/
def State.flipTarget (s : State) (x : Iss) (fx fy : Bool) : Option Nat :=
  if !fx && !fy then some x.core
  else match s.workgroup? x.core x.slot with
    | none => none
    | some w =>
      if x.isCt || (fx && (w.shape == 0 || w.shape == 2)) || (fy && (w.shape == 0 || w.shape == 1)) then none
      else
        let dx : Int := if fx then (if w.cpos.getLsbD 4 then -1 else 1) else 0
        let dy : Int := if fy then (if w.cpos.getLsbD 5 then -8 else 8) else 0
        some ((x.core : Int) + dx + dy).toNat

/-- The handle is bound for the issuer's context on its core. -/
def State.wingBound (s : State) (x : Iss) (h : Nat) : Bool :=
  match s.cctx? x.core x.ctx with | some c => (c.wing? h).isSome | none => false

/-- The checks of R176 for a deposit: its target, or the cause of the trap. -/
def State.depositTarget (s : State) (x : Iss) (o : Op) : Except Nat Nat :=
  match s.flipTarget x (o.fn.getLsbD 4) (o.fn.getLsbD 5) with
  | none => .error 0x02
  | some t => if t = x.core ∧ s.wingBound x (ebWH o) = false then .error 0x14 else .ok t

/-- A count from the engine block, or from register C. -/
def countTooBig (x : Iss) (o : Op) : Bool := decide (2 ^ 32 ≤ (x.count o).toNat)

/-- cpy (08 R176). -/
def execCpy (o : Op) (s : State) : Res :=
  issue { g := o.g, phase := .C, who := .any, writes := [], reads := [atS o.d, rdS o.a] ++ countReads o } 16 s fun x =>
    if x.active = 0 then .next (s.advance x 16)
    else if countTooBig x o then trapR x s 0x02
    else match (if ebWV o then s.depositTarget x o else .ok x.core) with
      | .error c => trapR x s c
      | .ok t => barGate x s o
        (engineR x s 0 16 (.cpy o) [x.s o.d, x.s o.a.reg, x.count o, BitVec.ofNat 64 t, s.genAtIssue x o])

/-- xst (09 R197). -/
def execXst (o : Op) (s : State) : Res :=
  issue { g := o.g, phase := .C, who := .group, writes := [],
          reads := atS o.d :: (countReads o ++ regRange o.a.reg (max 1 (ebCnt o)) .v o.a.fe),
          extra := ebCnt o == 0 || vecRangeOk o.a.reg (ebCnt o) } 16 s fun x =>
    if countTooBig x o then trapR x s 0x02
    else match s.depositTarget x o with
    | .error c => trapR x s c
    | .ok t =>
      let n := (x.count o).toNat
      if n < 1 ∨ 8 < n then trapR x s 0x02
      else if !vecRangeOk o.a.reg n then trapR x s 0x02
      else regsGate x s x.sel (regRange o.a.reg n .v o.a.fe) []
        (if x.active = 0 then .next (s.advance x 16)
         else barGate x s o (engineR x s 0 16 (.xst o) [x.s o.d, BitVec.ofNat 64 n, BitVec.ofNat 64 t, 0, s.genAtIssue x o]
           ((List.range n).map fun r => x.v (o.a.reg.toNat + r)) x.active))

/-- The bytes of an xst by offset (09 R197). -/
def xstBytes (op : EngineOp) (pk : Bool) : List (Nat × Byte) :=
  let l := op.lanes.toList
  (List.range op.rows.length).flatMap fun r =>
    (List.range l.length).flatMap fun j =>
      let i := l.getD j 0
      let at_ := if pk then 4 * l.length * r + 4 * j else 512 * r + 4 * i
      (offsetBytes (toLE 4 (((op.rows.getD r []).getD i 0).toNat))).map fun b => (at_ + b.1, b.2)

/-- One past the highest offset of a list of bytes. -/
def extentOf (bs : List (Nat × Byte)) : Nat := bs.foldl (fun n b => max n (b.1 + 1)) 0

/-- The source pieces of a copy: offset and bytes, and the faults of its chunks, as CAUSE and address (08 R177). Read 0 is
the copy's read of its source. -/
def State.copyRead (s : State) (k ctx : Nat) (early : List Sample) (a n : Nat) :
    List (Nat × List Byte) × List (Nat × Nat) :=
  if isVirtual a then
    (chunks a n).foldl (fun r c =>
      match s.chunkAt ctx c.1 c.2 false with
      | none => (r.1, r.2 ++ [s.walkFault ctx c.1 false])
      | some p => (r.1 ++ [(c.1 - a, overlay early 0 c.1 (s.physRead p c.2))], r.2)) ([], [])
  else ([(0, overlay early 0 (aliasOff a) (s.sliceRead k (aliasOff a) n))], [])

/-- Writes pieces at an address; the faults of the chunks are added. -/
def State.copyWrite (s : State) (k ctx a : Nat) (pieces : List (Nat × List Byte)) : State × List (Nat × Nat) :=
  pieces.foldl (fun r p =>
    if isVirtual a then
      let bad := (chunks (a + p.1) p.2.length).filterMap fun c =>
        if (r.1.chunkAt ctx c.1 c.2 true).isNone then some (r.1.walkFault ctx c.1 true) else none
      (r.1.virtStoreBy k ctx (a + p.1) p.2, r.2 ++ bad)
    else (r.1.sliceWrite k (aliasOff a + p.1) p.2, r.2)) (s, [])

/-- Two device-virtual extents of which different pages map to one memory (08 R177). -/
def State.aliased (s : State) (ctx a b n : Nat) : Bool :=
  let frames := fun (w : Bool) (v : Nat) => (chunks v n).filterMap fun c =>
    (s.translate ctx c.1 w).map fun p => (c.1 / 4096, p.fabric, p.pa / 4096)
  isVirtual a && isVirtual b && (frames false a).any fun f => (frames true b).any fun g => f.2 == g.2 && f.1 != g.1

/-- R177: a byte that a copy reads and writes under two different device-virtual addresses is old or new, as the operation's
free choice says. -/
def State.aliasPieces (s : State) (id ctx a b n : Nat) (pieces : List (Nat × List Byte)) : List (Nat × List Byte) :=
  if s.aliased ctx a b n then
    let old := fun i => (pieces.findSome? fun p => if p.1 ≤ i then p.2[i - p.1]? else none)
    pieces.map fun p => (p.1, (List.range p.2.length).map fun i =>
      let v := p.2.getD i 0
      let src := s.translate ctx (a + p.1 + i) false
      match (List.range n).find? fun j => src.isSome && b + j != a + p.1 + i && s.translate ctx (b + j) true == src with
      | none => v
      | some j => if Config.copyOld id (p.1 + i) then v else (old j).getD v)
  else pieces

/-- Moves n bytes with memmove semantics (08 R177): the state after, and the fault of the lowest address. -/
def State.moveBytes (s : State) (k ctx id : Nat) (early : List Sample) (a b n : Nat) : State × Option (Nat × Nat) :=
  let r := s.copyRead k ctx early a n
  let w := s.copyWrite k ctx b (s.aliasPieces id ctx a b n r.1)
  (w.1, leastFault (r.2 ++ w.2))

/-- Runs a cpy (08 R176 to R178, Table 8.5). -/
def State.runCpy (s : State) (op : EngineOp) (o : Op) : State :=
  let n := (op.val 2).toNat
  let a := wrap48 (op.val 1).toNat
  let b := wrap48 (op.val 0).toNat
  let dep := ebWV o
  if n = 0 then s.endOp op 0 none
  else match s.opFault op (⟨a, n, false, !dep, 1⟩ :: (if dep then [] else [⟨b, n, true, true, 1⟩])) with
    | some f => s.endOp op 0 (some f)
    | none =>
      if dep then
        match op.ref with
        | none => s.endOp op 0 none
        | some r => (s.sendDeposit op r o (op.val 3).toNat (op.val 0).toNat n n
            (offsetBytes (overlay op.early 0 (aliasOff a) (s.sliceRead op.who.core (aliasOff a) n)))).dropOp op.who.core op.id
      else
        let r := s.moveBytes op.who.core op.who.ctx op.id op.early a b n
        r.1.endOp op 0 r.2

/-- Runs an xst: its bytes leave as a deposit (09 R197). -/
def State.runXst (s : State) (op : EngineOp) (o : Op) : State :=
  match op.ref with
  | none => s.endOp op 0 none
  | some r =>
    let bs := xstBytes op (o.fn.getLsbD 0)
    (s.sendDeposit op r o (op.val 2).toNat (op.val 0).toNat (extentOf bs) (4 * op.rows.length * op.lanes.count)
      bs).dropOp op.who.core op.id

/-! cpyx (08 R179 to R181). -/

/-- N: the elements of a record. -/
def recCount (r : RecBits) : Nat := recSpan r 0
/-- The coordinates of element l of a record. -/
def recAt (r : RecBits) (l : Nat) : List Nat := (recCoords r [l]).getD []

/-- The place of an element on the plain side, in elements (08 R179). -/
def plainIndex (r : RecBits) (t : Bool) (c : List Nat) : Nat :=
  let d := recDim r
  let c0 := c.getD 0 0
  let c1 := c.getD 1 0
  let up := c.getD 2 0 + d 2 * c.getD 3 0
  if t then c1 + d 1 * (c0 + d 0 * up) else c0 + d 0 * (c1 + d 1 * up)

/-- One element of a cpyx: its coordinates, the bytes it has on the record side and on the plain side. -/
structure CpyxElem where
  c0 : Nat
  recA : Nat
  plainA : Nat

/-- The elements of a cpyx: base is the allocation base, p the plain side's address. -/
def cpyxElems (r : RecBits) (t : Bool) (base p : Nat) : List CpyxElem :=
  let w := codeBits (recView r) / 8
  (List.range (recCount r)).map fun l =>
    let c := recAt r l
    ⟨c.getD 0 0, recAddr r base c, wrap48 ((p : Int) + (w * plainIndex r t c : Nat))⟩

/-- The lowest byte and one past the highest of pieces of one size, as issued (08 R179). -/
def extentSpan (n : Nat) (l : List Nat) : Nat × Nat := ((least l).getD 0, l.foldl (fun e a => max e (a + n)) 0)

/-- An extent as its parts below, within and above core k's own window, the middle one in alias form: the addresses that
name the same bytes (01 R19). -/
def aliasParts (k : Nat) (e : Nat × Nat) : List (Nat × Nat) :=
  let lo := 0x000100000000 + k * 0x04000000
  let hi := lo + 0x04000000
  [(e.1, min e.2 lo), (max e.1 lo - lo, min e.2 hi - lo), (max e.1 hi, e.2)].filter fun p => decide (p.1 < p.2)

/-- Two extents share a byte, whichever form its address has (08 R180). -/
def extentsMeet (k : Nat) (a b : Nat × Nat) : Bool :=
  (aliasParts k a).any fun p => (aliasParts k b).any fun q => decide (p.1 < q.2 ∧ q.1 < p.2)

/-- R180, check 3, for one byte of the destination extent. -/
def State.cpyxByteOk (s : State) (x : Iss) (a : Nat) : Bool :=
  match rangeOf x.core a with
  | .slice j off => let b := s.bounds x.core x.ctx x.party; j == x.core && decide (b.1 ≤ off ∧ off < b.2)
  | .gddr => true
  | .fabric => true
  | .reserved => false

/-- cpyx (08 R179, R180). A CT has no record table (R147). -/
def execCpyx (o : Op) (s : State) : Res :=
  issue { g := o.g, phase := .C, who := .any, writes := [],
          reads := (if o.fn.getLsbD 0 then [rdS o.a] else [atS o.d]) ++ countReads o } 16 s fun x =>
    if x.active = 0 then .next (s.advance x 16)
    else
      let st := o.fn.getLsbD 0
      let r := s.recordOf x (ebRec o).toNat
      let p := if st then x.s o.a.reg else x.s o.d
      if x.isCt || !(if st then recStoreOk r && recRnd r != 4 else recOk r) then trapR x s 0x09
      else if countTooBig x o || (x.count o).toNat != recCount r then trapR x s 0x12
      else
        let l := cpyxElems r (o.fn.getLsbD 2) (s.allocBase x) p.toNat
        let w := codeBits (recView r) / 8
        let re := extentSpan (recSize r) (l.map CpyxElem.recA)
        let pe := extentSpan w (l.map CpyxElem.plainA)
        let dst := if st then re else pe
        if !((List.range (dst.2 - dst.1)).all fun i => s.cpyxByteOk x (dst.1 + i)) then trapR x s 0x12
        else if extentsMeet x.core re pe then trapR x s 0x13
        else engineR x s 0 16 (.cpyx o) [p]

/-- Bytes of a side of a cpyx: in the own slice, or in device-virtual memory; an error is the CAUSE and the lowest faulting
address. A block with bytes in a chunk whose translation faults is not read at all, so none of its elements moves (log 126: DESIGN
CHOICE). -/
def State.readSide (s : State) (k ctx : Nat) (early : List Sample) (a n : Nat) : Except (Nat × Nat) (List Byte) :=
  if isVirtual a then
    match s.virtRead ctx a n with
    | .error e => .error (s.walkFault ctx e false)
    | .ok bs => .ok (overlay early 0 a bs)
  else .ok (overlay early 0 (aliasOff a) (s.sliceRead k (aliasOff a) n))

/-- Runs a cpyx (08 R181). It writes element by element: a bank word in error that only several elements together cover is
met by narrower writes (24 R350, log 106: DESIGN CHOICE). -/
def State.runCpyx (s : State) (op : EngineOp) (o : Op) : State :=
  let k := op.who.core
  let ctx := op.who.ctx
  let slot := match op.party with | .group n => n | .ct _ _ => 0
  match s.workgroup? k slot with
  | none => s.endOp op 0 none
  | some wg =>
    let r := recordBits wg.records (ebRec o).toNat
    let st := o.fn.getLsbD 0
    let w := codeBits (recView r) / 8
    let l := cpyxElems r (o.fn.getLsbD 2) wg.base (op.val 0).toNat
    let spans := (l.map fun e => (⟨e.recA, recSize r, st, true, 1⟩ : Span))
      ++ l.map fun e => (⟨e.plainA, w, !st, true, 1⟩ : Span)
    match s.opFault op spans with
    | some f => s.endOp op 0 (some f)
    | none =>
      let read := l.map fun e =>
        match s.readSide k ctx op.early (if st then e.plainA else e.recA) (if st then w else recSize r) with
        | .error a => (Except.error a : Except (Nat × Nat) (Nat × List Byte × FFlags))
        | .ok bs =>
          if st then
            let y := recStore r (BitVec.ofNat 32 (ofLE bs)) 0
            .ok (e.recA, toLE (recSize r) y.code, y.flags)
          else
            let y := recLoad r bs (e.c0 % 32)
            .ok (e.plainA, toLE w y.code, y.flags)
      let fin := read.foldl (fun (acc : State × List (Nat × Nat) × FFlags) y =>
        match y with
        | .error a => (acc.1, acc.2.1 ++ [a], acc.2.2)
        | .ok (a, bs, fl) =>
          let q := acc.1.copyWrite k ctx a [(0, bs)]
          (q.1, acc.2.1 ++ q.2, acc.2.2 ||| fl)) (s, [], fNone)
      fin.1.endOp op 0 (leastFault fin.2.1) fin.2.2

/-- COPY_EXECUTE (08 R176 to R181, 09 R197). -/
def execCopyExecute (core id : Nat) (s : State) : Res :=
  match (s.core? core).bind fun c => c.nextOp id fun _ => true with
  | none => .fault (.notEnabled "COPY_EXECUTE")
  | some op =>
    match op.instr with
    | .cpy o => .next (s.runCpy op o)
    | .xst o => .next (s.runXst op o)
    | .cpyx o => .next (s.runCpyx op o)
    | _ => .fault (.notEnabled "COPY_EXECUTE")

end Sys2Proof.Machine
end

