-- ==== Sys2Proof/Machine/Supersteps.lean ====
section
/-! DEFINITION. Wing pairs, barrier objects, deposits that arrive, and parking (09 R186 to R201, R189). -/
namespace Sys2Proof.Machine

/-! Wing pairs (09 R192 to R195). -/

/-- The issuer as an owner (09 R193, R199). -/
def Iss.owner (x : Iss) : Owner := match x.grp with | some g => .wg g.wg | none => .ct

/-- Two extents share a byte. -/
def overlap (a n b m : Nat) : Bool := decide (a < b + m ∧ b < a + n)

/-- [a, a + n) meets a bound pair of the core, of any context. -/
def Core.meetsWing (c : Core) (a n : Nat) : Bool :=
  c.cctx.any fun cc => cc.wings.any fun w => overlap a n w.base (2 * w.size)
/-- [a, a + n) meets an initialised object of the core, of any context. -/
def Core.meetsObj (c : Core) (a n : Nat) : Bool := c.cctx.any fun cc => cc.objs.any fun o => overlap a n o.addr 32
/-- Bound pairs of a core. -/
def Core.wingCount (c : Core) : Nat := c.cctx.foldl (fun n cc => n + cc.wings.length) 0
/-- Initialised objects of a core. -/
def Core.objCount (c : Core) : Nat := c.cctx.foldl (fun n cc => n + cc.objs.length) 0

/-- The offset of an extent that lies wholly in the issuer's allocation or region (09 R194, R199). -/
def State.ownExtent (s : State) (x : Iss) (a n : Nat) : Option Nat :=
  match rangeOf x.core (a % 2 ^ 48) with
  | .slice j off =>
    let b := s.bounds x.core x.ctx x.party
    if j = x.core ∧ b.1 ≤ off ∧ off + n ≤ b.2 ∧ off + n ≤ 0x03C00000 then some off else none
  | _ => none

/-- wbind (09 R194). -/
def execWbind (o : Op) (s : State) : Res :=
  issue { g := o.g, phase := .C, who := .any, reads := rdS o.a :: countReads o, writes := [] } 16 s fun x =>
    match s.core? x.core, s.cctx? x.core x.ctx with
    | some c, some cc =>
      let z := (x.count o).toNat
      let a := (x.s o.a.reg).toNat
      if z = 0 ∨ z % 4096 ≠ 0 ∨ 2 ^ 22 < z then trapR x s 0x02
      else if a % 4096 ≠ 0 then trapR x s 0x08 x.sel (a % 2 ^ 48)
      else match s.ownExtent x a (2 * z) with
        | none => trapR x s 0x07 x.sel (a % 2 ^ 48)
        | some off =>
          let barOk := !ebBV o || (match cc.obj? (ebBar o) with | some b => b.owner == x.owner | none => false)
          if (cc.wing? (ebWH o)).isSome || decide (64 ≤ c.wingCount) || c.meetsWing off (2 * z)
              || c.meetsObj off (2 * z) || !barOk then trapR x s 0x14
          else .next ((s.modCctx x.core x.ctx fun cc =>
            { cc with wings := cc.wings ++ [⟨ebWH o, off, z, x.owner, if ebBV o then some (ebBar o) else none⟩] }).advance
              x 16)
    | _, _ => .fault .noThread

/-- wfree (09 R195). -/
def execWfree (o : Op) (s : State) : Res :=
  issue { g := o.g, phase := .C, who := .any, reads := if immBit o then [rdS o.a] else [], writes := [] } 8 s fun x =>
    let v := if immBit o then (x.s o.a.reg).toNat else bits o.fn 0 6
    if 64 ≤ v then trapR x s 0x02
    else match (s.cctx? x.core x.ctx).bind fun c => c.wing? v with
      | none => trapR x s 0x14
      | some w =>
        if w.owner != x.owner then trapR x s 0x14
        else .next ((s.modCctx x.core x.ctx fun cc =>
          { cc with wings := cc.wings.filter fun w => w.handle != v }).advance x 8)

/-- A flip of a pair: its halves change places, with their marks (09 R192, 24 R350). -/
def Core.flip (c : Core) (w : Wing) : Core :=
  let b := w.base / 16
  let n := w.size / 16
  { c with
    slice := c.slice.swapHalves w.base w.size
    poison := c.poison.map fun p =>
      if b ≤ p ∧ p < b + n then p + n else if b + n ≤ p ∧ p < b + 2 * n then p - n else p }

/-- Flips every pair of a context on a core that is bound to the phase (none) or to an object. -/
def Core.flipBound (c : Core) (ctx : Nat) (bar : Option Nat) : Core :=
  match c.cctx? ctx with
  | none => c
  | some cc => (cc.wings.filter fun w => w.bar == bar).foldl Core.flip c

/-! Barrier objects (09 R198 to R201). -/

/-- The fields of a barrier object (09 Table 9.1). -/
structure ObjVal where
  scope : Bool
  expa : Nat
  arr : Nat
  expb : Nat
  byt : Nat
  gen : Word
  k : Nat
  flp : Bool
  nflp : Bool
  narr : Nat
  nbyt : Nat
  deriving DecidableEq, Repr

/-- The 32 bytes of an object (09 Table 9.1); NARR and NBYT beyond their fields are kept modulo 2^16 and 2^32 (log 129: DESIGN
CHOICE). -/
def ObjVal.bytes (v : ObjVal) : List Byte :=
  toLE 32 ((if v.scope then 1 else 0) + v.expa * 2 ^ 64 + v.arr * 2 ^ 80 + v.expb * 2 ^ 96 + v.byt * 2 ^ 128
    + v.gen.toNat * 2 ^ 160 + v.k * 2 ^ 192 + (if v.flp then 2 ^ 200 else 0) + (if v.nflp then 2 ^ 201 else 0)
    + v.narr % 2 ^ 16 * 2 ^ 208 + v.nbyt % 2 ^ 32 * 2 ^ 224)

/-- The object that 32 bytes hold. -/
def ObjVal.ofBytes (bs : List Byte) : ObjVal :=
  let n := ofLE bs
  let f := fun (lo w : Nat) => n / 2 ^ lo % 2 ^ w
  ⟨f 0 1 == 1, f 64 16, f 80 16, f 96 32, f 128 32, BitVec.ofNat 32 (f 160 32), f 192 8, f 200 1 == 1, f 201 1 == 1,
    f 208 16, f 224 32⟩

/-- Object n of a context on core k, with its fields. -/
def State.objVal? (s : State) (k ctx n : Nat) : Option (Obj × ObjVal) :=
  ((s.cctx? k ctx).bind fun c => c.obj? n).map fun o => (o, ObjVal.ofBytes (s.sliceRead k o.addr 32))

/-- bini (09 R199, R236). -/
def execBini (o : Op) (s : State) : Res :=
  issue { g := o.g, phase := .C, who := .any, reads := [rdS o.a, rdS o.b], writes := [] } 8 s fun x =>
    match s.core? x.core, s.cctx? x.core x.ctx with
    | some c, some cc =>
      let b := x.s o.b.reg
      let a := (x.s o.a.reg).toNat
      let scope := b.getLsbD 8
      let named := match s.workgroup? x.core x.slot with
        | some w => !x.isCt && (w.shape != 0 || decide (1 < w.wpc)) | none => false
      if bits b 9 7 ≠ 0 ∨ (scope = true ∧ named = false) then trapR x s 0x02
      else if a % 32 ≠ 0 then trapR x s 0x08 x.sel (a % 2 ^ 48)
      else match s.ownExtent x a 32 with
        | none => trapR x s 0x07 x.sel (a % 2 ^ 48)
        | some off =>
          let k := bits b 0 8
          let expa := bits b 16 16
          if expa ≠ 0 then
            if (cc.obj? k).isSome || decide (256 ≤ c.objCount) || c.meetsWing off 32 || c.meetsObj off 32 then
              trapR x s 0x02
            else
              let v : ObjVal := ⟨scope, expa, 0, bits b 32 32, 0, 0, k, false, false, 0, 0⟩
              .next (((s.sliceWrite x.core off v.bytes).modCctx x.core x.ctx fun cc =>
                { cc with objs := cc.objs ++ [⟨k, off, x.owner⟩] }).advance x 8)
          else
            let waiting := c.groups.any (fun g => match g with
                | some g => g.ctx == x.ctx && g.splits.any fun sp => match sp with
                  | some sp => sp.wait == .bwt k | none => false
                | none => false) || cc.wait == .bwt k
            match s.objVal? x.core x.ctx k with
            | none => trapR x s 0x02
            | some (ob, v) =>
              if let some w := s.objBad x.core ob then eccR x s 1 w
              else if ob.owner != x.owner || cc.wings.any (fun w => w.bar == some k) || v.arr != 0 || v.byt != 0
                  || v.narr != 0 || v.nbyt != 0 || waiting then trapR x s 0x02
              else .next (((s.sliceWrite x.core ob.addr (List.replicate 32 0)).modCctx x.core x.ctx fun cc =>
                { cc with objs := cc.objs.filter fun q => q.k != k }).advance x 8)
    | _, _ => .fault .noThread

/-- R201: completes generations while both counts stand; the number of flips asked for comes along. -/
def ObjVal.settle : Nat → ObjVal → ObjVal × Nat
  | 0, v => (v, 0)
  | n + 1, v =>
    if v.arr = v.expa ∧ v.byt = v.expb then
      let arr := min v.narr v.expa
      let byt := min v.nbyt v.expb
      let r := ObjVal.settle n { v with
        arr := arr, byt := byt, narr := v.narr - arr, nbyt := v.nbyt - byt, flp := v.nflp, nflp := false, gen := v.gen + 1 }
      (r.1, r.2 + if v.flp then 1 else 0)
    else (v, 0)

/-- Flips a context's pairs of an object n times. -/
def flipTimes : Nat → Core → Nat → Nat → Core
  | 0, c, _, _ => c
  | n + 1, c, ctx, k => flipTimes n (c.flipBound ctx (some k)) ctx k

/-- Stores an object's new fields after completing what is complete (09 R201). -/
def State.putObj (s : State) (k ctx : Nat) (o : Obj) (v : ObjVal) : State :=
  let r := v.settle (v.narr + 2)
  s.modCore k fun c => flipTimes r.2 (c.storeBytes o.addr r.1.bytes) ctx o.k

/-- The difference d of R200. -/
def genDiff (g gen : Word) : Int := (g - gen).toInt

/-- An arrival applies to an object; none when it is held (09 R200). -/
def ObjVal.arrive (v : ObjVal) (g : Word) (flip : Bool) : Option ObjVal :=
  let d := genDiff g v.gen
  if 2 ≤ d then none
  else if d = 1 ∨ v.arr = v.expa then some { v with narr := v.narr + 1, nflp := v.nflp || flip }
  else some { v with arr := v.arr + 1, flp := v.flp || flip }

/-- The generation that an arrival counts toward when it applies to an object (09 R200, R201): what ran beyond the need of the
next generations is carried forward. -/
def ObjVal.countsFor (v : ObjVal) (g : Word) : Word :=
  if genDiff g v.gen = 1 ∨ v.arr = v.expa then v.gen + 1 + BitVec.ofNat 32 (v.narr / v.expa) else v.gen

/-- A deposit of n bytes is counted toward an object (09 R200); g none is the object's own generation. -/
def ObjVal.countBytes (v : ObjVal) (g : Option Word) (n : Nat) : ObjVal :=
  let d := match g with | some g => genDiff g v.gen | none => 0
  if d ≤ 0 then
    let cur := min n (v.expb - v.byt)
    { v with byt := v.byt + cur, nbyt := v.nbyt + (n - cur) }
  else { v with nbyt := v.nbyt + n }

/-- The cores of the cluster of a workgroup on core k: its shape's block around that core (01 R10). -/
def Workgroup.cluster (w : Workgroup) (k : Nat) : List Nat :=
  let b := k - (if w.cpos.getLsbD 4 then 1 else 0) - (if w.cpos.getLsbD 5 then 8 else 0)
  match w.shape with
  | 0 => [b]
  | 1 => [b, b + 1]
  | 2 => [b, b + 8]
  | _ => [b, b + 1, b + 8, b + 9]
/-- The cores of the cluster of the issuing group. -/
def State.clusterCores (s : State) (x : Iss) : List Nat :=
  match s.workgroup? x.core x.slot with
  | none => [x.core]
  | some w => w.cluster x.core

/-- Sends arrivals of a generation to replicas (09 R200). -/
def State.sendArrivals (s : State) (x : Iss) (k : Nat) (g : Word) (flip : Bool) (targets : List Nat) : State :=
  targets.foldl (fun s t =>
    let (id, s1) := s.fresh
    { s1 with arrivals := s1.arrivals ++ [⟨id, x.core, x.ctx, x.party, t, k, g, flip, false⟩] }) s

/-- barv (09 R200). -/
def execBarv (o : Op) (s : State) : Res :=
  issue { g := o.g, phase := .C, who := .any, reads := [rdS o.a], writes := [atS o.d] } 8 s fun x =>
    let a := x.s o.a.reg
    let cl := o.fn.getLsbD 0
    match s.objVal? x.core x.ctx (bits a 0 8) with
    | none => trapR x s 0x02
    | some (ob, v) =>
      if let some w := s.objBad x.core ob then eccR x s 1 w
      else if bits a 8 56 ≠ 0 ∨ v.scope ≠ cl ∨ (cl = true ∧ x.isCt = true) then trapR x s 0x02
      else .next (((s.setS x o.d (v.gen.setWidth 64)).sendArrivals x (bits a 0 8) v.gen (o.fn.getLsbD 1)
        (if cl then s.clusterCores x else [x.core])).advance x 8)

/-- bwt (09 R201): it waits while the own replica is still in the generation of the tag. -/
def execBwt (o : Op) (s : State) : Res :=
  issue { g := o.g, phase := .C, who := .any, reads := [rdS o.a, rdS o.b], writes := [] } 8 s fun x =>
    let a := x.s o.a.reg
    match s.objVal? x.core x.ctx (bits a 0 8) with
    | none => trapR x (s.setWait x .none) 0x02
    | some (ob, v) =>
      if let some w := s.objBad x.core ob then eccR x (s.setWait x .none) 1 w
      else if bits a 8 56 ≠ 0 then trapR x (s.setWait x .none) 0x02
      else if v.gen = (x.s o.b.reg).lo then waitR (s.setWait x (.bwt (bits a 0 8)))
      else .next (s.advance x 8)

/-- The address that an exchange-fault record names (09 R196). -/
def targetAddr (k off : Nat) : Nat := (0x000100000000 + k * 0x04000000 + off) % 2 ^ 48

/-- The issuer of an arrival, as far as a fault record can name it; the PC of its barv is not kept (log 96). -/
def State.arrivalWho (s : State) (a : Arrival) : Issuer :=
  let i := s.identity a.core (match a.party with | .group slot => .group slot 0 | .ct _ _ => .userCt)
  { core := a.core, ctx := a.ctx, party := some a.party, pc := ⟨0, 0⟩, launch := i.1, wgid := i.2.1, gidx := i.2.2 }

/-- Applies an arrival at its target, or holds it in its core (09 R200). An object that cannot be read without an error is
not changed: the arrival is lost, and the error recorded as that of an engine read (24 R349, log 96). -/
def State.tryArrival (s : State) (a : Arrival) : State :=
  match s.objVal? a.target a.ctx a.k with
  | none => { s with arrivals := s.arrivals.map fun b => if b.id = a.id then { b with held := true } else b }
  | some (o, v) =>
    if let some w := s.objBad a.target o then
      (State.countEcc { s with arrivals := s.arrivals.filter fun b => b.id != a.id } a.target).deferFault (s.arrivalWho a)
        5 0x1B (targetAddr a.target w)
    else match v.arrive a.gen a.flip with
    | none => { s with arrivals := s.arrivals.map fun b => if b.id = a.id then { b with held := true } else b }
    | some v' => { s with arrivals := s.arrivals.filter fun b => b.id != a.id }.putObj a.target a.ctx o v'

/-- A deposit travels on the word network: up to 64 bytes (26 R359). -/
def Deposit.small (d : Deposit) : Bool := decide (d.bytes.length ≤ 64)

/-- No packet that a core has sent to a target earlier than packet id, on the same network, is still on its way; word says
which network it is: arrivals and small deposits share the word network (26 R359, R361). -/
def State.netFirst (s : State) (core target id : Nat) (word : Bool) : Bool :=
  (s.deposits.all fun d => d.verdict.isSome || d.who.core != core || d.target != target || d.small != word
    || decide (id ≤ d.id))
  && (!word || s.arrivals.all fun a => a.held || a.core != core || a.target != target || decide (id ≤ a.id))

/-- BARRIER_ARRIVAL (09 R200): arrivals reach a replica in the order in which its network keeps them (26 R361). -/
def execBarrierArrival (id : Nat) (s : State) : Res :=
  match s.arrivals.find? fun a => a.id == id && !a.held with
  | none => .fault (.notEnabled "BARRIER_ARRIVAL")
  | some a =>
    if s.netFirst a.core a.target a.id true then .next (s.tryArrival a) else .fault (.notEnabled "BARRIER_ARRIVAL")

/-- HELD_ARRIVAL_RELEASE (09 R200): the replica is there and has reached the generation before. -/
def execHeldArrivalRelease (id : Nat) (s : State) : Res :=
  match s.arrivals.find? fun a => a.id == id && a.held with
  | none => .fault (.notEnabled "HELD_ARRIVAL_RELEASE")
  | some a =>
    match s.objVal? a.target a.ctx a.k with
    | none => .fault (.notEnabled "HELD_ARRIVAL_RELEASE")
    | some (_, v) =>
      if (v.arrive a.gen a.flip).isSome then .next (s.tryArrival a) else .fault (.notEnabled "HELD_ARRIVAL_RELEASE")

/-! Deposits arrive (09 R196). -/

/-- R196 for a deposit: the pair it is written to, when it is accepted. -/
def State.depositPair (s : State) (d : Deposit) : Option Wing :=
  match (s.cctx? d.target d.who.ctx).bind fun c => c.wing? d.handle with
  | none => none
  | some w =>
    let barOk := match d.bar with | none => true | some (n, _) => (s.objVal? d.target d.who.ctx n).isSome
    if s.coreOn d.target && (d.extent == 0 || decide (d.offset + d.extent ≤ w.size)) && barOk then some w else none

/-- Marks a deposit as judged; its acknowledgement goes out now. -/
def State.judge (s : State) (id : Nat) (ok : Bool) : State :=
  { s with
    nextId := s.nextId + 1
    deposits := s.deposits.map fun d => if d.id = id then { d with verdict := some ok, judged := s.nextId } else d }

/-- The lowest bank word in error that an accepted deposit would read: one that it writes only in part, or one of the
object that counts it (24 R350). -/
def State.depositBad (s : State) (d : Deposit) (w : Wing) : Option Nat :=
  match s.core? d.target with
  | none => none
  | some c =>
    let part := c.poison.filter fun p =>
      let hit := (List.range 16).filter fun i => d.bytes.any fun b => w.base + w.size + d.offset + b.1 == 16 * p + i
      !hit.isEmpty && decide (hit.length < 16)
    let obj := match d.bar with
      | none => none
      | some (n, _) => (s.objVal? d.target d.who.ctx n).bind fun o => s.objBad d.target o.1
    least (part.map (16 * ·) ++ obj.toList)

/-- DEPOSIT_ARRIVAL (09 R196, R200): deposits of one party to one target arrive in issue order, and those of one core on
one network in the order in which they were sent (26 R361). One that would read a word in error writes and counts nothing,
and ends with a deferred fault (24 R350, log 96). -/
def execDepositArrival (id : Nat) (s : State) : Res :=
  match s.deposits.find? fun d => d.id == id && d.verdict.isNone with
  | none => .fault (.notEnabled "DEPOSIT_ARRIVAL")
  | some d =>
    let first := s.deposits.find? fun e => e.verdict.isNone && e.target == d.target && e.who.core == d.who.core
      && e.ref.party == d.ref.party
    if first.map Deposit.id ≠ some id ∨ s.netFirst d.who.core d.target d.id d.small = false then .fault (.notEnabled "DEPOSIT_ARRIVAL")
    else match s.depositPair d with
      | none => .next ((s.deferFault d.who 5 0x1A (targetAddr d.target d.offset)).judge id false)
      | some w =>
        if let some e := s.depositBad d w then
          .next (((s.countEcc d.target).deferFault d.who 5 0x1B (targetAddr d.target e)).judge id false)
        else
        let s1 := s.modCore d.target fun c =>
          d.bytes.foldl (fun c b => c.storeBytes (w.base + w.size + d.offset + b.1) [b.2]) c
        let s2 := s1.modCore d.target fun c => { c with poison := c.poison.filter fun p =>
          !((List.range 16).all fun i => d.bytes.any fun b => w.base + w.size + d.offset + b.1 == 16 * p + i) }
        let s3 := match d.bar with
          | none => s2
          | some (n, g) => match s2.objVal? d.target d.who.ctx n with
            | none => s2
            | some (o, v) => s2.putObj d.target d.who.ctx o (v.countBytes g d.count)
        .next (s3.judge id true)

/-- DEPOSIT_ACK (08 R178, 09 R196): the last acknowledgement of an operation completes it. Those from one core to another
arrive in the order in which they were sent (26 R361). -/
def execDepositAck (id : Nat) (s : State) : Res :=
  match s.deposits.find? fun d => d.id == id && d.verdict.isSome with
  | none => .fault (.notEnabled "DEPOSIT_ACK")
  | some d =>
    let first := s.deposits.all fun e => e.verdict.isNone || e.who.core != d.who.core || e.target != d.target
      || decide (d.judged ≤ e.judged)
    if !first then .fault (.notEnabled "DEPOSIT_ACK") else
    let bad := d.bad || d.verdict == some false
    let rest := s.deposits.filter fun e => e.id != id
    if rest.any fun e => e.opId == d.opId then
      .next { s with deposits := rest.map fun e => if e.opId = d.opId then { e with bad := e.bad || bad } else e }
    else .next ({ s with deposits := rest }.complete d.who.core d.ref bad)

/-! parv and pcnt (09 R186 to R189). -/

/-- parv (09 R186, R187): the thread waits; GROUP_PARK or CT_ARRIVE makes it count as arrived. -/
def execParv (o : B64) (s : State) : Res :=
  issue { g := o.g, phase := .C, who := .any, reads := [], writes := [], noSup := true } 8 s fun x =>
    match x.grp with
    | none => waitR (s.setWait x (.parv (x.pc.add (units4 o.t16))))
    | some g =>
      if o.t16 ≠ 0#16 then trapR x s 0x02
      else if 1 < g.splitCount ∨ g.recs.any Option.isSome = true then trapR x s 0x0B
      else waitR (s.setWait x (.parv x.pc))

/-- Every register of a uniform state is full. -/
def Uni.full (u : Uni) : Bool := u.sEmpty == 0

/-- GROUP_PARK (09 R186, 15 R263): counters zero and registers full, a parv with no pending fault parks the group; one
that finds a latch occupied breaks it and traps itself (11 R225, 15 R266). -/
def execGroupPark (core slot : Nat) (s : State) : Res :=
  match s.group? core slot with
  | none => .fault (.notEnabled "GROUP_PARK")
  | some g =>
    match g.held (fun w => match w with | .parv _ => true | _ => false) with
    | none => .fault (.notEnabled "GROUP_PARK")
    | some e =>
      match s.issAt core slot e with
      | none => .fault (.notEnabled "GROUP_PARK")
      | some x =>
        if !s.ctxLive core x.ctx || g.frozen || g.parked || !g.uni.idle || !g.uni.full || g.vEmpty != 0 then .fault (.notEnabled "GROUP_PARK")
        else if g.uni.pend ≠ 0 then deliverPending x (s.setWait x .none) (BitVec.allOnes 5)
        else if s.holdsLatch core g then
          .next (s.mismatch (x :: s.broken core g))
        else .next (s.modGroup core slot fun g => { g with parked := true, uni := { g.uni with traces := [] } })

/-- The user CT of a context as an issuer, whether or not it can issue. -/
def State.ctAt (s : State) (k ctx : Nat) : Option Iss :=
  (s.cctx? k ctx).map fun c => ⟨.ct k ctx, k, ctx, false, 0, 0, none, c.user.uni, c.user.flow, LaneSet.all, LaneSet.all⟩

/-- CT_ARRIVE (09 R187). -/
def execCtArrive (core ctx : Nat) (s : State) : Res :=
  match s.cctx? core ctx, s.ctAt core ctx with
  | some c, some x =>
    match c.wait with
    | .parv l =>
      if !s.ctxLive core ctx || !c.running || c.stopped || !c.user.uni.idle || !c.user.uni.full then .fault (.notEnabled "CT_ARRIVE")
      else if c.user.uni.pend ≠ 0 then deliverPending x (s.setWait x .none) (BitVec.allOnes 5)
      else .next (s.modCctx core ctx fun c =>
        { c with wait := .arrived l, user := { c.user with uni := { c.user.uni with traces := [] } } })
    | _ => .fault (.notEnabled "CT_ARRIVE")
  | _, _ => .fault (.notEnabled "CT_ARRIVE")

/-- pcnt (09 R189). -/
def execPcnt (o : Op) (s : State) : Res :=
  issue { Req.plain o.g with writes := [atS o.d] } 8 s fun x => .next ((s.setS x o.d s.phase).advance x 8)

end Sys2Proof.Machine
end

