-- ==== Sys2Proof/Machine/Exchange.lean ====
section
/-! DEFINITION. Exchange programs: transfers, stages and their end (09 R202 to R210). -/
namespace Sys2Proof.Machine

/-! Issue (09 R203). -/

/-- Issues an exchange transfer: class X, control threads only. -/
def execXfer (i : Instr) (o : Op) (readsB : Bool) (s : State) : Res :=
  issue { g := o.g, phase := .X, who := .ct, writes := [],
          reads := [atS o.d, rdS o.a] ++ (if readsB then [rdS o.b] else []) ++ countReads o } 16 s fun x =>
    if countTooBig x o then trapR x s 0x02
    else barGate x s o (engineR x s 0 16 i [x.s o.d, x.s o.a.reg, x.count o, x.s o.b.reg, s.genAtIssue x o])

/-- xmov (09 R203 to R205). -/
def execXmov (o : Op) (s : State) : Res := execXfer (.xmov o) o false s
/-- xput (09 R203 to R205). -/
def execXput (o : Op) (s : State) : Res := execXfer (.xput o) o false s
/-- xmc (09 R203 to R205). -/
def execXmc (o : Op) (s : State) : Res := execXfer (.xmc o) o true s
/-- xgm (09 R203 to R205). -/
def execXgm (o : Op) (s : State) : Res := execXfer (.xgm o) o false s
/-- xadd (09 R203, R204, R207). -/
def execXadd (o : Op) (s : State) : Res := execXfer (.xadd o) o false s

/-! Operand checks (09 R204). -/

/-- A byte of core j's slice that an exchange transfer of a context may touch: its own region there, and no back half
(09 R192, R204). -/
def State.xSliceOk (s : State) (ctx j off : Nat) : Bool :=
  s.coreOn j && (match s.cctx? j ctx, s.core? j with
    | some c, some d => c.resident && decide (c.slbase ≤ off ∧ off < c.sllim ∧ off < 0x03C00000) && !d.inBack off
    | _, _ => false)

/-- A byte that R204 lets a transfer name; dv says that device-virtual memory is of the right kind. -/
def State.xByteOk (s : State) (k ctx : Nat) (dv : Bool) (a : Nat) : Bool :=
  match rangeOf k a with
  | .slice j off => s.xSliceOk ctx j off
  | .gddr => dv
  | .fabric => dv
  | .reserved => false

/-- The lowest failing address of an operand. -/
def State.xFails (s : State) (k ctx a n : Nat) (dv : Bool) : Option Nat :=
  least ((List.range n).filterMap fun i =>
    let b := (a + i) % 2 ^ 48
    if s.xByteOk k ctx dv b then none else some (aliasForm k b))

/-- The lowest address of a written operand that lies in a barrier object: a deferred fault 0x07 (09 R198). -/
def State.xObject (s : State) (k a n : Nat) : Option Nat :=
  least ((List.range n).filterMap fun i =>
    let b := (a + i) % 2 ^ 48
    match rangeOf k b with
    | .slice j off => (match s.core? j with | some c => if c.inObj off then some (aliasForm k b) else none | none => none)
    | _ => none)

/-- The lowest word in error that an operand meets: a bank word that is read, or written only in part, or GDDR 7 that is
read (24 R349, R350). -/
def State.xPoison (s : State) (k ctx a n : Nat) (write : Bool) : Option Nat :=
  match rangeOf k a with
  | .slice j off => (match s.core? j with
      | some c => (c.poisoned write off n).map fun w => aliasForm k (a - off % 0x04000000 + 16 * w)
      | none => none)
  | _ => if write then none else s.virtBad ctx a n

/-- The least of two optional addresses. -/
def least2 (a b : Option Nat) : Option Nat := least (a.toList ++ b.toList)

/-! Moving bytes. -/

/-- A byte that a transfer reads: as it stood at the start of the stage, or as it is now where the two differ and the
operation's free choice says so (09 R202). -/
def stageByte (id i : Nat) (old new : Byte) : Byte := if old = new ∨ Config.stageOld id i then old else new

/-- The offset lies in a pair that is bound to a barrier, or in an object: its bytes may change in a stage by a flip or a
count, which is no transfer, so a transfer reads what they were at the start of the stage (09 R202), also where another transfer
or an sst of the stage writes them too (log 128: DESIGN CHOICE). -/
def Core.stageFixed (c : Core) (off : Nat) : Bool :=
  c.inObj off || c.cctx.any fun cc => cc.wings.any fun w =>
    w.bar.isSome && decide (w.base ≤ off ∧ off < w.base + 2 * w.size)

/-- Bytes of core j's slice that operation id of a context reads (09 R202). -/
def State.stageSlice (s : State) (id ctx j off n : Nat) : List Byte :=
  match s.core? j, s.cctx? j ctx with
  | some c, some cc => (List.range n).map fun i =>
    let old := cc.stage.read (off + i)
    if c.stageFixed (off + i) then old else stageByte id i old (c.slice.read (off + i))
  | _, _ => []

/-- The pieces of a device-virtual operand that operation id reads, and the faults of its chunks (08 R177, 09 R202): the
bytes as they stood at the start of the stage, but for those that a transfer of the stage has written. -/
def State.stageVirt (s : State) (id ctx a n : Nat) : List (Nat × List Byte) × List (Nat × Nat) :=
  let d := (s.ctx? ctx).getD Ctx.reset
  (chunks a n).foldl (fun r c =>
    match s.chunkAt ctx c.1 c.2 false with
    | none => (r.1, r.2 ++ [s.walkFault ctx c.1 false])
    | some p =>
      let now := s.physRead p c.2
      let start := if p.fabric then d.stageRemote else d.stageGddr
      let bs := (List.range c.2).map fun i =>
        let old := start.read (p.pa + i)
        if d.stagePut.contains (p.key + i) then stageByte id (c.1 - a + i) old (now.getD i 0) else old
      (r.1 ++ [(c.1 - a, bs)], r.2)) ([], [])

/-- The pieces of an operand and the faults of its chunks. -/
def State.xRead (s : State) (id k ctx a n : Nat) : List (Nat × List Byte) × List (Nat × Nat) :=
  match rangeOf k a with
  | .slice j off => ([(0, s.stageSlice id ctx j off n)], [])
  | _ => s.stageVirt id ctx a n

/-- The places that pieces written at a device-virtual address come to. -/
def State.putKeys (s : State) (ctx a : Nat) (pieces : List (Nat × List Byte)) : List Nat :=
  pieces.flatMap fun p => (chunks (a + p.1) p.2.length).flatMap fun c => match s.chunkAt ctx c.1 c.2 true with
    | none => []
    | some q => (List.range c.2).map fun i => q.key + i

/-- Writes pieces to an operand; what they change of GDDR 7 and the fabric is noted for the stage (09 R202). -/
def State.xWrite (s : State) (k ctx a : Nat) (pieces : List (Nat × List Byte)) : State × List (Nat × Nat) :=
  match rangeOf k a with
  | .slice j off => (pieces.foldl (fun s p => s.sliceWrite j (off + p.1) p.2) s, [])
  | _ => (s.modCtx ctx fun d => { d with stagePut := d.stagePut ++ s.putKeys ctx a pieces }).copyWrite k ctx a pieces

/-- xmov, xgm and xput once their operands have passed (09 R205). -/
def State.xMove (s : State) (op : EngineOp) (pattern : Bool) (n : Nat) : State :=
  let k := op.who.core
  let ctx := op.who.ctx
  let b := wrap48 (op.val 0).toNat
  let a := wrap48 (op.val 1).toNat
  let src := if pattern then
      ([(0, (List.range n).map fun j => (op.val 1).extractLsb' (8 * (j % 8)) 8)], [])
    else s.xRead op.id k ctx a n
  let w := s.xWrite k ctx b (if pattern then src.1 else s.aliasPieces op.id ctx a b n src.1)
  w.1.endOp op 5 (leastFault (src.2 ++ w.2))

/-- The cores of a core mask. -/
def maskCores (m : DWord) : List Nat := (List.range 64).filter fun k => m.getLsbD k

/-- A plain multicast: each destination is judged and written alone (09 R204, R205). -/
def State.xmcPlain (s : State) (op : EngineOp) (n : Nat) (data : List Byte) : State :=
  let off := (op.val 0).toNat
  let r := (maskCores (op.val 3)).foldl (fun (r : State × Bool) t =>
    let bad := least ((List.range n).filterMap fun i =>
      if r.1.xSliceOk op.who.ctx t (off + i) then none else some (off + i))
    match bad, r.1.xObject t off n, r.1.xPoison t op.who.ctx off n true with
    | some b, _, _ => (r.1.deferFault op.who 5 0x1A (targetAddr t b), true)
    | none, some b, _ => (r.1.deferFault op.who 5 0x07 (targetAddr t b), true)
    | none, none, some b => ((r.1.countEcc t).deferFault op.who 5 0x1B (targetAddr t b), true)
    | none, none, none => (r.1.sliceWrite t off data, r.2)) (s, false)
  (r.1.dropOp op.who.core op.id).completeOp op r.2

/-- A multicast into back wings: one deposit for each core of the mask (09 R205). -/
def State.xmcDep (s : State) (op : EngineOp) (o : Op) (n : Nat) (data : List Byte) : State :=
  match op.ref, maskCores (op.val 3) with
  | some r, t :: ts =>
    ((t :: ts).foldl (fun s t => s.sendDeposit op r o t (op.val 0).toNat n n (offsetBytes data)) s).dropOp op.who.core op.id
  | _, _ => s.endOp op 5 none

/-- Bytes of an xadd element (09 Table 9.2). -/
def xaddBytes (t : Nat) : Nat := if t ≤ 1 then 4 else 2

/-- The contributions of an xadd (09 R207). Those of a context that is detached, and of operations that had issued when it
was detached, are discarded (23 R336). -/
def State.xAddQueue (s : State) (op : EngineOp) (t n : Nat) : State :=
  let w := xaddBytes t
  let k := op.who.core
  match rangeOf k (wrap48 (op.val 1).toNat), rangeOf k (wrap48 (op.val 0).toNat) with
  | .slice j a, .slice d b =>
    let src := s.stageSlice op.id op.who.ctx j a (n * w)
    s.modCtx op.who.ctx fun c => if c.detached || decide (op.id < c.voidBefore) then c else
      { c with xadds := c.xadds ++ (List.range n).map fun i =>
          ⟨op.id, op.who, k, t, d, b + w * i, BitVec.ofNat 32 (ofLE ((src.drop (w * i)).take w))⟩ }
  | _, _ => s

/-- The fault of a transfer whose operands are n bytes written at b and m bytes read at a, where used: first what R204
drops, then a written object (R198), then a word in error (24 R349). -/
def State.xFault (s : State) (op : EngineOp) (dst src : Option (Nat × Nat)) (dv : Bool) : Option (Nat × Nat) :=
  let k := op.who.core
  let ctx := op.who.ctx
  let on := fun (o : Option (Nat × Nat)) (f : Nat → Nat → Option Nat) => o.bind fun e => f e.1 e.2
  let first := fun (cause : Nat) (f : Option Nat) => f.map fun a => (cause, a)
  (first 0x1A (least2 (on dst fun a n => s.xFails k ctx a n dv) (on src fun a n => s.xFails k ctx a n dv))).orElse fun _ =>
    (first 0x07 (on dst fun a n => s.xObject k a n)).orElse fun _ =>
      first 0x1B (least2 (on dst fun a n => s.xPoison k ctx a n true) (on src fun a n => s.xPoison k ctx a n false))

/-- Runs an exchange transfer (09 R204, R205, R207). -/
def State.runXfer (s : State) (op : EngineOp) : Option State :=
  let k := op.who.core
  let ctx := op.who.ctx
  let n := (op.val 2).toNat
  let b := wrap48 (op.val 0).toNat
  let a := wrap48 (op.val 1).toNat
  let ex := fun (f : Option (Nat × Nat)) (good : State) => match f with
    | some e => some (s.endOp op 5 (some e))
    | none => some good
  match op.instr with
  | .xmov _ =>
    if n = 0 then some (s.endOp op 5 none) else ex (s.xFault op (some (b, n)) (some (a, n)) false) (s.xMove op false n)
  | .xput _ =>
    if n = 0 then some (s.endOp op 5 none) else ex (s.xFault op (some (b, n)) none true) (s.xMove op true n)
  | .xgm _ =>
    if n = 0 then some (s.endOp op 5 none)
    else
      let kind := if !isVirtual a && !isVirtual b && (s.xFails k ctx b n true).isNone && (s.xFails k ctx a n true).isNone
        then (least [aliasForm k a, aliasForm k b]).map fun e => (0x1A, e) else none
      ex (kind.orElse fun _ => s.xFault op (some (b, n)) (some (a, n)) true) (s.xMove op false n)
  | .xmc o =>
    if n = 0 then some (s.endOp op 5 none)
    else
      let data := ((s.xRead op.id k ctx a n).1.map Prod.snd).flatten
      ex (s.xFault op none (some (a, n)) false) (if ebWV o then s.xmcDep op o n data else s.xmcPlain op n data)
  | .xadd o =>
    let t := bits o.fn 0 2
    let w := xaddBytes t
    if n = 0 then some (s.endOp op 5 none)
    else
      let kind := least2 (s.xFails k ctx b (n * w) false) (s.xFails k ctx a (n * w) false)
      let skew := least (([b, a].filter fun v => v % w != 0).map (aliasForm k))
      let f := (kind.map fun e => (0x1A, e)).orElse fun _ => (skew.map fun e => (0x08, e)).orElse fun _ =>
        (s.xFault op (some (b, n * w)) (some (a, n * w)) false).orElse fun _ =>
          (s.xPoison k ctx b (n * w) false).map fun e => (0x1B, e)
      ex f ((s.xAddQueue op t n).endOp op 5 none)
  | _ => none

/-- The cores whose slices a transfer of n bytes writes. -/
def EngineOp.targets (op : EngineOp) : List Nat :=
  let a := wrap48 (op.val 0).toNat
  match op.instr with
  | .xmc o => if ebWV o then [] else maskCores (op.val 3)
  | .xadd _ => []
  | _ => match rangeOf op.who.core a with | .slice j _ => [j] | _ => []

/-- A transfer's packets follow the deposits that its core has sent earlier to the same target over the bulk network (26
R359, R361). -/
def State.behindDeposits (s : State) (op : EngineOp) : Bool :=
  s.deposits.any fun d => d.verdict.isNone && !d.small && d.who.core == op.who.core && op.targets.contains d.target

/-- EXCHANGE_TRANSFER_EXECUTE (09 R204, R205). -/
def execExchangeTransferExecute (core id : Nat) (s : State) : Res :=
  match (s.core? core).bind fun c => c.nextOp id fun _ => true with
  | none => .fault (.notEnabled "EXCHANGE_TRANSFER_EXECUTE")
  | some op =>
    if s.behindDeposits op then .fault (.notEnabled "EXCHANGE_TRANSFER_EXECUTE")
    else match s.runXfer op with
    | some s' => .next s'
    | none => .fault (.notEnabled "EXCHANGE_TRANSFER_EXECUTE")

/-! Stages (09 R207 to R209). -/

/-- A fault of an operation that has already been counted complete: its record, and its pending bit (08 R184). -/
def State.faultLate (s : State) (w : Issuer) (recCls cls cause a : Nat) : State :=
  let s1 := (if cause = 0x1B then s.countEcc w.core else s).deferFault w recCls cause a
  match w.party with | some p => s1.modParty w.core p fun u => u.setPend cls | none => s1

/-- Adds one contribution to its element (09 R207), on top of what a plain transfer of the stage has written there (log 127:
DESIGN CHOICE); no flag is set. An element whose bank word is in error by now stays as it
is, and gives a deferred fault 0x1B (24 R349, R350, log 115: DEDUCED). -/
def State.applyXadd (s : State) (c : XAdd) : State :=
  let w := xaddBytes c.type
  match (s.core? c.target).bind fun d => d.poisoned false c.off w with
  | some e => s.faultLate c.who 5 0 0x1B (aliasForm c.who.core (targetAddr c.target (16 * e)))
  | none =>
  let x := s.sliceLE c.target c.off w
  let y := match c.type with
    | 1 => (x + c.value.toNat) % 2 ^ 32
    | t =>
      let f : FloatFmt := match t with | 0 => .f32 | 2 => .f16 | _ => .bf16
      ((sumFV [decodeFloat f x, decodeFloat f c.value.toNat] false).round f RCtl.rne).code
  s.sliceWrite c.target c.off (toLE w y)

/-- Puts a contribution behind those of operations that issued no later. -/
def insertXadd (c : XAdd) : List XAdd → List XAdd
  | [] => [c]
  | d :: r => if d.op ≤ c.op then d :: insertXadd c r else c :: d :: r
/-- Contributions in the order in which their operations issued (09 R207). -/
def issueOrder (l : List XAdd) : List XAdd := l.foldl (fun r c => insertXadd c r) []

/-- R207: applies the contributions of a context's stage in ascending issuing core, then issue order. -/
def State.applyXadds (s : State) (ctx : Nat) : State :=
  match s.ctx? ctx with
  | none => s
  | some d =>
    let s1 := (List.range 64).foldl (fun s k =>
      (issueOrder (d.xadds.filter fun c => c.core == k)).foldl State.applyXadd s) s
    s1.modCtx ctx fun d => { d with xadds := [] }

/-- xend (09 R208). -/
def execXend (o : Op) (s : State) : Res :=
  issue { g := o.g, phase := .X, who := .ct, reads := [], writes := [], noSup := true } 8 s fun x =>
    .next ((s.advance x 8).setWait x .xend)

/-- xsync (09 R209): the CT waits; XSYNC_STAGE_END lets it go on. -/
def execXsync (o : Op) (s : State) : Res :=
  issue { g := o.g, phase := .X, who := .ct, reads := [], writes := [], noSup := true } 8 s fun x =>
    waitR (s.setWait x .xsync)

/-- The cores on which a context is resident. -/
def State.residentOn (s : State) (ctx : Nat) : List Nat :=
  (List.range 64).filter fun k => match s.cctx? k ctx with | some c => c.resident | none => false

/-- No transfer of a context is left, nor a byte of one that is still to be written (09 R191, R209). -/
def State.transfersDone (s : State) (ctx : Nat) : Bool :=
  s.cores.all (fun c => c.ops.all (fun o => o.who.ctx != ctx) && c.nodes.all fun n => n.ctx != ctx || n.left.isEmpty)
    && s.deposits.all fun d => d.who.ctx != ctx

/-- A stage of a context starts: its transfers read memory as it is now (09 R202). -/
def State.startStage (s : State) (ctx : Nat) : State :=
  ((s.residentOn ctx).foldl (fun s k => s.modCore k fun c => c.modCctx ctx fun cc => { cc with stage := c.slice }) s).modCtx ctx
    fun d => { d with stageGddr := s.gddr, stageRemote := s.remote, stagePut := [] }

/-- The stage is over: nothing of its start is kept. -/
def State.dropStage (s : State) (ctx : Nat) : State :=
  ((List.range 64).foldl (fun s k => s.modCctx k ctx fun cc => { cc with stage := [] }) s).modCtx ctx
    fun d => { d with stageGddr := [], stageRemote := [], stagePut := [] }

/-- XSYNC_STAGE_END (09 R209). -/
def execXsyncStageEnd (ctx : Nat) (s : State) : Res :=
  let ks := s.residentOn ctx
  let at_ := fun (k : Nat) (p : CoreCtx → Bool) => match s.cctx? k ctx with | some c => p c | none => false
  let member := match s.ctx? ctx with | some d => d.member | none => false
  let here := ks.filter fun k => at_ k fun c => c.running && c.wait == .xsync && !c.stopped
  if s.phase.getLsbD 0 && member && !here.isEmpty
      && ks.all (fun k => at_ k fun c => !c.running || c.wait == .xend || (c.wait == .xsync && !c.stopped))
      && s.transfersDone ctx then
    .next (here.foldl (fun s k => match s.ctAt k ctx with | some x => s.advance x 8 | none => s) ((s.applyXadds ctx).startStage ctx))
  else .fault (.notEnabled "XSYNC_STAGE_END")

end Sys2Proof.Machine
end

