-- ==== Sys2Proof/Machine/Graph.lean ====
section
/-! DEFINITION. The path-vertex graph: pool, vertex reads, weights, requests and the boundary (13 R237 to R253). Only the
pool's slots are allocated within a superstep, so a read of the pool is a read of the snapshot. -/
namespace Sys2Proof.Machine

/-! The pool (13 R237 to R240). -/

/-- A slot nobody has taken since the pool reset. -/
def Slot.fresh : Slot := ⟨false, 0, false, false, [], false⟩
/-- Slot i of a context's pool. -/
def Ctx.slot (c : Ctx) (i : Nat) : Slot := AMap.getD c.pool i Slot.fresh
/-- Changes a slot. -/
def Ctx.setSlot (c : Ctx) (i : Nat) (v : Slot) : Ctx := { c with pool := AMap.set c.pool i v }
/-- Word n of the record of a slot (13 Table 13.2). -/
def Slot.word (v : Slot) (n : Nat) : Word := v.words.getD n 0
/-- The hardware word (13 Table 13.4). -/
def Slot.hardware (v : Slot) : Word :=
  BitVec.ofNat 32 ((if v.pub then 64 else 0) + (if v.rp then 32 else 0) + v.gen.toNat)
/-- Word 0 to 15 of a record. -/
def Slot.record (v : Slot) (n : Nat) : Word := if n = 15 then v.hardware else v.word n

/-- Fields of the meta word (13 Table 13.3). -/
def metaFrame (m : Word) : Nat := bits m 10 5
/-- KEPT. -/
def metaKept (m : Word) : Bool := m.getLsbD 4
/-- MRG. -/
def metaMrg (m : Word) : Bool := m.getLsbD 3
/-- H. -/
def metaH (m : Word) : Bool := m.getLsbD 2
/-- C. -/
def metaC (m : Word) : Bool := m.getLsbD 1
/-- KIND: an eye vertex. -/
def metaEye (m : Word) : Bool := m.getLsbD 0
/-- The meta word of a slot. -/
def Slot.mword (v : Slot) : Word := v.word 13

/-- The handle of slot i of a generation (13 Table 13.1). -/
def handleOf (gen : BitVec 5) (i : Nat) : Word := BitVec.ofNat 32 (gen.toNat * 2 ^ 27 + i)
/-- INDEX of a handle. -/
def handleIndex (h : Word) : Nat := bits h 0 27

/-- The status of a handle (13 R240): 1 ok, 2 unpublished, 3 absent. -/
def Ctx.statusOf (c : Ctx) (h : Word) : Nat :=
  let v := c.slot (handleIndex h)
  if handleIndex h = 0 ∨ c.npool ≤ handleIndex h ∨ v.gen ≠ h.extractLsb' 27 5 ∨ v.alloc = false then 3
  else if v.pub then 1 else 2
/-- Reading the record of a handle meets an error beyond correction (13 R241, 24 R349). -/
def Ctx.badHandle (c : Ctx) (h : Word) : Bool :=
  handleIndex h != 0 && decide (handleIndex h < c.npool) && (c.slot (handleIndex h)).err
/-- The vertex that a handle of status 1 names. -/
def Ctx.vertex (c : Ctx) (h : Word) : Slot := c.slot (handleIndex h)

/-- Slots on the free list of core k for a context of npool slots (13 R237). -/
def CoreCtx.freeCount (c : CoreCtx) (npool : Nat) : Nat :=
  (npool - c.freeNext + 63) / 64 + c.freeTail.length
/-- Takes the head of the free list. -/
def CoreCtx.takeFree (c : CoreCtx) (npool : Nat) : Option (Nat × CoreCtx) :=
  if c.freeNext < npool then some (c.freeNext, { c with freeNext := c.freeNext + 64 })
  else match c.freeTail with
    | [] => none
    | i :: r => some (i, { c with freeTail := r })

/-! Requests and results (13 R241). -/

/-- The lanes that make a request; a CT makes one. -/
def Iss.requests (x : Iss) : List Nat := if x.isCt then [0] else x.active.toList
/-- The register kind of row 0xC's handles, blocks and results. -/
def rowKind (ct : Bool) : RegKind := if ct then .s else .v
/-- The current thread is a control thread. -/
def State.curCt (s : State) : Bool := match s.cur with | .ct _ _ => true | .group _ _ _ => false
/-- A block of n registers that a row 0xC instruction reads. -/
def gBlock (s : State) (a : Src) (n : Nat) : List Opnd := regRange a.reg n (rowKind s.curCt) a.fe
/-- The shared checks of a row 0xC instruction whose result block has n registers. -/
def gReq (s : State) (o : Op) (reads : List Opnd) (n : Nat) : Req :=
  { g := o.g, phase := .C, who := .any, reads := reads, writes := regRange o.d n (rowKind s.curCt) }

/-- The 128 lane values of result word j: requests get their value, other selected lanes 0. -/
def resultRow (reqs : List Nat) (res : List (List Word)) (j : Nat) : List Word :=
  (List.range 128).map fun i => match (reqs.zip res).find? fun p => p.1 == i with | some p => p.2.getD j 0 | none => 0

/-- The deferred fault of a graph or ray operation of n requests that have met an error: each counts, and one record is
written (13 R241, 15 R256, 24 R349). The lantern has no address that an instruction can name, so ADDR is 0 (log 31). -/
def State.lanternFault (s : State) (x : Iss) (cls n : Nat) : State :=
  if n = 0 then s
  else ((List.range n).foldl (fun s _ => s.countEcc x.core) s).deferFault (s.issuer x) cls 0x1B 0

/-- Issues a result of n registers from D: the block is empty until it lands, and it counts on a class; bad says that the
operation has deferred a fault. A control thread's 32-bit result words are zero-extended, and it is the low halves of its
registers that a handle or block operand is read from (log 116: DESIGN CHOICE). -/
def State.pendBlock (s : State) (x : Iss) (kind : ResKind) (cls : Nat) (d : BitVec 9) (n : Nat) (res : List (List Word))
    (bad : Bool := false) : State :=
  let (r, s1) := s.countOp x.core x.party cls
  if x.isCt then
    s1.pendResult x kind 0 [] ((List.range n).map fun j => (sNum d + j, ((res.getD 0 []).getD j 0).setWidth 64)) false
      (some r) bad
  else s1.pendResult x kind x.sel ((List.range n).map fun j => (d.toNat + j, resultRow x.requests res j)) [] false (some r)
    bad

/-- A graph instruction with results (13 R241): one list of n result words for each request, all zero where bad says that
the request meets an error. -/
def execG (o : Op) (reads : List Opnd) (n : Nat) (bad : Ctx → Iss → Nat → Bool) (f : Ctx → Iss → Nat → List Word)
    (s : State) : Res :=
  issue (gReq s o reads n) 8 s fun x =>
    match s.ctx? x.ctx with
    | none => .fault .noThread
    | some c =>
      if 63 ≤ (x.uni.count 1).val then waitR s
      else
        let hit := x.requests.filter (bad c x)
        .next (((s.lanternFault x 1 hit.length).pendBlock x .graph 1 o.d n
          (x.requests.map fun i => if bad c x i then List.replicate n 0 else f c x i) (!hit.isEmpty)).advance x 8)

/-- A request whose one handle is in A. -/
def badA (o : Op) (c : Ctx) (x : Iss) (i : Nat) : Bool := c.badHandle (x.lane o.a.reg i)
/-- A request whose two handles are in A and B. -/
def badAB (o : Op) (c : Ctx) (x : Iss) (i : Nat) : Bool := badA o c x i || c.badHandle (x.lane o.b.reg i)

/-- GRAPH_RESULT (13 R241). -/
def execGraphResult (core id : Nat) (s : State) : Res := landEvent "GRAPH_RESULT" .graph core id s

/-! gapp (13 R242). -/

/-- A request of gapp meets an error: it reads its predecessor, which is in error. -/
def Ctx.badAppend (c : Ctx) (w : List Word) : Bool :=
  c.openTag == some (metaFrame (w.getD 13 0)) && w.getD 11 0 != 0 && c.badHandle (w.getD 11 0)

/-- What a request of gapp comes to: its status and part. -/
def Ctx.appendResult (c : Ctx) (w : List Word) : Nat × Word :=
  let m := w.getD 13 0
  let p := w.getD 11 0
  if c.openTag ≠ some (metaFrame m) then (7, 0)
  else if c.badAppend w then (0, 0)
  else if p = 0 then (1, if metaH m then one32 else 0)
  else if c.statusOf p ≠ 1 then (c.statusOf p, 0)
  else
    let r := c.vertex p
    if metaEye r.mword ≠ metaEye m then (6, 0)
    else
      let cc := if metaC r.mword && metaC m then one32 else 0
      (1, rnAdd cc (rnMul (rnDiv (w.getD 10 0) (r.word 9)) (r.word 10)))

/-- The record that an append holds for the boundary: words 0 to 14, part in place of rev, meta bit 31 zero. -/
def appendRecordWords (w : List Word) (part : Word) : List Word :=
  (w.set 10 part).set 13 (w.getD 13 0 &&& 0x7FFFFFFF#32)

/-- Takes a slot from the head of the free list of the issuer's core. -/
def State.takeSlot (s : State) (x : Iss) : State × Nat :=
  match s.ctx? x.ctx, s.cctx? x.core x.ctx with
  | some c, some cc =>
    match cc.takeFree c.npool with
    | none => (s, 0)
    | some (i, cc') =>
      ((s.modCctx x.core x.ctx fun _ => cc').modCtx x.ctx fun c =>
        c.setSlot i { c.slot i with alloc := true, pub := false, rp := false }, i)
  | _, _ => (s, 0)

/-- Takes n slots, one after another. -/
def State.takeSlots (x : Iss) : Nat → State → State × List Nat
  | 0, s => (s, [])
  | n + 1, s =>
    let a := s.takeSlot x
    let b := State.takeSlots x n a.1
    (b.1, a.2 :: b.2)

/-- One request of gapp with its slot, when all slots of the instruction have been taken: it holds the record, or gives the
slot back at the boundary. The status of a handle of a slot that another gapp of the superstep takes depends therefore on
which issues first: absent before that gapp issues, unpublished after it (log 95: DESIGN CHOICE). -/
def State.append1 (s : State) (x : Iss) (i : Nat) (w : List Word) : State × List Word :=
  match s.ctx? x.ctx with
  | some c =>
    let r := c.appendResult w
    let ch := if r.1 = 1 then GraphChange.append i (appendRecordWords w r.2) else .abandon i
    (s.modCtx x.ctx fun c => { c with changes := c.changes ++ [(x.core, ch)] },
      [if r.1 = 1 then handleOf (c.slot i).gen i else 0, BitVec.ofNat 32 r.1])
  | none => (s, [0, 0])

/-- The requests of gapp in ascending lane order, each with its slot. -/
def State.appendAll (s : State) (x : Iss) : List (Nat × List Word) → State × List (List Word)
  | [] => (s, [])
  | p :: r =>
    let a := s.append1 x p.1 p.2
    let b := a.1.appendAll x r
    (b.1, a.2 :: b.2)

/-- gapp (13 R242): all results follow from the snapshot and are known at issue; they land later. -/
def execGapp (o : Op) (s : State) : Res :=
  issue (gReq s o (gBlock s o.a 15) 2) 8 s fun x =>
    match s.ctx? x.ctx, s.cctx? x.core x.ctx with
    | some c, some cc =>
      let n := cc.freeCount c.npool
      if n < x.requests.length then
        trapR x s 0x11 (if x.isCt then x.sel else LaneSet.ofTest fun i => (x.requests.drop n).contains i)
      else if 63 ≤ (x.uni.count 1).val then waitR s
      else
        let ins := x.requests.map fun i => (List.range 15).map fun j => x.lane (BitVec.ofNat 9 (o.a.reg.toNat + j)) i
        let t := State.takeSlots x ins.length s
        let a := t.1.appendAll x (t.2.zip ins)
        let hit := ins.filter c.badAppend
        .next (((a.1.lanternFault x 1 hit.length).pendBlock x .graph 1 o.d 2 a.2 (!hit.isEmpty)).advance x 8)
    | _, _ => .fault .noThread

/-! Reads and weights (13 R243 to R247). -/

/-- grd (13 R243). -/
def execGrd (o : Op) (s : State) : Res :=
  let f := bits o.fn 0 4
  let n := bits o.fn 4 4 + 1
  execG o (gBlock s o.a 1) (n + 1) (badA o) (fun c x i =>
    let h := x.lane o.a.reg i
    let st := c.statusOf h
    ((List.range n).map fun j => if st = 1 then (c.vertex h).record (f + j) else 0) ++ [BitVec.ofNat 32 st]) s

/-- The light and the eye vertex of two handles, or the status that keeps them apart (13 R244). -/
def Ctx.pairOf (c : Ctx) (a b : Word) : Except Nat (Slot × Slot) :=
  let st := max (c.statusOf a) (c.statusOf b)
  if st ≠ 1 then .error st
  else
    let u := c.vertex a
    let v := c.vertex b
    if metaEye u.mword = metaEye v.mword then .error 5
    else if metaEye u.mword then .ok (v, u) else .ok (u, v)

/-- A triple of words of a record. -/
def Slot.triple (v : Slot) (n : Nat) : Word × Word × Word := (v.word n, v.word (n + 1), v.word (n + 2))
/-- Differences of two triples, component by component. -/
def subTriple (a b : Word × Word × Word) : Word × Word × Word :=
  (rnSub a.1 b.1, rnSub a.2.1 b.2.1, rnSub a.2.2 b.2.2)
/-- a < b for FP32 codes. -/
def ltW (a b : Word) : Bool := (fcmpFV 2 (fv32 a) (fv32 b)).1
/-- a <= b for FP32 codes. -/
def leW (a b : Word) : Bool := (fcmpFV 3 (fv32 a) (fv32 b)).1
/-- 2^-60. -/
def tinyD2 : Word := 0x21800000#32

/-- The geometry of a connection (13 R244). -/
structure Geometry where
  g : Word
  cosY : Word
  cosZ : Word
  d2 : Word
  dir : Word × Word × Word

/-- d2 of a pair. -/
def pairD2 (y z : Slot) : Word := let d := subTriple (z.triple 0) (y.triple 0); rnDot3 d d

/-- The geometry of a pair that is not degenerate. -/
def geometry (y z : Slot) : Geometry :=
  let d := subTriple (z.triple 0) (y.triple 0)
  let d2 := rnDot3 d d
  let len := rnSqrt d2
  let dir := (rnDiv d.1 len, rnDiv d.2.1 len, rnDiv d.2.2 len)
  let cosY := rnDot3 (y.triple 3) dir
  let cosZ := negW (rnDot3 (z.triple 3) dir)
  ⟨rnDiv (rnMul (absW cosY) (absW cosZ)) d2, cosY, cosZ, d2, dir⟩

/-- gcon (13 R244). -/
def execGcon (o : Op) (s : State) : Res :=
  execG o (gBlock s o.a 1 ++ gBlock s o.b 1) 8 (badAB o) (fun c x i =>
    match c.pairOf (x.lane o.a.reg i) (x.lane o.b.reg i) with
    | .error st => [BitVec.ofNat 32 st, 0, 0, 0, 0, 0, 0, 0]
    | .ok (y, z) =>
      let d2 := pairD2 y z
      if ltW d2 tinyD2 then [4, 0, 0, 0, d2, 0, 0, 0]
      else
        let g := geometry y z
        [1, g.g, g.cosY, g.cosZ, d2, g.dir.1, g.dir.2.1, g.dir.2.2]) s

/-- The weight of a connection with area densities (13 R245). -/
def Ctx.weight (c : Ctx) (y z : Slot) (py pz : Word) : Word :=
  let ta := rnMul (rnDiv py (y.word 9)) (y.word 10)
  let tb := rnMul (rnDiv pz (z.word 9)) (z.word 10)
  let m := if metaMrg z.mword then rnMul c.eta pz else 0
  rnDiv one32 (rnAdd (rnAdd (rnAdd one32 ta) tb) m)

/-- gwgt (13 R245). -/
def execGwgt (o : Op) (s : State) : Res :=
  execG o (gBlock s o.a 1 ++ gBlock s o.b 1 ++ gBlock s o.c 2) 2 (badAB o) (fun c x i =>
    match c.pairOf (x.lane o.a.reg i) (x.lane o.b.reg i) with
    | .error st => [BitVec.ofNat 32 st, 0]
    | .ok (y, z) =>
      let py := x.lane o.c.reg i
      let pz := x.lane (BitVec.ofNat 9 (o.c.reg.toNat + 1)) i
      if o.fn.getLsbD 0 then
        let d2 := pairD2 y z
        if ltW d2 tinyD2 then [4, 0]
        else
          let g := geometry y z
          [1, c.weight y z (rnDiv (rnMul py (absW g.cosY)) d2) (rnDiv (rnMul pz (absW g.cosZ)) d2)]
      else [1, c.weight y z py pz]) s

/-- Puts a candidate into a list sorted by d2, then handle. -/
def insertNear (p : Word × Word) : List (Word × Word) → List (Word × Word)
  | [] => [p]
  | q :: r =>
    if ltW p.1 q.1 || (!ltW q.1 p.1 && decide (p.2.toNat < q.2.toNat)) then p :: q :: r else q :: insertNear p r

/-- The merge candidates near a point, nearest first (13 R246). -/
def Ctx.mergeCandidates (c : Ctx) (pz : Word × Word × Word) : List (Word × Word) :=
  let r2 := rnMul c.rho c.rho
  c.pool.foldl (fun l p =>
    let v := p.2
    if v.alloc && v.pub && !metaEye v.mword && metaMrg v.mword && c.retained.getLsbD (metaFrame v.mword) then
      let d := subTriple (v.triple 0) pz
      let d2 := rnDot3 d d
      if leW d2 r2 then insertNear (d2, handleOf v.gen p.1) l else l
    else l) []

/-- A request of gmrg meets an error: in its own vertex, or in a candidate (log 31). -/
def badMerge (o : Op) (c : Ctx) (x : Iss) (i : Nat) : Bool :=
  let h := x.lane o.a.reg i
  badA o c x i || (c.statusOf h == 1 && metaEye (c.vertex h).mword
    && (c.mergeCandidates ((c.vertex h).triple 0)).any fun p => c.badHandle p.2)

/-- gmrg (13 R246). -/
def execGmrg (o : Op) (s : State) : Res :=
  execG o (gBlock s o.a 1) 9 (badMerge o) (fun c x i =>
    let h := x.lane o.a.reg i
    let st := if c.statusOf h = 1 ∧ metaEye (c.vertex h).mword = false then 6 else c.statusOf h
    let l := if st = 1 then (c.mergeCandidates ((c.vertex h).triple 0)).take 4 else []
    BitVec.ofNat 32 (st + 256 * l.length)
      :: ((List.range 4).map fun j => match l[j]? with | some p => p.2 | none => 0)
      ++ (List.range 4).map fun j => match l[j]? with | some p => p.1 | none => 0x7F800000#32) s

/-- grwt (13 R247). -/
def execGrwt (o : Op) (s : State) : Res :=
  execG o (gBlock s o.a 1 ++ gBlock s o.b 1) 3 (badAB o) (fun c x i =>
    match c.pairOf (x.lane o.a.reg i) (x.lane o.b.reg i) with
    | .error st => [BitVec.ofNat 32 st, 0, 0]
    | .ok (y, z) =>
      let u := rnAdd (y.word 10) (rnMul (rnDiv (y.word 9) (z.word 9)) (z.word 10))
      let v := rnDiv u (rnMul c.eta (y.word 9))
      [1, rnDiv one32 (rnAdd one32 v), rnDiv one32 c.eta]) s

/-! Requests without results (13 R248, R249, R251). -/

/-- Queues graph changes for the boundary, in order. -/
def State.requestChanges (s : State) (x : Iss) (l : List GraphChange) : State :=
  s.modCtx x.ctx fun c => { c with changes := c.changes ++ l.map fun g => (x.core, g) }

/-- gret (13 R248). -/
def execGret (o : Op) (s : State) : Res :=
  issue (gReq s o (gBlock s o.a 1) 0) 8 s fun x =>
    .next ((s.requestChanges x (x.requests.map fun i => .retire (x.lane o.a.reg i))).advance x 8)

/-- gkep (13 R249). -/
def execGkep (o : Op) (s : State) : Res :=
  issue (gReq s o (gBlock s o.a 1) 0) 8 s fun x =>
    .next ((s.requestChanges x (x.requests.map fun i => .keep (!o.fn.getLsbD 0) (x.lane o.a.reg i))).advance x 8)

/-- A gfrm (13 R251): its operand, the values that are in range, and its request. -/
def execGfrm (o : Op) (ok : Word → Bool) (f : Word → GraphChange) (s : State) : Res :=
  issue { g := o.g, phase := .C, who := .ct, reads := if immBit o then [rdS o.a] else [], writes := [] } 12 s fun x =>
    let v := if immBit o then (x.s o.a.reg).lo else word2 o
    if ok v then .next ((s.requestChanges x [f v]).advance x 12)
    else trapR x s (if immBit o then 0x02 else 0x01)

/-- gfrm.rho (13 R251). -/
def execGfrmRho (o : Op) (s : State) : Res := execGfrm o rhoOk .rho s
/-- gfrm.open (13 R251). -/
def execGfrmOpen (o : Op) (s : State) : Res := execGfrm o (fun v => decide (v.toNat < 32)) (fun v => .openFrame v.toNat) s
/-- gfrm.rel (13 R251). -/
def execGfrmRel (o : Op) (s : State) : Res := execGfrm o (fun _ => true) .release s

/-- N of the frame table (13 R250). -/
def Ctx.frameSum (c : Ctx) : Nat :=
  (List.range 32).foldl (fun n f => if c.retained.getLsbD f then n + c.nf.getD f 0 else n) 0

/-- An item of gsta (13 Table 13.7); a is the operand of item 7. While no frame is open, [4:0] of frames reads 0 (log 112:
DESIGN CHOICE). -/
def gstaItem (c : Ctx) (cc : CoreCtx) (item : Nat) (a : DWord) : DWord :=
  match item with
  | 0 => c.eta.setWidth 64
  | 1 => c.rho.setWidth 64
  | 2 => BitVec.ofNat 64 c.frameSum
  | 3 => c.retained ++ (match c.openTag with | some t => BitVec.ofNat 32 (32 + t) | none => 0)
  | 4 => BitVec.ofNat 64 cc.freeAtStart
  | 5 => BitVec.ofNat 64 c.npool
  | 6 => c.drop
  | _ => BitVec.ofNat 64 (c.nf.getD (bits a 0 5) 0)

/-- gsta (13 R252). -/
def execGsta (o : Op) (s : State) : Res :=
  let item := bits o.fn 0 4
  issue { g := o.g, phase := .C, who := .any, reads := if item = 7 then [rdS o.a] else [], writes := [atS o.d] } 8 s
    fun x =>
      match s.ctx? x.ctx, s.cctx? x.core x.ctx with
      | some c, some cc =>
        if item = 7 ∧ bits (x.s o.a.reg) 5 59 ≠ 0 then trapR x s 0x02
        else .next ((s.setS x o.d (gstaItem c cc item (x.s o.a.reg))).advance x 8)
      | _, _ => .fault .noThread

/-! The boundary (13 R250, R253). -/

/-- η (13 R250). -/
def Ctx.etaNow (c : Ctx) : Word :=
  rn ((fv32 (rnMul 0x40490FDB#32 (rnMul c.rho c.rho))).mul (FV.mk false c.frameSum 0)).toExact

/-- A vertex retires (13 R253). -/
def Slot.retire (v : Slot) : Slot := ⟨false, v.gen + 1, false, false, [], v.err⟩

/-- A pool being changed at a boundary, with the slots it has freed and the snapshot of the superstep that ends. -/
structure Boundary where
  c : Ctx
  freed : List Nat
  snap : Ctx

/-- Retires slot i. -/
def Boundary.retire (b : Boundary) (i : Nat) : Boundary :=
  { b with c := b.c.setSlot i (b.c.slot i).retire, freed := b.freed ++ [i] }
/-- One more discarded request. -/
def Boundary.discard (b : Boundary) : Boundary := { b with c := { b.c with drop := b.c.drop + 1 } }

/-- A gkep request (13 R249). -/
def Boundary.keep (b : Boundary) (set : Bool) (h : Word) : Boundary :=
  if b.c.statusOf h ≠ 1 then b.discard
  else
    let v := b.c.vertex h
    let m := if set then v.mword ||| 16#32 else v.mword &&& ~~~16#32
    { b with c := b.c.setSlot (handleIndex h) { v with words := v.words.set 13 m } }

/-- A gret request (13 R248, Table 13.8 step 1): the handle is judged in the snapshot; a vertex that an earlier request of
the boundary has retired has nothing left to do. A slot in error is judged, kept, released and retired as any other, and keeps its
mark (log 132: DESIGN CHOICE). -/
def Boundary.judge (b : Boundary) (h : Word) : Boundary :=
  let v := b.c.vertex h
  if b.snap.statusOf h ≠ 1 ∨ v.rp = true then b.discard
  else if b.c.statusOf h ≠ 1 then b
  else if metaKept v.mword && b.c.retained.getLsbD (metaFrame v.mword) then
    { b with c := b.c.setSlot (handleIndex h) { v with rp := true } }
  else b.retire (handleIndex h)

/-- A frame release (13 R251, Table 13.8 step 2). -/
def Boundary.release (b : Boundary) (mask : Word) : Boundary :=
  let gone : BitVec 32 := mask &&& b.c.retained
  let c := { b.c with
    retained := b.c.retained &&& ~~~gone
    nf := (List.range 32).map fun f => if gone.getLsbD f then 0 else b.c.nf.getD f 0
    openTag := b.c.openTag.filter fun t => !gone.getLsbD t }
  let pending := (c.pool.filter fun p => p.2.alloc && p.2.pub && p.2.rp && gone.getLsbD (metaFrame p.2.mword)).map Prod.fst
  pending.foldl Boundary.retire { b with c := c }

/-- A .open request (13 R251). -/
def Boundary.openFrame (b : Boundary) (t : Nat) : Boundary :=
  if b.c.retained.getLsbD t then b.discard
  else { b with c := { b.c with
    retained := b.c.retained ||| (1#32 <<< t), nf := b.c.nf.set t 0, openTag := some t } }

/-- Publishes a held append (13 Table 13.8 step 3). -/
def Boundary.publish (b : Boundary) (i : Nat) (w : List Word) : Boundary :=
  let v := b.c.slot i
  let c := b.c.setSlot i { v with pub := true, rp := false, words := w, err := false }
  let m := w.getD 13 0
  let f := metaFrame m
  let root := w.getD 11 0 == 0 && !metaEye m && c.retained.getLsbD f
  { b with c := { c with nf := if root then c.nf.set f (c.nf.getD f 0 + 1) else c.nf } }

/-- The slot of a failed append is free again. -/
def Boundary.abandon (b : Boundary) (i : Nat) : Boundary :=
  { b with c := b.c.setSlot i { b.c.slot i with alloc := false }, freed := b.freed ++ [i] }

/-- One pass over the requests of a kind, in order; other kinds are left alone. -/
def Boundary.pass (b : Boundary) (l : List GraphChange) (step : Nat) : Boundary :=
  l.foldl (fun b g =>
    match step, g with
    | 0, .keep s h => b.keep s h
    | 1, .retire h => b.judge h
    | 2, .release m => b.release m
    | 3, .openFrame t => b.openFrame t
    | 4, .rho w => { b with c := { b.c with rho := w } }
    | 5, .append i w => b.publish i w
    | 5, .abandon i => b.abandon i
    | _, _ => b) b

/-- Puts a number into an ascending list. -/
def insertNat (n : Nat) : List Nat → List Nat
  | [] => [n]
  | m :: r => if n ≤ m then n :: m :: r else m :: insertNat n r
/-- An ascending list of the same numbers. -/
def sortNat (l : List Nat) : List Nat := l.foldr insertNat []

/-- R253: the graph changes of a context at the boundary. -/
def State.graphBoundary (s : State) (ctx : Nat) : State :=
  match s.ctx? ctx with
  | none => s
  | some c =>
    let l := (List.range 64).flatMap fun k => (c.changes.filter fun p => p.1 == k).map Prod.snd
    let b := (List.range 6).foldl (fun b n => b.pass l n) (⟨{ c with changes := [] }, [], c⟩ : Boundary)
    let c' := { b.c with eta := b.c.etaNow }
    let freed := sortNat b.freed
    let s1 := s.modCtx ctx fun _ => c'
    (List.range 64).foldl (fun s k => s.modCctx k ctx fun cc =>
      let cc' := { cc with freeTail := cc.freeTail ++ freed.filter fun i => i % 64 == k }
      { cc' with freeAtStart := cc'.freeCount c'.npool }) s1

/-- R237, R250: the pool of a context after a reset, with npool slots. -/
def State.resetPool (s : State) (ctx npool : Nat) : State :=
  let s1 := s.modCtx ctx fun c =>
    { c with npool := npool, pool := [], retained := 1, nf := List.replicate 32 0, openTag := some 0, rho := 0, eta := 0,
             drop := 0, changes := [] }
  (List.range 64).foldl (fun s k => s.modCctx k ctx fun cc =>
    let cc' := { cc with freeNext := if k = 0 then 64 else k, freeTail := [] }
    { cc' with freeAtStart := cc'.freeCount npool }) s1

end Sys2Proof.Machine
end

