-- ==== Sys2Proof/Machine/Matrix.lean ====
section
/-! DEFINITION. The matrix engine, row 0xB (11 R213 to R236). -/
namespace Sys2Proof.Machine

/-! Owners and gangs (11 R219, R223). -/

/-- The owner, running or suspended, that a group belongs to. -/
def Matrix.ownerOf (m : Matrix) (slot : Nat) : Option MatOwner :=
  (m.owner.toList ++ m.susp).find? fun o => o.members.contains slot
/-- The group waits in macq. -/
def Matrix.waits (m : Matrix) (slot : Nat) : Bool := m.queue.any fun o => o.members.contains slot
/-- The group's gang waits in a joint macq. -/
def Matrix.gangWaits (m : Matrix) (slot : Nat) : Bool := m.queue.any fun o => o.gang && o.members.contains slot
/-- Changes the owner that a group belongs to. -/
def Matrix.modOwner (m : Matrix) (slot : Nat) (f : MatOwner → MatOwner) : Matrix :=
  let g := fun (o : MatOwner) => if o.members.contains slot then f o else o
  { m with owner := m.owner.map g, susp := m.susp.map g }
/-- Changes the matrix engine of a core. -/
def State.modMat (s : State) (k : Nat) (f : Matrix → Matrix) : State := s.modCore k fun c => { c with mat := f c.mat }

/-- The slots of the groups of a mask of group indexes in a workgroup, in ascending order. -/
def State.maskSlots (s : State) (k wg : Nat) (m : BitVec 16) : List Nat :=
  let l := s.wgSlots k wg
  (List.range 16).filterMap fun i => if m.getLsbD i then l[i]? else none

/-- The instruction's opcode and FN, which members of a gang must share (11 R224). -/
def jointKey : Instr → Option (Nat × BitVec 8)
  | .macq o => some (0, o.fn)
  | .mrel o => some (1, o.fn)
  | .mlds o => some (3, o.fn)
  | .mflp o => some (4, o.fn)
  | .mstr o => some (5, o.fn)
  | .mout o => some (6, o.fn)
  | .mclr o => some (7, o.fn)
  | .mcfg o => some (8, o.fn)
  | _ => none

/-- The V64 to E128 fields of a row 0xB instruction. -/
def matFields : Instr → Op
  | .macq o => o
  | .mrel o => o
  | .mlds o => o
  | .mflp o => o
  | .mstr o => o
  | .mout o => o
  | .mclr o => o
  | .mcfg o => o
  | _ => ⟨Guard.none, 0, 0, Src.zero, Src.zero, Src.zero, false, false, .none⟩

/-- The joint instruction that a group holds in the latch. -/
def Group.latched (g : Group) : Option (Nat × Instr) :=
  (List.range 16).findSome? fun e => match g.split? e with
    | some sp => (match sp.wait with | .joint i => some (e, i) | _ => none)
    | none => none

/-- R224, R225: a joint instruction whose own checks have passed enters its workgroup's latch. A parked or exited member
traps the issuer; a different instruction in the latch traps everyone in it and the issuer; the latch of another gang, or
one that already holds this group, is waited for. -/
def latchJoint (x : Iss) (s : State) (i : Instr) (g : Group) : Res :=
  let mates := s.maskSlots x.core g.wg g.gang
  let at_ := fun slot => s.group? x.core slot
  if mates.any fun t => t != x.slot && (match at_ t with | some h => h.parked || h.hasExited | none => true) then
    trapR x s 0x0F
  else
    let held := (s.wgSlots x.core g.wg).filterMap fun t => (at_ t).bind fun h => h.latched.map fun l => (h.gang, l.2)
    match held.find? fun h => h.1 == g.gang with
    | some h =>
      if jointKey h.2 ≠ jointKey i then .next (s.mismatch (x :: s.latchedIss x.core mates Wait.isJoint))
      else if g.latched.isSome then waitR s
      else waitR (s.setWait x (.joint i))
    | none => if held.isEmpty then waitR (s.setWait x (.joint i)) else waitR s

/-! Row words and counts (11 R217). -/

/-- STRIDE. -/
def rowStride (w : DWord) : Int := w.hi.toInt
/-- row0. -/
def rowFirst (w : DWord) : Nat := bits w 0 8
/-- R217: the row word and count keep within a limit; m members supply n rows each. -/
def rowsOk (w : DWord) (n m lim : Nat) : Bool :=
  bits w 8 24 == 0 && decide (1 ≤ n ∧ n ≤ lim) && decide (rowFirst w + m * n ≤ lim)

/-- K of a TYPE. -/
def planeRows (c : MatCfg) : Nat := if c.type = 2#2 then 256 else 128
/-- Bytes of a plane row. -/
def planeRowBytes (c : MatCfg) : Nat := if c.type = 2#2 then 128 else 256
/-- An 8-bit TYPE with no precision for A or B (11 R226). -/
def fmtLacks (f : Word) : Bool := bits f 0 3 == 0 || bits f 5 3 == 0

/-! Queueing (11 R218, R224). -/

/-- The count of an instruction: CNT or s[C]. -/
def matCount (x : Iss) (o : Op) : Nat := (x.count o).toNat

/-- The operation counts on MAT (11 R218). -/
def matCounts : Instr → Bool
  | .mlds _ => true
  | .mstr _ => true
  | .mout _ => true
  | _ => false

/-- Queues an operation of the members xs, each with its own instruction, lowest first: it counts on every member's MAT
counter, captures its operands, and marks the registers it will fill empty. -/
def State.matQueue (s : State) (i : Instr) (xs : List (Iss × Op)) : State :=
  match xs with
  | [] => s
  | (x, o) :: _ =>
    let k := x.core
    let counted := matCounts i
    let r := xs.foldl (fun (r : List OpRef × State) y =>
      if counted then let q := r.2.countOp k y.1.party 3; (r.1 ++ [q.1], q.2) else r) ([], s)
    let (id, s1) := r.2.fresh
    let n := if counted then matCount x o else 0
    let sr := fmtSR x.flow.fmt
    let regRows := match i with
      | .mstr _ => o.fn.getLsbD 6
      | .mout _ => sr
      | _ => false
    let outRegs := match i with | .mout _ => o.fn.getLsbD 6 | _ => false
    let rows := if regRows then xs.map fun y => (List.range n).map fun j => y.1.v (y.2.a.reg.toNat + j) else []
    let cfg := match (s.core? k).bind fun c => c.mat.ownerOf x.slot with | some w => w.cfg | none => ⟨0, false, 0⟩
    let op : MatOp :=
      { id := id, instr := i, refs := r.1, whos := xs.map fun y => s.issuer y.1
        vals := [x.s o.a.reg, x.s o.b.reg, BitVec.ofNat 64 n, x.s o.d] ++ xs.map fun y => y.2.d.setWidth 64
        rows := rows, helpers := xs.map fun y => (match y.1.grp with | some g => g.helper | none => 0)
        cfg := cfg, fmt := x.flow.fmt }
    let s2 := s1.modMat k fun m => m.modOwner x.slot fun w => { w with ops := w.ops ++ [op] }
    if outRegs then
      xs.foldl (fun s y => (List.range n).foldl (fun s j => s.modGroup k y.1.slot fun g => g.markV (y.2.d.toNat + j)) s) s2
    else s2

/-- The request of a macq (11 R220): it joins the tail of the owner queue and the splits wait. -/
def State.macqRequest (s : State) (xs : List (Iss × Op)) (joint : Bool) (save : Nat) : State :=
  match xs with
  | [] => s
  | (x, o) :: _ =>
    let wg := match x.grp with | some g => g.wg | none => 0
    let s1 := s.modMat x.core fun m => { m with queue := m.queue ++
      [⟨x.ctx, wg, xs.map fun y => y.1.slot, joint, o.fn.extractLsb' 0 4, save, ⟨0, false, 0⟩, []⟩] }
    xs.foldl (fun s y => s.setWait y.1 .macq) s1

/-- What a row 0xB instruction other than macq does once it executes, apart from the PC (11 R218, R226). -/
def State.matAct (s : State) (i : Instr) (xs : List (Iss × Op)) : State :=
  match i, xs with
  | .mcfg _, (x, o) :: _ =>
    let t := (word2 o).extractLsb' 0 2
    s.modMat x.core fun m => m.modOwner x.slot fun w =>
      { w with cfg := ⟨t, (word2 o).getLsbD 2, if t = 2#2 then x.flow.fmt else 0⟩ }
  | _, _ => s.matQueue i xs

/-- The random registers that an mout reads under a FMT, for n rows (11 R230). -/
def randomRegs (o : Op) (n : Nat) (f : Word) : List Opnd := if fmtSR f then regRange o.a.reg n .v o.a.fe else []
/-- A is zero without SR, and names registers that exist with it (11 R230, 02 R388). -/
def randomOk (o : Op) (n : Nat) (f : Word) : Bool := if fmtSR f then vecRangeOk o.a.reg n else zeroS o.a

/-- The register rows that an instruction reads for n rows under a FMT (11 R229, R230). -/
def matReads (i : Instr) (o : Op) (n : Nat) (f : Word) : List Opnd :=
  match i with
  | .mstr _ => if o.fn.getLsbD 6 then regRange o.a.reg n .v o.a.fe else []
  | .mout _ => randomRegs o n f
  | _ => []
/-- The register rows that it writes. -/
def matWrites (i : Instr) (o : Op) (n : Nat) : List Opnd :=
  match i with | .mout _ => if o.fn.getLsbD 6 then regRange o.d n .v else [] | _ => []
/-- The fields that name those rows allow them. -/
def matFieldsOk (i : Instr) (o : Op) (n : Nat) (f : Word) : Bool :=
  match i with
  | .mstr _ => !o.fn.getLsbD 6 || vecRangeOk o.a.reg n
  | .mout _ => randomOk o n f && (!o.fn.getLsbD 6 || vecRangeOk o.d n)
  | _ => true

/-- The instruction whose uniform operands, count and FMT an instruction of the engine uses (11 R224, R226, R229, R230): its
own, or for a joint one that of the lowest-indexed member, which the others know once it stands in the latch. -/
def State.leader (s : State) (x : Iss) (g : Group) (joint : Bool) (i : Instr) (o : Op) : Option (Iss × Op) :=
  if !joint then some (x, o)
  else match s.maskSlots x.core g.wg g.gang with
    | [] => some (x, o)
    | t :: _ =>
      if t = x.slot then some (x, o)
      else ((s.group? x.core t).bind Group.latched).bind fun l =>
        if jointKey l.2 = jointKey i then (s.issAt x.core t l.1).map fun y => (y, matFields l.2) else none

/-- Issues a row 0xB instruction that needs ownership (11 R219): banks are those it names, pre its own checks on the owner.
A member of a gang that comes before the lowest-indexed one cannot know the count and the FMT in use yet: its register rows
are checked when the latch releases the instruction (log 98). -/
def execMat (i : Instr) (o : Op) (r : Req) (banks : BitVec 4) (pre : MatOwner → Iss × Op → Bool) (s : State) : Res :=
  let joint := immBit o
  issue { r with joint := joint } (opLen o) s fun x =>
    match x.grp, (s.core? x.core).bind fun c => c.mat.ownerOf x.slot with
    | some g, some w =>
      let lead := s.leader x g joint i o
      let ok := fun (l : Iss × Op) => pre w l && matFieldsOk i o (matCount l.1 l.2) l.1.flow.fmt
      if w.gang ≠ joint ∨ banks &&& ~~~w.mask ≠ 0 then trapR x s 0x10
      else if !(lead.map ok).getD true then trapR x s 0x02
      else regsGate x s LaneSet.all ((lead.map fun l => matReads i o (matCount l.1 l.2) l.1.flow.fmt).getD [])
          ((lead.map fun l => matWrites i o (matCount l.1 l.2)).getD [])
        (if joint then latchJoint x s i g
         else if matCounts i && decide (63 ≤ (x.uni.count 3).val) then waitR s
         else .next ((s.matAct i [(x, o)]).advance x (opLen o)))
    | _, _ => trapR x s 0x10

/-- The shared checks of a row 0xB instruction. -/
def matReq (o : Op) (reads writes : List Opnd) : Req :=
  { g := o.g, phase := .C, who := .group, reads := reads, writes := writes, whole := true }

/-- The bank that FN[5:4] names, as a mask. -/
def bankMask (o : Op) : BitVec 4 := 1#4 <<< bits o.fn 4 2

/-- mrel (11 R221). -/
def execMrel (o : Op) (s : State) : Res := execMat (.mrel o) o (matReq o [] []) 0 (fun _ _ => true) s
/-- mflp (11 R228). -/
def execMflp (o : Op) (s : State) : Res := execMat (.mflp o) o (matReq o [] []) 0 (fun _ _ => true) s
/-- mclr (11 R231). -/
def execMclr (o : Op) (s : State) : Res :=
  execMat (.mclr o) o (matReq o [] []) (o.fn.extractLsb' 0 4) (fun _ _ => true) s
/-- mcfg (11 R226). -/
def execMcfg (o : Op) (s : State) : Res :=
  execMat (.mcfg o) o (matReq o [] []) 0
    (fun _ l => !((word2 l.2).extractLsb' 0 2 == 2#2 && fmtLacks l.1.flow.fmt)) s
/-- mlds (11 R227). -/
def execMlds (o : Op) (s : State) : Res :=
  execMat (.mlds o) o (matReq o ([rdS o.a, rdS o.b] ++ countReads o) []) 0
    (fun w l => rowsOk (l.1.s l.2.b.reg) (matCount l.1 l.2) 1 (planeRows w.cfg)) s
/-- mstr (11 R229). -/
def execMstr (o : Op) (s : State) : Res :=
  let reg := o.fn.getLsbD 6
  let known := reg && ebCnt o != 0
  execMat (.mstr o) o
    { matReq o (rdS o.b :: (if reg then (if known then regRange o.a.reg (ebCnt o) .v o.a.fe else []) else [rdS o.a])
        ++ countReads o) [] with extra := !reg || (!isS o.a.reg && (!known || vecRangeOk o.a.reg (ebCnt o))) }
    (bankMask o)
    (fun w l => rowsOk (l.1.s l.2.b.reg) (matCount l.1 l.2) (if reg then w.members.length else 1) 128) s
/-- mout (11 R230). -/
def execMout (o : Op) (s : State) : Res :=
  let reg := o.fn.getLsbD 6
  let known := ebCnt o != 0
  execMat (.mout o) o
    { matReq o (rdS o.b :: (if reg then [] else [atS o.d]) ++ countReads o)
        (if reg && known then regRange o.d (ebCnt o) .v else []) with
      extra := !reg || (!isS o.d && (!known || vecRangeOk o.d (ebCnt o))) }
    (bankMask o)
    (fun w l => rowsOk (l.1.s l.2.b.reg) (matCount l.1 l.2) (if reg then w.members.length else 1) 128) s

/-- The save area of a macq: checks 3 and 4 of R220. -/
def State.macqSave (s : State) (x : Iss) (o : Op) : Except Nat Nat :=
  let a := (x.s o.a.reg).toNat
  if a % 4096 ≠ 0 then .error 0x08
  else match s.ownExtent x a 0x10000 with | some off => .ok off | none => .error 0x07

/-- macq (11 R220). -/
def execMacq (o : Op) (s : State) : Res :=
  let joint := immBit o
  issue { matReq o [rdS o.a] [] with joint := joint } 8 s fun x =>
    match x.grp, s.core? x.core with
    | some g, some c =>
      let mates := x.slot :: s.maskSlots x.core g.wg g.gang
      if joint = true ∧ g.gang = 0 then trapR x s 0x0F
      else if mates.any fun t => (c.mat.ownerOf t).isSome || c.mat.waits t then trapR x s 0x02
      else if joint then latchJoint x s (.macq o) g
      else match s.macqSave x o with
        | .error e => trapR x s e x.sel (bits (x.s o.a.reg) 0 48)
        | .ok a => waitR (s.macqRequest [(x, o)] false a)
    | _, _ => .fault .noThread

/-- The mgng that a group waits in: its entry and mask. -/
def Group.mgngWait (g : Group) : Option (Nat × BitVec 16) :=
  (List.range 16).findSome? fun e => match g.split? e with
    | some sp => (match sp.wait with | .mgng m => some (e, m) | _ => none)
    | none => none

/-- A group that waits in mgng with a mask, and can go on. -/
def State.mgngAt (s : State) (k : Nat) (m : BitVec 16) (t : Nat) : Option Iss :=
  if !s.groupLive k t then none
  else (s.group? k t).bind fun g => g.mgngWait.bind fun w => if w.2 == m then s.issAt k t w.1 else none
/-- The listed groups go on behind their mgng, each with the mask as its gang (11 R223). -/
def State.formGang (s : State) (k : Nat) (m : BitVec 16) (xs : List Iss) : State :=
  xs.foldl (fun s x => (s.advance x 8).modGroup k x.slot fun g => { g with gang := m }) s
/-- A group executes mgng with a mask: with the last of the listed groups they go on, and until then it waits (11 R223). -/
def State.meetGang (s : State) (x : Iss) (m : BitVec 16) (l : List Nat) : Res :=
  let xs := l.map fun t => if t = x.slot then some x else s.mgngAt x.core m t
  if l.contains x.slot && xs.all Option.isSome then .next (s.formGang x.core m (xs.filterMap id))
  else waitR (s.setWait x (.mgng m))

/-- mgng (11 R223, R225). A latch that the gang occupies is found before the checks of R223 (log 98: DEDUCED). The bit of M that
stands for the group itself is that of its group index, which the spec calls s3 after the register that holds it at the start (log
125: DEDUCED). -/
def execMgng (o : Op) (s : State) : Res :=
  issue (matReq o [rdS o.a] []) 8 s fun x =>
    match x.grp, s.core? x.core with
    | some g, some c =>
      let v := x.s o.a.reg
      let m := v.extractLsb' 0 16
      let slots := s.wgSlots x.core g.wg
      let listed := (List.range 16).filter fun i => m.getLsbD i
      let present := listed.all fun i => match (slots[i]?).bind fun t => s.group? x.core t with
        | some h => !h.hasExited | none => false
      let gangSlots := s.maskSlots x.core g.wg g.gang
      if gangSlots.any fun t => match s.group? x.core t with | some h => h.latched.isSome | none => false then
        .next (s.mismatch (x :: s.latchedIss x.core gangSlots Wait.isJoint))
      else if bits v 16 48 ≠ 0 then trapR x s 0x02
      else if m ≠ 0 then
        if decide (2 ≤ listed.length ∧ listed.length ≤ 6) && m.getLsbD g.gidx && present && g.gang == 0 then
          s.meetGang x m (s.maskSlots x.core g.wg m)
        else trapR x s 0x02
      else if g.gang = 0 ∨ (gangSlots.any fun t =>
          (match c.mat.ownerOf t with | some w => w.gang | none => false) || c.mat.gangWaits t) = true then trapR x s 0x02
      else s.meetGang x m gangSlots
    | _, _ => .fault .noThread

/-- mprm (11 R232). -/
def execMprm (o : Op) (s : State) : Res :=
  issue (matReq o [] []) 8 s fun x =>
    match x.grp, s.workgroup? x.core x.slot with
    | some g, some w =>
      let n := o.fn.extractLsb' 0 2
      if w.cls < n then trapR x s 0x02
      else .next ((s.modCore x.core fun c => { c with wgs := AMap.set c.wgs g.wg { w with cls := n } }).advance x 8)
    | _, _ => .fault .noThread

/-! Rendezvous (11 R223, R224). -/

/-- GANG_RENDEZVOUS (11 R223): groups that all wait in mgng and could not be given their gang when the last of them issued it,
since one was frozen or detached. -/
def execGangRendezvous (core wg : Nat) (s : State) : Res :=
  let pick := (s.wgSlots core wg).findSome? fun t => match (s.group? core t).bind fun g => g.mgngWait.map fun w => (g, w.2) with
    | none => none
    | some (g, m) =>
      let xs := (s.maskSlots core wg (if m = 0 then g.gang else m)).map (s.mgngAt core m)
      if !xs.isEmpty && xs.all Option.isSome then some (m, xs.filterMap id) else none
  match pick with
  | none => .fault (.notEnabled "GANG_RENDEZVOUS")
  | some (m, xs) => .next (s.formGang core m xs)

/-- What the latch finds of the register rows of a joint instruction, with the count and the FMT of the lowest-indexed member
(11 R224, R229, R230; log 98): a CAUSE that traps every member, or members with a row in error (24 R349), or rows not full yet. -/
inductive JointRows where
  | trap (cause : Nat)
  | errors (l : List (Iss × Nat × LaneSet))
  | wait
  | go
  deriving DecidableEq, Repr

/-- The register rows of the members, the lowest-indexed first. -/
def jointRows (i : Instr) (ys : List (Iss × Op)) : JointRows :=
  match ys with
  | [] => .go
  | (x, o) :: _ =>
    let n := matCount x o
    let f := x.flow.fmt
    let reads := fun (y : Iss × Op) => matReads i y.2 n f
    let writes := fun (y : Iss × Op) => matWrites i y.2 n
    let bad := ys.filterMap fun y => (y.1.badSource LaneSet.all (reads y)).map fun r => (y.1, r.1.toNat, r.2)
    if ys.any fun y => !matFieldsOk i y.2 n f || (reads y ++ writes y).any fun r => !r.ok false y.1.blocks then .trap 0x02
    else if ys.any fun y => (reads y).any fun r => r.fe && y.1.empty r.reg then .trap 0x06
    else if ys.any fun y => (reads y ++ writes y).any fun r => y.1.empty r.reg then .wait
    else if !bad.isEmpty then .errors bad
    else .go

/-- Groups whose register rows are in error trap where they stand in a latch, and leave it; the others wait on. The traps are
raised in one clock: by partition, then group slot (21 R303). -/
def State.latchErrors (s : State) (l : List (Iss × Nat × LaneSet)) : State :=
  (List.range 96).foldl (fun s slot => match l.find? fun p => p.1.slot == slot with
    | none => s
    | some p => ((s.setWait p.1 .none).countEcc p.1.core).raise p.1
        { cause := 0x1B, flanes := p.2.2, taddr := p.2.1, detail := 512 }) s

/-- JOINT_INSTRUCTION_RELEASE (11 R224, R220). -/
def execJointInstructionRelease (core wg : Nat) (s : State) : Res :=
  let slots := s.wgSlots core wg
  let first := slots.findSome? fun t => (s.group? core t).bind fun g => g.latched.map fun l => (g, l.2)
  match first with
  | none => .fault (.notEnabled "JOINT_INSTRUCTION_RELEASE")
  | some (g, _) =>
    let mates := s.maskSlots core wg g.gang
    let xs := mates.filterMap fun t => match (s.group? core t).bind Group.latched with
      | some l => (s.issAt core t l.1).map fun x => (x, l.2)
      | none => none
    match xs with
    | [] => .fault (.notEnabled "JOINT_INSTRUCTION_RELEASE")
    | (x, i) :: _ =>
      let full := xs.any fun y => matCounts i && decide (63 ≤ (y.1.uni.count 3).val)
      if xs.length ≠ mates.length ∨ full = true ∨ (mates.all fun t => s.groupLive core t) = false then
        .fault (.notEnabled "JOINT_INSTRUCTION_RELEASE")
      else
        let ys := xs.map fun y => (y.1, matFields y.2)
        match i with
        | .macq o => match s.macqSave x o with
          | .error e => .next (s.trapEach (xs.map Prod.fst) e (bits (x.s o.a.reg) 0 48))
          | .ok a => .next (s.macqRequest ys true a)
        | _ => match jointRows i ys with
          | .trap e => .next (s.trapEach (xs.map Prod.fst) e 0)
          | .errors l => .next (s.latchErrors l)
          | .wait => .fault (.notEnabled "JOINT_INSTRUCTION_RELEASE")
          | .go => .next (ys.foldl (fun s y => s.advance y.1 (opLen y.2)) (s.matAct i ys))

/-! The engine passes on (11 R219 to R222, R233, R234). -/

/-- The class of an owner's workgroup. -/
def Core.classOf (c : Core) (o : MatOwner) : Nat := match c.wgs.get? o.wg with | some w => w.cls.toNat | none => 0

/-- Every member of an owner has parked or exited (11 R222). -/
def Core.ownerGone (c : Core) (o : MatOwner) : Bool :=
  o.members.all fun t => match c.group? t with | some g => g.parked || g.hasExited | none => true

/-- A suspended owner whose groups have parked or exited, and that has no counted operation left, leaves the stack; its
planes and the rest of its queue are discarded (11 R222, log 16). -/
def Core.suspGone (c : Core) (o : MatOwner) : Bool := c.ownerGone o && o.ops.all fun p => !matCounts p.instr

/-- The suspended owners that are still on the stack by R222, the last suspended first: one that is gone counts for nothing
from then on, whenever it is taken off. -/
def Core.liveSusp (c : Core) : List MatOwner := c.mat.susp.filter fun o => !c.suspGone o

/-- R233: the waiter that may pre-empt an owner: strictly higher class, a mask apart from the owner's and from every
suspended owner's; the highest class, and of these the earliest. -/
def Core.preemptor (c : Core) (ref : MatOwner) : Option MatOwner :=
  let busy := c.liveSusp.foldl (fun m o => m ||| o.mask) ref.mask
  c.mat.queue.foldl (fun best o =>
    if c.classOf ref < c.classOf o ∧ o.mask &&& busy = 0 then
      match best with
      | some b => if c.classOf b < c.classOf o then some o else best
      | none => some o
    else best) none

/-- R219: what a change of context clears; keep are the banks that stay. -/
def Matrix.clearFor (m : Matrix) (ctx : Nat) (keep : BitVec 4) : Matrix :=
  if m.lastCtx = none ∨ m.lastCtx = some ctx then m
  else { m with active := [], shadow := [],
                banks := (List.range 4).map fun b => if keep.getLsbD b then m.banks.getD b [] else [] }

/-- Makes an owner the running one (11 R219, R220, R234). -/
def Core.grant (c : Core) (o : MatOwner) (resume : Bool) : Core :=
  let m := c.mat
  let susp := if resume then m.susp.filter fun p => p != o else m.susp
  let keep := (c.liveSusp.filter fun p => !(resume && p == o)).foldl (fun k p => k ||| p.mask) (if resume then o.mask else 0)
  let m1 := { m with susp := susp, queue := m.queue.filter fun p => p != o }.clearFor o.ctx keep
  let m2 := if resume then
      { m1 with active := c.slice.extract o.save 0x8000, shadow := c.slice.extract (o.save + 0x8000) 0x8000 }
    else m1
  { c with mat := { m2 with owner := some (if resume then o else { o with cfg := ⟨0, false, 0⟩ }),
                            lastCtx := some o.ctx, releasing := false } }

/-- The splits of a granted request go on after their macq, but for those of a frozen group, which stay where they are until
it resumes (24 R342). -/
def State.wakeMacq (s : State) (k : Nat) (o : MatOwner) : State :=
  o.members.foldl (fun s t =>
    if !s.groupLive k t then s
    else match (s.group? k t).bind fun g => g.held fun w => w == .macq with
    | none => s
    | some e => match s.issAt k t e with | some x => s.advance x 8 | none => s) s

/-- Grants the engine to a waiter. -/
def State.grantWaiter (s : State) (k : Nat) (o : MatOwner) : State :=
  (s.modCore k fun c => c.grant o false).wakeMacq k o

/-- The bank words of a save area that are in error. -/
def Core.saveErrors (c : Core) (save : Nat) : List Nat :=
  c.poison.filter fun w => decide (save ≤ 16 * w ∧ 16 * w < save + 0x10000)
/-- The planes with bytes of bank words in error, which the reload of operation n does not give. -/
def Matrix.loseWords (m : Matrix) (n save : Nat) (l : List Nat) : Matrix :=
  l.foldl (fun m w =>
    let o := 16 * w - save
    let bs := (List.range 16).map fun i => Config.lostByte n (o + i)
    if o < 0x8000 then { m with active := m.active.writeBytes o bs }
    else { m with shadow := m.shadow.writeBytes (o - 0x8000) bs }) m

/-- A suspended owner resumes (11 R234). Where words of its save area are in error, the reload reports them once, for the
issuer of the owner's first queued operation or its first group, and the codes there are open (24 R349, log 118: DESIGN
CHOICE). -/
def State.resumeOwner (s : State) (k : Nat) (o : MatOwner) : State :=
  match s.core? k with
  | none => s
  | some c =>
    let s1 := s.modCore k fun c => c.grant o true
    let bad := c.saveErrors o.save
    match least bad with
    | none => s1
    | some w =>
      let slot := o.members.headD 0
      let id := s.identity k (.group slot 0)
      let who := ((o.ops.head?.bind fun q => q.whos.head?)).getD ⟨k, o.ctx, some (.group slot), ⟨0, 0⟩, id.1, id.2.1, id.2.2⟩
      let s2 := (s1.modMat k fun m => m.loseWords s.nextId o.save bad).faultLate who 3 3 0x1B (16 * w)
      { s2 with nextId := s.nextId + 1 }

/-- R221's order once nobody runs. -/
def State.passEngine (s : State) (k : Nat) : State :=
  match s.core? k with
  | none => s
  | some c =>
    match c.liveSusp with
    | top :: _ =>
      match c.preemptor top with
      | some w => s.grantWaiter k w
      | none => s.resumeOwner k top
    | [] => match c.mat.queue with
      | w :: _ => s.grantWaiter k w
      | [] => s.modMat k fun m => { m with releasing := false }

/-- An owner with a member that still stands at its macq and can go on: its group has resumed since the grant (24 R342). -/
def State.macqOwed (s : State) (k : Nat) : Option MatOwner :=
  match s.core? k with
  | none => none
  | some c => (c.mat.owner.toList ++ c.mat.susp).find? fun o => o.members.any fun t =>
      s.groupLive k t && (match s.group? k t with | some g => (g.held fun w => w == .macq).isSome | none => false)

/-- MACQ_GRANT (11 R220): the engine goes to the head of the queue; or a split that was frozen at the grant goes on. -/
def execMacqGrant (core : Nat) (s : State) : Res :=
  match s.core? core with
  | none => .fault (.notEnabled "MACQ_GRANT")
  | some c =>
    match s.macqOwed core with
    | some o => .next (s.wakeMacq core o)
    | none => match c.mat.owner, c.liveSusp, c.mat.queue with
      | none, [], w :: _ => .next (s.grantWaiter core w)
      | _, _, _ => .fault (.notEnabled "MACQ_GRANT")

/-- The head of an owner's queue is a release. -/
def MatOwner.releases (o : MatOwner) : Bool :=
  match o.ops with | p :: _ => (match p.instr with | .mrel _ => true | _ => false) | [] => false

/-- ENGINE_RELEASE (11 R221, R222; 23 R335): the running owner ends at its mrel, or once its groups are gone and its
operations done; operations queued behind an mrel are discarded (log 16). A waiter that may pre-empt the owner comes before
its mrel (R233). A suspended owner that is gone leaves the stack; until then nothing counts it (`Core.liveSusp`). -/
def execEngineRelease (core : Nat) (s : State) : Res :=
  match s.core? core with
  | none => .fault (.notEnabled "ENGINE_RELEASE")
  | some c =>
    match c.mat.owner with
    | some o =>
      if (o.releases && (c.preemptor o).isNone) || (c.ownerGone o && o.ops.isEmpty) then
        let s1 := o.ops.foldl (fun s p => s.dropMatOp core o.members p) s
        .next ((s1.modMat core fun m => { m with owner := none, lastCtx := some o.ctx }).passEngine core)
      else match c.mat.susp.find? c.suspGone with
        | some o => .next (s.modMat core fun m => { m with susp := m.susp.filter fun p => p != o })
        | none => .fault (.notEnabled "ENGINE_RELEASE")
    | none =>
      match c.mat.susp.find? c.suspGone with
      | some o => .next (s.modMat core fun m => { m with susp := m.susp.filter fun p => p != o })
      | none =>
        if c.mat.releasing || !c.mat.susp.isEmpty then .next (s.passEngine core)
        else .fault (.notEnabled "ENGINE_RELEASE")

/-- R233, step 1: both planes go to the save area at once, so every later load of it reads what they held (11 R234, log 131:
DESIGN CHOICE). -/
def Core.spill (c : Core) (save : Nat) : Core :=
  { c with
    slice := (c.slice.blit save 0x8000 c.mat.active).blit (save + 0x8000) 0x8000 c.mat.shadow
    poison := c.poison.filter fun w => !decide (save ≤ 16 * w ∧ 16 * w < save + 0x10000) }

/-- PREEMPTION (11 R233). -/
def execPreemption (core : Nat) (s : State) : Res :=
  match s.core? core with
  | none => .fault (.notEnabled "PREEMPTION")
  | some c =>
    match c.mat.owner with
    | none => .fault (.notEnabled "PREEMPTION")
    | some o => match c.preemptor o with
      | none => .fault (.notEnabled "PREEMPTION")
      | some w =>
        .next ((s.modCore core fun c =>
          let c1 := c.spill o.save
          { c1 with mat := { c1.mat with
              susp := o :: c1.mat.susp, owner := none, active := [], shadow := [], lastCtx := some o.ctx } }).grantWaiter
            core w)

/-! The operations (11 R214, R215, R227 to R231). -/

/-- The running owner's first operation, when it is of a kind; a waiter that may pre-empt the owner comes before it (11
R233). -/
def State.matHead (s : State) (k : Nat) (p : Instr → Bool) : Option (MatOwner × MatOp) :=
  match s.core? k with
  | none => none
  | some c => match c.mat.owner with
    | none => none
    | some o => match o.ops with
      | q :: _ => if p q.instr && (c.preemptor o).isNone then some (o, q) else none
      | [] => none

/-- Ends the running owner's first operation: its fault, if it has one, is recorded once, for its issuer or the
lowest-indexed of the members (08 R184, log 109: DESIGN CHOICE); flags go to every member (11 R215); it is counted complete
everywhere. -/
def State.endMatOp (s : State) (k : Nat) (o : MatOwner) (q : MatOp) (fault : Option (Nat × Nat)) (fl : FFlags) : State :=
  let s1 := s.modMat k fun m => { m with owner := m.owner.map fun w => { w with ops := w.ops.drop 1 } }
  let s2 := match fault, q.whos with
    | some (cause, a), w :: _ => (if cause = 0x1B then s1.countEcc k else s1).deferFault w 3 cause a
    | _, _ => s1
  let s3 := o.members.foldl (fun s t => s.partyFlags k (some (.group t)) fl) s2
  q.refs.foldl (fun s r => s.complete k r fault.isSome) s3

/-- The address of slice row i of an operation whose start is value a. -/
def MatOp.rowAddr (q : MatOp) (a i : Nat) : Nat :=
  wrap48 ((q.vals.getD a 0).toNat + i * rowStride (q.vals.getD 1 0))

/-- Rows of an operation. -/
def MatOp.count (q : MatOp) : Nat := (q.vals.getD 2 0).toNat
/-- First row. -/
def MatOp.row0 (q : MatOp) : Nat := rowFirst (q.vals.getD 1 0)

/-- R218 for the slice rows of an operation: n bytes each, aligned with their stride. The record of a misaligned stride gives
the start address, which may be aligned (log 110: DESIGN CHOICE). -/
def State.matFault (s : State) (k : Nat) (q : MatOp) (a n align : Nat) (write : Bool) : Option (Nat × Nat) :=
  match q.whos with
  | [] => none
  | w :: _ =>
    let start := (q.vals.getD a 0).toNat % 2 ^ 48
    if start % align ≠ 0 ∨ rowStride (q.vals.getD 1 0) % (align : Int) ≠ 0 then some (0x08, aliasForm k start)
    else s.operandFault k w.ctx (w.party.getD (.ct w.ctx false))
      ((List.range q.count).map fun i => ⟨q.rowAddr a i, n, write, false, 1⟩)

/-- Row i of n bytes of the slice, as read i of an operation takes it (08 R182). -/
def MatOp.row (q : MatOp) (s : State) (k i n : Nat) : List Byte :=
  overlay q.early i (aliasOff (q.rowAddr 0 i)) (s.sliceRead k (aliasOff (q.rowAddr 0 i)) n)

/-- PLANE_LOAD (11 R227). -/
def execPlaneLoad (core : Nat) (s : State) : Res :=
  match s.matHead core fun i => match i with | .mlds _ => true | _ => false with
  | none => .fault (.notEnabled "PLANE_LOAD")
  | some (o, q) =>
    let rl := planeRowBytes q.cfg
    match s.matFault core q 0 rl (if rl = 256 then 2 else 1) false with
    | some f => .next (s.endMatOp core o q (some f) fNone)
    | none =>
      .next (((List.range q.count).foldl (fun s j =>
        let bs := q.row s core j rl
        s.modMat core fun m => { m with shadow := m.shadow.writeBytes ((q.row0 + j) * rl) bs }) s).endMatOp core o q none
          fNone)

/-- PLANE_FLIP (11 R228). -/
def execPlaneFlip (core : Nat) (s : State) : Res :=
  match s.matHead core fun i => match i with | .mflp _ => true | _ => false with
  | none => .fault (.notEnabled "PLANE_FLIP")
  | some (o, q) =>
    .next ((s.modMat core fun m => { m with active := m.shadow, shadow := m.active }).endMatOp core o q none fNone)

/-- BANK_CLEAR (11 R231). -/
def execBankClear (core : Nat) (s : State) : Res :=
  match s.matHead core fun i => match i with | .mclr _ => true | _ => false with
  | none => .fault (.notEnabled "BANK_CLEAR")
  | some (o, q) =>
    let mask := (matFields q.instr).fn
    .next ((s.modMat core fun m => { m with banks := (List.range 4).map fun b =>
      if (mask.getLsbD b : Bool) then [] else m.banks.getD b [] }).endMatOp core o q none fNone)

/-- The format of operand A or B of a configuration, and its scale (11 R215, R226). -/
def MatCfg.format (c : MatCfg) (b : Bool) : FloatFmt :=
  if c.type = 0#2 then .f16 else if c.type = 1#2 then .bf16
  else if b then .f8 (bits c.fmt 5 3) (c.fmt.getLsbD 8) (c.fmt.getLsbD 9)
  else .f8 (bits c.fmt 0 3) (c.fmt.getLsbD 3) (c.fmt.getLsbD 4)
/-- The exact value of an operand code. -/
def MatCfg.decode (c : MatCfg) (b : Bool) (code : Nat) : FV :=
  let v := decodeFloat (c.format b) code
  if c.type = 2#2 then v.scale (fmtXS c.fmt) else v

/-- Codes of w bytes from bytes. -/
def codesOf (w : Nat) : Nat → List Byte → List Nat
  | 0, _ => []
  | n + 1, bs => ofLE (bs.take w) :: codesOf w n (bs.drop w)

/-- W(k, ·) for every k, as values (11 R214). -/
def planeValues (c : MatCfg) (m : Memory) : List (List FV) :=
  let w := if c.type = 2#2 then 1 else 2
  let codes := codesOf w (planeRows c * 128) (Memory.dense 0x8000 0 m)
  let rows := (List.range (planeRows c)).map fun k => ((codes.drop (128 * k)).take 128).map (c.decode true)
  if c.t then (List.range 128).map fun k => rows.map fun r => r.getD k (.zero false) else rows

/-- An exact result as a value. -/
def Exact.toFV : Exact → FV
  | .nan nv => .nan nv
  | .inf neg _ => .inf neg
  | .zero neg => .zero neg
  | .val neg x => FV.mk neg x.m x.e

/-- One addition of R214 into each column: t gives the exact term of a column. -/
def addTerms (xs : List FRes) (ts : List FV) : List FRes :=
  xs.zipWith (fun x t =>
    let r := (sumFV [decodeFloat .f32 x.code, t] false).round .f32 RCtl.rne
    ⟨r.code, x.flags ||| r.flags⟩) ts

/-- The flag that an exact term itself sets: NV of 0 x infinity, of infinities that cancel, of a signalling NaN. -/
def termFlag (t : FV) : FFlags := if t.isSnan then fNV else fNone

/-- Runs the k of R214 over the columns of one row, one k at a time. -/
def accumulate (xs : List FRes) : List (FV × List FV) → List FRes
  | [] => xs
  | (a, w) :: r =>
    let ts := w.map fun b => a.mul b
    accumulate ((addTerms xs ts).zipWith (fun x t => ⟨x.code, x.flags ||| termFlag t⟩) ts) r

/-- Runs the k of R214 with pairs: the pair sum is exact. -/
def accumulate2 (xs : List FRes) : List ((FV × List FV) × (FV × List FV)) → List FRes
  | [] => xs
  | ((a, w), (b, v)) :: r =>
    let ts := w.zipWith (fun p q => (sumFV [a.mul p, b.mul q] false).toFV) v
    accumulate2 ((addTerms xs ts).zipWith (fun x t => ⟨x.code, x.flags ||| termFlag t⟩) ts) r

/-- Pairs of neighbours. -/
def pairUp {α : Type} : List α → List (α × α)
  | a :: b :: r => (a, b) :: pairUp r
  | _ => []

/-- One row of an accumulation step: codes of the row, columns before, columns after with the flags. -/
def stepRow (c : MatCfg) (plane : List (List FV)) (row : List Nat) (acc : List Word) : List FRes :=
  let a := row.map (c.decode false)
  let xs := acc.map fun w => (⟨w.toNat, fNone⟩ : FRes)
  if c.type = 2#2 then accumulate2 xs (pairUp (a.zip plane)) else accumulate xs (a.zip plane)

/-- The codes of a register row (11 R229); a helper lane's elements read as zero. -/
def regRow (c : MatCfg) (helper : LaneSet) (row : List Word) : List Nat :=
  (List.range 128).flatMap fun j =>
    let w : Word := if helper.getLsbD j then 0 else row.getD j 0
    if c.type = 2#2 then [bits w 0 8, bits w 8 8] else [bits w 0 16]

/-- A row of a bank. -/
def bankRow (b : AMap (List Word)) (r : Nat) : List Word := AMap.getD b r (List.replicate 128 0)
/-- Sets a row of bank n. -/
def Matrix.setRow (m : Matrix) (n r : Nat) (v : List Word) : Matrix :=
  { m with banks := m.banks.modify n fun b => AMap.set b r v }

/-- ACCUMULATION_STEP (11 R214, R229). -/
def execAccumulationStep (core : Nat) (s : State) : Res :=
  match s.matHead core fun i => match i with | .mstr _ => true | _ => false, s.core? core with
  | some (o, q), some c =>
    let f := matFields q.instr
    let fault := if f.fn.getLsbD 6 then none
      else s.matFault core q 0 256 (if q.cfg.type = 2#2 then 1 else 2) false
    match fault with
    | some e => .next (s.endMatOp core o q (some e) fNone)
    | none =>
      let rows : List (List Nat) := if f.fn.getLsbD 6 then
          (List.range q.rows.length).flatMap fun j => (q.rows.getD j []).map (regRow q.cfg (q.helpers.getD j 0))
        else (List.range q.count).map fun i =>
          let bs := q.row s core i 256
          if q.cfg.type = 2#2 then codesOf 1 256 bs else codesOf 2 128 bs
      let plane := planeValues q.cfg c.mat.active
      let n := bits f.fn 4 2
      let r := (List.range rows.length).foldl (fun (r : State × FFlags) i =>
        let old := if f.fn.getLsbD 3 then bankRow (c.mat.banks.getD n []) (q.row0 + i) else List.replicate 128 0
        let new := stepRow q.cfg plane (rows.getD i []) old
        (r.1.modMat core fun m => m.setRow n (q.row0 + i) (new.map fun v => BitVec.ofNat 32 v.code),
         new.foldl (fun fl v => fl ||| v.flags) r.2)) (s, fNone)
      .next (r.1.endMatOp core o q none r.2)
  | _, _ => .fault (.notEnabled "ACCUMULATION_STEP")

/-- One element of mout (11 R230). -/
def moutElem (q : MatOp) (o : Op) (x rnd : Word) : FRes :=
  match elemOf (ebRec o) with
  | .float f =>
    if f == .f32 then ⟨x.toNat, fNone⟩
    else
      let v := fv32 x
      roundFV f (fmtCtl q.fmt rnd.toNat) (if o.fn.getLsbD 3 && f.tiny then v.scale (-(fmtXS q.fmt)) else v)
  | .int _ _ => ⟨0, fNone⟩

/-- ACCUMULATOR_OUTPUT (11 R230). A joint one to the slice takes its random bits from the registers of the lowest-indexed
member (log 111: DESIGN CHOICE). -/
def execAccumulatorOutput (core : Nat) (s : State) : Res :=
  match s.matHead core fun i => match i with | .mout _ => true | _ => false, s.core? core with
  | some (o, q), some c =>
    let f := matFields q.instr
    let w := codeBits (ebRec f) / 8
    let reg := f.fn.getLsbD 6
    let n := bits f.fn 4 2
    match (if reg then none else s.matFault core q 3 (128 * w) w true) with
    | some e => .next (s.endMatOp core o q (some e) fNone)
    | none =>
      let members := if reg then o.members.length else 1
      let row := fun (j i : Nat) =>
        let acc := bankRow (c.mat.banks.getD n []) (q.row0 + j * q.count + i)
        let rnd := ((q.rows.getD j []).getD i [])
        (List.range 128).map fun k => moutElem q f (acc.getD k 0) (rnd.getD k 0)
      let r := (List.range members).foldl (fun (r : State × FFlags) j =>
        (List.range q.count).foldl (fun (r : State × FFlags) i =>
          let l := row j i
          let s1 := if reg then
              r.1.modGroup core (o.members.getD j 0) fun g =>
                g.setV ((q.vals.getD (4 + j) 0).toNat + i) LaneSet.all fun k => BitVec.ofNat 32 (l.getD k ⟨0, fNone⟩).code
            else r.1.sliceWrite core (aliasOff (q.rowAddr 3 i)) (l.flatMap fun v => toLE w v.code)
          let s2 := if f.fn.getLsbD 2 then
              s1.modMat core fun m => m.setRow n (q.row0 + j * q.count + i) (List.replicate 128 0)
            else s1
          (s2, l.foldl (fun fl v => fl ||| v.flags) r.2)) r) (s, fNone)
      .next (r.1.endMatOp core o q none r.2)
  | _, _ => .fault (.notEnabled "ACCUMULATOR_OUTPUT")

end Sys2Proof.Machine
end

