-- ==== Sys2Proof/Machine/Rays.lean ====
section
/-! DEFINITION. Row 0xD: scenes, traces, repacking, the rasteriser and tile write-back (15 R256 to R272, 16 R273). -/
namespace Sys2Proof.Machine

/-! Scenes (15 R257 to R260). -/

/-- The slot that a scene handle names; none where R257 refuses it. -/
def sceneSlot (h : DWord) : Option Nat := if bits h 6 58 = 1 then some (bits h 0 6) else none

/-- A scene slot of a context. -/
def Ctx.scene (c : Ctx) (n : Nat) : SceneSlot := AMap.getD c.scenes n ⟨none, .none, false⟩
/-- Changes a scene slot. -/
def Ctx.setScene (c : Ctx) (n : Nat) (v : SceneSlot) : Ctx := { c with scenes := AMap.set c.scenes n v }

/-- scnb (15 R259): it counts on the CT's RAY counter. -/
def execScnb (o : Op) (s : State) : Res :=
  issue { g := o.g, phase := .C, who := .ct, reads := [rdS o.a, rdS o.b] ++ countReads o, writes := [] } 16 s fun x =>
    let n := (x.count o).toNat
    match sceneSlot (x.s o.b.reg) with
    | none => trapR x s 0x02
    | some slot =>
      if n < 1 ∨ 128 < n then trapR x s 0x02
      else engineR x s 2 16 (.scnb o) [x.s o.a.reg, BitVec.ofNat 64 slot, BitVec.ofNat 64 n]

/-- scnp (15 R260). -/
def execScnp (o : Op) (s : State) : Res :=
  issue { g := o.g, phase := .C, who := .ct, reads := [rdS o.a], writes := [] } 8 s fun x =>
    match sceneSlot (x.s o.a.reg) with
    | none => trapR x s 0x02
    | some slot => .next ((s.modCtx x.ctx fun c =>
        { c with sceneReqs := c.sceneReqs ++ [(x.core, slot, o.fn.getLsbD 0)] }).advance x 8)

/-- Scene requests of a context at the boundary (15 R260). -/
def State.sceneBoundary (s : State) (ctx : Nat) : State :=
  s.modCtx ctx fun c =>
    let l := (List.range 64).flatMap fun k => (c.sceneReqs.filter fun p => p.1 == k).map Prod.snd
    l.foldl (fun c p =>
      let v := c.scene p.1
      if p.2 then c.setScene p.1 { v with published := none, err := false }
      else match v.build with
        | .built b => c.setScene p.1 { v with published := some b, err := false }
        | _ => { c with drop := c.drop + 1 }) { c with sceneReqs := [] }

/-- A value is neither NaN nor infinite. -/
def finiteW (w : Word) : Bool := bits w 23 8 != 255
/-- Word n of a list of bytes. -/
def wordAt (bs : List Byte) (n : Nat) : Word := BitVec.ofNat 32 (ofLE ((bs.drop (4 * n)).take 4))
/-- Records of n words each. -/
def recordsOf (n : Nat) : Nat → List Byte → List (List Word)
  | 0, _ => []
  | m + 1, bs => wordsLE n bs :: recordsOf n m (bs.drop (4 * n))

/-- An instance record is valid for a table of n triangles (15 R258). -/
def instanceOk (n : Nat) (r : List Word) : Bool :=
  let w := fun i => r.getD i 0
  (List.range 12).all (fun i => finiteW (w i)) && bits (w 14) 9 23 == 0 && w 15 == 0
    && decide (1 ≤ (w 13).toNat ∧ (w 13).toNat ≤ 2 ^ 25) && decide ((w 12).toNat + (w 13).toNat ≤ n)
/-- A triangle record is valid. -/
def triangleOk (r : List Word) : Bool :=
  (List.range 9).all (fun i => finiteW (r.getD i 0)) && bits (r.getD 9 0) 1 31 == 0

/-- The faults of an operand of a build: its checks as a CT access, then its translation (15 R258, R259). -/
def State.buildFault (s : State) (op : EngineOp) (l : List Span) : Option (Nat × Nat) :=
  (s.opFault op l).orElse fun _ =>
    leastFault (l.filterMap fun sp =>
      if isVirtual sp.a then match s.virtCheck op.who.ctx sp.a sp.n sp.write with
        | .error a => some (s.walkFault op.who.ctx a sp.write)
        | .ok _ => none
      else none)

/-- Bytes of an operand that has passed its checks, as a read of the operation takes them. -/
def State.operandBytes (s : State) (op : EngineOp) (read a n : Nat) : List Byte :=
  match s.readSide op.who.core op.who.ctx (op.early.filterMap fun e => if e.read = read then some { e with read := 0 } else none) a n with | .ok bs => bs | .error _ => []

/-- What a build comes to: an address fault, or a status with the scene of status 1. -/
inductive BuildEnd where
  | fault (cause addr : Nat)
  | status (n : Nat) (scene : Build)

/-- Reads a build's descriptor and tables (15 R258); cap is the slot's capacity. A triangle count that is 0 or above 2^25, in
the descriptor or in an instance, counts as invalid input (log 117: DESIGN CHOICE). -/
def State.buildScene (s : State) (op : EngineOp) (a n cap : Nat) : BuildEnd :=
  match s.buildFault op [⟨a, 64, false, true, 64⟩, ⟨(a + 0x38) % 2 ^ 48, 4, true, true, 1⟩] with
  | some f => .fault f.1 f.2
  | none =>
    let d := s.operandBytes op 0 a 64
    let flags := wordAt d 5
    let place := fun (v : Nat) => if flags.getLsbD 0 then (a + v) % 2 ^ 48 else v % 2 ^ 48
    let tri := place (ofLE (d.take 8))
    let inst := place (ofLE ((d.drop 8).take 8))
    let m := (wordAt d 4).toNat
    let countOk := decide (1 ≤ m ∧ m ≤ 2 ^ 25)
    match s.buildFault op (⟨inst, 64 * n, false, true, 4⟩ :: ⟨tri, if countOk then 40 * m else 0, false, true, 4⟩ :: []) with
    | some f => .fault f.1 f.2
    | none =>
      let insts := recordsOf 16 n (s.operandBytes op 1 inst (64 * n))
      let tris := if countOk then recordsOf 10 m (s.operandBytes op 2 tri (40 * m)) else []
      let zero := ((d.drop 0x18).take 0x20).all (fun b => b == 0) && ((d.drop 0x3C).take 4).all fun b => b == 0
      if !countOk || bits flags 1 31 != 0 || !zero || !insts.all (instanceOk m) || !tris.all triangleOk then
        .status 3 .failed
      else if cap < m then .status 2 .failed
      else .status 1 (.built ⟨insts, tris⟩)

/-- SCENE_BUILD_COMPLETE (15 R259): builds of one slot complete in issue order. -/
def execSceneBuildComplete (core id : Nat) (s : State) : Res :=
  let isBuild := fun (i : Instr) => match i with | .scnb _ => true | _ => false
  match (s.core? core).bind fun c => c.nextOp id isBuild with
  | none => .fault (.notEnabled "SCENE_BUILD_COMPLETE")
  | some op =>
    let slot := (op.val 1).toNat
    let older := s.cores.any fun c => c.ops.any fun p =>
      isBuild p.instr && p.who.ctx == op.who.ctx && (p.val 1).toNat == slot && decide (p.id < op.id)
    match s.ctx? op.who.ctx with
    | none => .fault (.notEnabled "SCENE_BUILD_COMPLETE")
    | some c =>
      if older then .fault (.notEnabled "SCENE_BUILD_COMPLETE")
      else
        let a := wrap48 (op.val 0).toNat
        let put := fun (s : State) (b : Build) => s.modCtx op.who.ctx fun c => c.setScene slot { c.scene slot with build := b }
        match s.buildScene op a (op.val 2).toNat (c.scncap.getD slot 0) with
        | .fault cause addr => .next ((put s .failed).endOp op 2 (some (cause, addr)))
        | .status n b =>
          let w := s.copyWrite core op.who.ctx ((a + 0x38) % 2 ^ 48) [(0, toLE 4 n)]
          .next ((put w.1 b).endOp op 2 none)

/-! The exact test (15 R262). -/

/-- The components of a triple by number. -/
def comp (p : Word × Word × Word) (k : Nat) : Word := match k with | 0 => p.1 | 1 => p.2.1 | _ => p.2.2

/-- A ray moved into an instance's object space, one rounding for each component. -/
def intoObject (inst : List Word) (o d : Word × Word × Word) : (Word × Word × Word) × (Word × Word × Word) :=
  let m := fun (r c : Nat) => fv32 (inst.getD (4 * r + c) 0)
  let row := fun (r : Nat) (p : Word × Word × Word) =>
    [(m r 0).mul (fv32 p.1), (m r 1).mul (fv32 p.2.1), (m r 2).mul (fv32 p.2.2)]
  let ro := fun r => rn (sumFV (row r o ++ [m r 3]) false)
  let rd := fun r => rn (sumFV (row r d) false)
  ((ro 0, ro 1, ro 2), (rd 0, rd 1, rd 2))

/-- kz, kx and ky of a direction. -/
def rayAxes (d : Word × Word × Word) : Nat × Nat × Nat :=
  let m := fun k => (absW (comp d k)).toNat
  let kz := if m 0 > m 1 ∧ m 0 > m 2 then 0 else if m 1 > m 2 then 1 else 2
  let kx := (kz + 1) % 3
  let ky := (kx + 1) % 3
  if ltW (comp d kz) 0 then (kz, ky, kx) else (kz, kx, ky)

/-- RN(RN(a b) - RN(c e)), or where that is ±0 the RN of the exact expression. -/
def crossRn (a b c e : Word) : Word :=
  let r := rnSub (rnMul a b) (rnMul c e)
  if absW r = 0 then rn (sumFV [(fv32 a).mul (fv32 b), ((fv32 c).mul (fv32 e)).neg] false) else r

/-- The test of one triangle: t, u, v and back-facing, or a miss; tmin and tmax bound t. -/
def meetTriangle (o d : Word × Word × Word) (tri : List Word) (tmin tmax : Word) : Option (Word × Word × Word × Bool) :=
  let (kz, kx, ky) := rayAxes d
  let sx := rnDiv (comp d kx) (comp d kz)
  let sy := rnDiv (comp d ky) (comp d kz)
  let sz := rnDiv one32 (comp d kz)
  let q := fun (j k : Nat) => rnSub (tri.getD (3 * j + k) 0) (comp o k)
  let px := fun j => rnSub (q j kx) (rnMul sx (q j kz))
  let py := fun j => rnSub (q j ky) (rnMul sy (q j kz))
  let pz := fun j => rnMul sz (q j kz)
  let u := crossRn (px 2) (py 1) (py 2) (px 1)
  let v := crossRn (px 0) (py 2) (py 0) (px 2)
  let w := crossRn (px 1) (py 0) (py 1) (px 0)
  if (ltW u 0 || ltW v 0 || ltW w 0) && (ltW 0 u || ltW 0 v || ltW 0 w) then none
  else
    let det := rnAdd (rnAdd u v) w
    if absW det = 0 then none
    else
      let t := rnDiv (rnAdd (rnAdd (rnMul u (pz 0)) (rnMul v (pz 1))) (rnMul w (pz 2))) det
      if leW tmin t && leW t tmax then some (t, rnDiv v det, rnDiv w det, ltW det 0) else none

/-- A coordinate of a triangle, exactly, in units of 2^-149. -/
def triangleCoord (tri : List Word) (j k : Nat) : Int := (fv32 (tri.getD (3 * j + k) 0)).signedAt (-149)
/-- The triangle has no area: its corners lie on one line (15 R258). -/
def zeroArea (tri : List Word) : Bool :=
  let e := fun (j k : Nat) => triangleCoord tri j k - triangleCoord tri 0 k
  [(0, 1), (1, 2), (2, 0)].all fun (p : Nat × Nat) => e 1 p.1 * e 2 p.2 == e 2 p.1 * e 1 p.2

/-- The intersections of a ray with a scene that count (15 R261 to R263); any is .any. A triangle without area is never hit
(R258). -/
def sceneHits (sc : Scene) (ray : List Word) (any : Bool) : List Hit :=
  let w := fun n => ray.getD n 0
  let flags := w 8
  (List.range sc.insts.length).flatMap fun i =>
    let inst := sc.insts.getD i []
    let iw := inst.getD 14 0
    if bits (iw &&& flags) 0 8 = 0 then []
    else
      let od := intoObject inst (w 0, w 1, w 2) (w 3, w 4, w 5)
      let first := (inst.getD 12 0).toNat
      (List.range (inst.getD 13 0).toNat).filterMap fun n =>
        let tri := sc.tris.getD (first + n) []
        match (if zeroArea tri then none else meetTriangle od.1 od.2 tri (w 6) (w 7)) with
        | none => none
        | some (t, u, v, back) =>
          if (back && flags.getLsbD 8) || (!back && flags.getLsbD 9) then none
          else
            let soft := any && !(tri.getD 9 0).getLsbD 0 && !iw.getLsbD 8 && !flags.getLsbD 10
            some ⟨t, u, v, BitVec.ofNat 32 (i * 2 ^ 25 + n), (if back then 1#32 else 0) ||| (if soft then 2#32 else 0)⟩

/-- A candidate: non-opaque. -/
def Hit.soft (h : Hit) : Bool := h.kind.getLsbD 1
/-- Closer, on equal t by id (15 R263). -/
def Hit.before (a b : Hit) : Bool := ltW a.t b.t || (!ltW b.t a.t && decide (a.id.toNat < b.id.toNat))
/-- The closer of two hits. -/
def nearer (a b : Option Hit) : Option Hit :=
  match a, b with | none, x => x | x, none => x | some p, some q => if q.before p then some q else some p
/-- The closest hit of a list. -/
def nearest (l : List Hit) : Option Hit := l.foldl (fun b h => nearer b (some h)) none

/-- A ray that gets status 5 (15 R261). -/
def rayInvalid (ray : List Word) : Bool :=
  let w := fun n => ray.getD n 0
  (List.range 6).any (fun n => !finiteW (w n)) || (List.range 3).all (fun n => absW (w (3 + n)) == 0)
    || (fv32 (w 6)).isNan || (fv32 (w 7)).isNan || ltW (w 7) (w 6) || bits (w 8) 12 20 != 0

/-- The block of a result that is no hit. -/
def noHit (status : Nat) : List Word := [0x7F800000#32, 0, 0, 0xFFFFFFFF#32, 0, BitVec.ofNat 32 status]
/-- The block of a hit. -/
def hitBlock (h : Hit) (status : Nat) : List Word := [h.t, h.u, h.v, h.id, h.kind, BitVec.ofNat 32 status]
/-- The block of a final result. -/
def finalBlock (b : Option Hit) : List Word := match b with | some h => hitBlock h 1 | none => noHit 2

/-! The course of a trace (15 R263). The order of traversal is open: the engine may or may not have met an opaque
intersection yet when it presents a candidate, presents candidates in any order, and stops once no candidate is left that
it must present. -/

/-- The opaque intersection that the engine reports: the closest, or with the flag [11] any of them. -/
def opaqueHit (l : List Hit) (firstHit : Bool) (pick : Nat) : Option Hit :=
  let o := l.filter fun h => !h.soft
  if firstHit then o[pick % (max o.length 1)]? else nearest o

/-- The next presentation of a trace, or its end: the block it writes, and the trace where it stays open. -/
def Trace.next (t : Trace) (hits : List Hit) (order : Nat → Nat) : List Word × Option Trace :=
  let op := opaqueHit hits ((t.ray.getD 8 0).getLsbD 11) (order 0)
  let fin := nearer t.best op
  let best := if order 1 % 2 = 1 then fin else t.best
  let left := hits.filter fun h => h.soft && !t.shown.contains h.id
  let within := fun (b : Option Hit) (h : Hit) => match b with | none => true | some b => leW h.t b.t
  let can := left.filter (within best)
  let must := left.any fun h => match fin with | none => true | some b => ltW h.t b.t
  let n := can.length + (if must then 0 else 1)
  match can[order 2 % (max n 1)]? with
  | none => (finalBlock fin, none)
  | some c => (hitBlock c 4, some { t with best := best, cand := some c, shown := t.shown ++ [c.id] })

/-- A decision on a candidate (15 R264). -/
def Trace.decide (t : Trace) (hits : List Hit) (v : Word) (order : Nat → Nat) : List Word × Option Trace :=
  if v = 0 then t.next hits order
  else if v = 1 then
    let best := nearer t.best t.cand
    if (t.ray.getD 8 0).getLsbD 11 then (finalBlock best, none) else Trace.next { t with best := best } hits order
  else if v = 2 then (finalBlock t.cand, none)
  else (noHit 5, none)

/-- A trace reads a published scene that is in error beyond correction (15 R256, 24 R349). -/
def Ctx.badScene (c : Ctx) (slot : Nat) : Bool := (c.scene slot).published.isSome && (c.scene slot).err

/-- The trace of a ray from its start: its block, and the trace where it opens. -/
def startTrace (c : Ctx) (dst lane slot : Nat) (ray : List Word) (any : Bool) (order : Nat → Nat) :
    List Word × Option Trace :=
  match (c.scene slot).published with
  | none => (noHit 3, none)
  | some sc =>
    if rayInvalid ray then (noHit 5, none)
    else if c.badScene slot then (List.replicate 6 0, none)
    else Trace.next ⟨dst, lane, ray, slot, none, none, []⟩ (sceneHits sc ray any) order

/-- The first registers of the open traces of a uniform state. -/
def Uni.openBlocks (u : Uni) : List Nat := (u.traces.map Trace.dst).eraseDups
/-- Replaces the traces of a block in some lanes. -/
def Uni.setTraces (u : Uni) (dst : Nat) (lanes : List Nat) (l : List Trace) : Uni :=
  { u with traces := (u.traces.filter fun t => !(t.dst == dst && lanes.contains t.lane)) ++ l }

/-- trc (15 R261 to R263). The scene is frozen, so the results are known at issue; they land later. -/
def execTrc (o : Op) (s : State) : Res :=
  issue { g := o.g, phase := .C, who := .any, reads := gBlock s o.a 9 ++ [rdS o.b],
          writes := regRange o.d 6 (rowKind s.curCt) } 8 s fun x =>
    match s.ctx? x.ctx, sceneSlot (x.s o.b.reg) with
    | none, _ => .fault .noThread
    | _, none => trapR x s 0x02
    | some c, some slot =>
      let any := o.fn.getLsbD 0
      let d := o.d.toNat
      let fifth := any && !x.isCt && !x.uni.openBlocks.contains d && decide (4 ≤ x.uni.openBlocks.length)
      if fifth then trapR x s 0x02
      else if !x.requests.isEmpty && decide (63 ≤ (x.uni.count 2).val) then waitR s
      else
        let ray := fun (i : Nat) => (List.range 9).map fun j => x.lane (BitVec.ofNat 9 (o.a.reg.toNat + j)) i
        let r := x.requests.map fun i => startTrace c d i slot (ray i) any (Config.traceOrder s.nextId i)
        let hit := if c.badScene slot then (x.requests.filter fun i => !rayInvalid (ray i)).length else 0
        let s1 := (s.lanternFault x 2 hit).modUni x fun u => u.setTraces d x.requests (r.filterMap Prod.snd)
        let res := r.map Prod.fst
        let (ref, s2) := if x.requests.isEmpty then (none, s1)
          else let q := s1.countOp x.core x.party 2; (some q.1, q.2)
        let s3 :=
          if x.isCt then
            s2.pendResult x .trace 0 [] ((List.range 6).map fun j => (sNum o.d + j, ((res.getD 0 []).getD j 0).setWidth 64))
              false ref (hit != 0)
          else s2.pendResult x .trace x.sel ((List.range 6).map fun j =>
            (d + j, (List.range 128).map fun i => if x.active.getLsbD i then (resultRow x.requests res j).getD i 0
                                                   else (noHit 2).getD j 0)) [] false ref (hit != 0)
        .next (s3.advance x 8)

/-- tnx (15 R264, 16 R273). -/
def execTnx (o : Op) (s : State) : Res :=
  issue { g := o.g, phase := .C, who := .any, reads := gBlock s o.a 1, writes := regRange o.d 6 (rowKind s.curCt) } 8 s
    fun x =>
      match s.ctx? x.ctx with
      | none => .fault .noThread
      | some c =>
        let d := o.d.toNat
        let open_ := x.requests.filterMap fun i => (x.uni.traces.find? fun t => t.dst == d && t.lane == i)
        let lanes := open_.map Trace.lane
        if open_.isEmpty then .next (s.advance x 8)
        else if 63 ≤ (x.uni.count 2).val then waitR s
        else
          let r := open_.map fun t =>
            if c.badScene t.slot then (List.replicate 6 0, none) else
            let hits := match (c.scene t.slot).published with | some sc => sceneHits sc t.ray true | none => []
            t.decide hits (x.lane o.a.reg t.lane) (Config.traceOrder s.nextId t.lane)
          let hit := (open_.filter fun t => c.badScene t.slot).length
          let s1 := (s.lanternFault x 2 hit).modUni x fun u => u.setTraces d lanes (r.filterMap Prod.snd)
          let res := r.map Prod.fst
          let (ref, s2) := s1.countOp x.core x.party 2
          let s3 :=
            if x.isCt then
              s2.pendResult x .trace 0 [] ((List.range 6).map fun j =>
                (sNum o.d + j, ((res.getD 0 []).getD j 0).setWidth 64)) false (some ref) (hit != 0)
            else s2.pendResult x .trace (LaneSet.ofTest fun i => lanes.contains i)
              ((List.range 6).map fun j => (d + j, resultRow lanes res j)) [] false (some ref) (hit != 0)
          .next (s3.advance x 8)

/-- TRACE_RESULT (15 R263). -/
def execTraceResult (core id : Nat) (s : State) : Res := landEvent "TRACE_RESULT" .trace core id s

/-! Repacking (15 R265, R266). -/

/-- First carried register. -/
def rpakFirst (o : Op) : Nat := bits (word2 o) 16 9
/-- Number of carried registers, up to 128: the checks of R265 name no limit but the allocation (log 134: DEDUCED). -/
def rpakCount (o : Op) : Nat := bits (word2 o) 25 7 + 1
/-- Two rpak with one immediate. -/
def sameRpak (a b : Op) : Bool := word2 a == word2 b && word3 a == word3 b

/-- rpak (15 R265, R266): it enters the repack latch of its workgroup. -/
def execRpak (o : Op) (s : State) : Res :=
  issue { g := o.g, phase := .C, who := .group, reads := [], writes := [atS o.d] } 16 s fun x =>
    match x.grp with
    | none => .fault .noThread
    | some g =>
      let slots := s.wgSlots x.core g.wg
      let listed := (List.range 16).filter fun i => (rpakMask o).getLsbD i
      if word3 o ≠ 0 ∨ 383 < rpakFirst o ∨ (rpakMask o).getLsbD g.gidx = false
          ∨ (listed.any fun i => decide (slots.length ≤ i)) = true then trapR x s 0x02
      else if 8 * g.blocks < rpakFirst o + rpakCount o then trapR x s 0x02
      else if 1 < g.splitCount ∨ g.recs.any Option.isSome = true then trapR x s 0x0B
      else
        let mates := s.maskSlots x.core g.wg (rpakMask o)
        let gone := mates.any fun t => t != x.slot && (match s.group? x.core t with
            | some h => h.parked || h.hasExited | none => true)
        let held := slots.filterMap fun t => (s.group? x.core t).bind fun h => (h.held Wait.isRpak).bind fun e =>
          (h.split? e).bind fun sp => match sp.wait with | .rpak p => some (t, p) | _ => none
        match held with
        | [] => if gone then trapR x s 0x0F else waitR (s.setWait x (.rpak o))
        | (_, p) :: _ =>
          if sameRpak o p && !gone then waitR (s.setWait x (.rpak o))
          else .next (s.mismatch (x :: s.latchedIss x.core (held.map Prod.fst) Wait.isRpak))

/-- The first carried register of an rpak that is in error in a lane that survives, with those lanes (24 R349). -/
def Group.repackBad (g : Group) (o : Op) : Option (Nat × LaneSet) :=
  ((List.range (rpakCount o)).map fun i => (rpakFirst o + i, g.laneErr (rpakFirst o + i) &&& ~~~(g.exited ||| g.helper))).find?
    fun p => p.2 != 0
/-- A register range of a group is full. -/
def Group.rangeFull (g : Group) (first n : Nat) : Bool := (List.range n).all fun i => !g.vEmpty.getLsbD (first + i)

/-- What a listed group holds after the step (15 R266): s lists the survivors by group and lane, in order; k is the
group's place among those listed. -/
def repackGroup (g : Group) (e k : Nat) (o : Op) (surv : List (Group × Nat)) : Group :=
  let mine := (surv.drop (128 * k)).take 128
  let c := mine.length
  let lanes := LaneSet.below c
  let g1 := if c = 0 then g else (List.range (rpakCount o)).foldl (fun h i =>
    let r := rpakFirst o + i
    h.setV r lanes (fun j => match mine[j]? with | some p => (p.1.v.getD r []).getD p.2 0 | none => 0)
      (mine.any fun p => p.1.vTaint.getLsbD r)) g
  let g2 := { g1 with
    exited := ~~~lanes, helper := 0,
    uni := { (g1.uni.set (sNum o.d) (BitVec.ofNat 64 c)) with traces := [] } }
  if c = 0 then { g2 with splits := g2.splits.set e none }
  else g2.modSplit e fun sp => { sp with owned := lanes, exec := lanes, flow := sp.flow.advance 16, wait := .none }

/-- REPACK_STEP (15 R266). -/
def execRepackStep (core wg : Nat) (s : State) : Res :=
  let slots := s.wgSlots core wg
  let heldOp := fun (t : Nat) => (s.group? core t).bind fun h => (h.held Wait.isRpak).bind fun e =>
    (h.split? e).bind fun sp => match sp.wait with | .rpak o => some (h, e, o) | _ => none
  match slots.findSome? heldOp with
  | none => .fault (.notEnabled "REPACK_STEP")
  | some (_, _, o) =>
    let mates := s.maskSlots core wg (rpakMask o)
    let l := mates.filterMap heldOp
    let ready := l.length == mates.length && mates.all (fun t => s.groupLive core t) && l.all fun p =>
      sameRpak p.2.2 o && (p.1.uni.count 2).val == 0 && p.1.rangeFull (rpakFirst o) (rpakCount o)
    if !ready then .fault (.notEnabled "REPACK_STEP")
    else
      let bad := mates.filterMap fun t => (heldOp t).bind fun p => (p.1.repackBad p.2.2).bind fun r =>
        (s.issAt core t p.2.1).map fun x => (x, r)
      if !bad.isEmpty then .next (s.latchErrors bad)
      else
      let surv := l.flatMap fun p => ((~~~(p.1.exited ||| p.1.helper) : LaneSet).toList).map fun i => (p.1, i)
      let s1 := (List.range mates.length).foldl (fun s k =>
        s.modGroup core (mates.getD k 0) fun g =>
          match l[k]? with | some p => repackGroup g p.2.1 k p.2.2 surv | none => g) s
      let s2 := mates.foldl (fun s t => match s.group? core t with
        | none => s
        | some g => if g.hasExited then
            (s.modGroup core t fun g => { g with uni := { g.uni with pend := 0 } }).leaveLatches core g
          else s) s1
      .next (s2.settleTokens core)

/-! The rasteriser (15 R267 to R269). -/

/-- Sample offsets of a PAT, in 1/256 pixel (15 Table 15.5). -/
def samplePattern (p : Nat) : List (Int × Int) :=
  match p with
  | 0 => [(128, 128)]
  | 1 => [(64, 64), (192, 192)]
  | _ => [(96, 32), (224, 96), (32, 160), (160, 224)]

/-- Fields of the tile word (15 Table 15.5). -/
def tileX0 (t : DWord) : Nat := bits t 0 14
/-- Y0. -/
def tileY0 (t : DWord) : Nat := bits t 16 14
/-- WD. -/
def tileW (t : DWord) : Nat := bits t 32 6
/-- H. -/
def tileH (t : DWord) : Nat := bits t 40 6
/-- PAT. -/
def tilePat (t : DWord) : Nat := bits t 48 2

/-- The tile word is well formed (15 R267). -/
def tileOk (t : DWord) : Bool :=
  bits t 50 14 == 0 && bits t 46 2 == 0 && bits t 38 2 == 0 && bits t 30 2 == 0 && bits t 14 2 == 0
    && tilePat t != 3 && decide (1 ≤ tileW t ∧ tileW t ≤ 32) && decide (1 ≤ tileH t ∧ tileH t ≤ 32)
    && tileX0 t % 2 == 0 && tileY0 t % 2 == 0 && decide (tileX0 t + tileW t ≤ 16384) && decide (tileY0 t + tileH t ≤ 16384)

/-- X or Y is in range. -/
def vertexOk (v : DWord) : Bool :=
  let ok := fun (w : Word) => decide (-(2 ^ 23 : Int) ≤ w.toInt ∧ w.toInt < 2 ^ 23)
  ok v.lo && ok v.hi

/-- rast (15 R267): it counts on nothing; its registers are empty until it completes. -/
def execRast (o : Op) (s : State) : Res :=
  issue { g := o.g, phase := .C, who := .group, reads := regRange o.a.reg 6 .s o.a.fe ++ [rdS o.b, rdS o.c],
          writes := regRange o.d 4 .v } 8 s fun x =>
    match x.grp.bind fun g => g.split? x.entry with
    | none => .fault .noThread
    | some sp =>
      let v := fun j => x.uni.get (sNum o.a.reg + j)
      let tok := x.s o.c.reg
      if !(vertexOk (v 0) && vertexOk (v 2) && vertexOk (v 4)) || !tileOk (x.s o.b.reg) || decide (1024 < tok.toNat)
          || sp.owned != LaneSet.all || sp.exec != LaneSet.all then trapR x s 0x02
      else
        let (id, s1) := s.fresh
        let s2 := s1.modCore x.core fun c => { c with ops := c.ops ++
          [⟨id, none, s.issuer x, .rast o, (List.range 6).map v ++ [x.s o.b.reg, tok], [], x.sel, x.flow.fmt, []⟩] }
        let s3 := (List.range 4).foldl (fun s j => s.markEmpty x (BitVec.ofNat 9 (o.d.toNat + j))) s2
        .next ((s3.markEmpty x o.c.reg).advance x 8)

/-- A triangle as the rasteriser sees it. -/
structure RastTri where
  x : List Int
  y : List Int
  z : List Word
  iw : List Word

/-- The triangle that six captured values give. -/
def rastTri (vals : List DWord) : RastTri :=
  let v := fun n => vals.getD n 0
  let l := [0, 2, 4]
  ⟨l.map fun n => ((v n).lo).toInt, l.map fun n => ((v n).hi).toInt, l.map fun n => (v (n + 1)).lo,
    l.map fun n => (v (n + 1)).hi⟩

/-- dx and dy of edge j: 1 to 2, 2 to 0, 0 to 1. -/
def RastTri.edge (t : RastTri) (j : Nat) : Int × Int :=
  let a := (j + 1) % 3
  let b := (j + 2) % 3
  (t.x.getD b 0 - t.x.getD a 0, t.y.getD b 0 - t.y.getD a 0)
/-- E[j] at a sample position. -/
def RastTri.value (t : RastTri) (j : Nat) (px py : Int) : Int :=
  let a := (j + 1) % 3
  let d := t.edge j
  d.1 * (py - t.y.getD a 0) - d.2 * (px - t.x.getD a 0)
/-- A: the sum of the edge values, independent of the sample. -/
def RastTri.area (t : RastTri) : Int := t.value 0 0 0 + t.value 1 0 0 + t.value 2 0 0

/-- Coverage of a sample (15 R268). -/
def RastTri.covers (t : RastTri) (px py : Int) : Bool :=
  let s : Int := if t.area < 0 then -1 else 1
  decide (t.area ≠ 0) && (List.range 3).all fun j =>
    let e := s * t.value j px py
    let d := t.edge j
    decide (0 < e) || (decide (e = 0) && (decide (s * d.2 < 0) || (decide (d.2 = 0) && decide (0 < s * d.1))))

/-- The four result words of a sample (15 R269). -/
def RastTri.sample (t : RastTri) (lin : Bool) (px py : Int) (word : Word) : List Word :=
  let neg := decide (t.area < 0)
  let lam := fun j =>
    let e := if neg then -(t.value j px py) else t.value j px py
    if e = 0 then (0 : Word) else rn (.val (decide (e < 0)) (divMag e.natAbs 0 t.area.natAbs 0))
  let dot := fun (l : List Word) => rn (sumFV ((List.range 3).map fun j => (fv32 (lam j)).mul (fv32 (l.getD j 0))) false)
  let sum := dot t.iw
  let b := fun j => if lin then lam j else rn (divFV ((fv32 (lam j)).mul (fv32 (t.iw.getD j 0))) (fv32 sum))
  [word, b 1, b 2, dot t.z]

/-- Every second bit of a number below 256, from bit 0 on: the x half of a Morton index (07 Table 7.4). -/
def unspread (m : Nat) : Nat :=
  (if m.testBit 0 then 1 else 0) + (if m.testBit 2 then 2 else 0) + (if m.testBit 4 then 4 else 0)
    + (if m.testBit 6 then 8 else 0)

/-- The scan from an index on (15 R269): emitted lanes as result words and coverage, and the next token; indices of quads wholly
outside the tile that follow the last emitted quad count as scanned (log 133: DESIGN CHOICE). -/
def rastScan (t : RastTri) (lin : Bool) (tile : DWord) : Nat → Nat → List (List Word × Bool) → List (List Word × Bool) × Nat
  | 0, _, out => (out, 0)
  | fuel + 1, i, out =>
    let pat := samplePattern (tilePat tile)
    let m := i / pat.length
    let smp := i % pat.length
    let qx := 2 * unspread m
    let qy := 2 * unspread (m / 2)
    if tileW tile ≤ qx ∨ tileH tile ≤ qy then rastScan t lin tile fuel (i + 1) out
    else if out.length = 128 then (out, i + 1)
    else
      let off := pat.getD smp (0, 0)
      let lanes := (List.range 4).map fun k =>
        let x := qx + k % 2
        let y := qy + k / 2
        let px : Int := 256 * (tileX0 tile + x : Nat) + off.1
        let py : Int := 256 * (tileY0 tile + y : Nat) + off.2
        let word := BitVec.ofNat 32 ((tileX0 tile + x) + (tileY0 tile + y) * 2 ^ 14 + smp * 2 ^ 28)
        (t.sample lin px py word, decide (x < tileW tile ∧ y < tileH tile) && t.covers px py)
      rastScan t lin tile fuel (i + 1) (if lanes.any fun l => l.2 then out ++ lanes else out)

/-- RAST_COMPLETE (15 R269): results, helper lanes and the token land. -/
def execRastComplete (core id : Nat) (s : State) : Res :=
  match (s.core? core).bind fun c => c.nextOp id fun i => match i with | .rast _ => true | _ => false with
  | none => .fault (.notEnabled "RAST_COMPLETE")
  | some op =>
    match op.instr, op.party with
    | .rast o, .group slot =>
      let tile := op.val 6
      let tok := (op.val 7).toNat
      let total := 256 * (samplePattern (tilePat tile)).length
      let r := if tok = 0 then ([], 0)
        else rastScan (rastTri op.vals) (o.fn.getLsbD 0) tile (total - (tok - 1)) (tok - 1) []
      let row := fun j => fun i => match r.1[i]? with
        | some p => p.1.getD j 0 | none => if j = 0 then 0xFFFFFFFF#32 else 0
      .next ((s.dropOp core id).modGroup core slot fun g =>
        let g1 := (List.range 4).foldl (fun g j => g.setV (o.d.toNat + j) op.lanes (row j)) g
        { g1 with
          helper := LaneSet.ofTest fun i => match r.1[i]? with | some p => !p.2 | none => false
          uni := g1.uni.set (sNum o.c.reg) (BitVec.ofNat 64 r.2) })
    | _, _ => .fault (.notEnabled "RAST_COMPLETE")

/-! Shading rates (15 R270). -/

/-- A rate field; 3 reads as 2. -/
def rateField (v : Word) (lo : Nat) : Nat := min (bits v lo 2) 2
/-- A combiner on one axis. -/
def combine (c a b : Nat) : Nat :=
  match c with | 0 => a | 1 => b | 2 => min a b | 3 => max a b | _ => min (a + b) 2
/-- The combined rate of three. -/
def combineRates (c1 c2 : Nat) (a b c : Word) : Word :=
  let ax := fun lo => combine c2 (combine c1 (rateField a lo) (rateField b lo)) (rateField c lo)
  BitVec.ofNat 32 (ax 0 + 4 * ax 2)

/-- srat (15 R270). -/
def execSrat (o : Op) (s : State) : Res :=
  issue { g := o.g, phase := .C, who := .any, reads := [rdAny o.a, rdAny o.b, rdAny o.c],
          writes := regRange o.d 1 (rowKind s.curCt) } 8 s fun x =>
    let f := fun i => combineRates (bits o.fn 0 3) (bits o.fn 3 3) (x.lane o.a.reg i) (x.lane o.b.reg i) (x.lane o.c.reg i)
    .next ((if x.isCt then s.setS x o.d ((f 0).setWidth 64) else s.setV x o.d.toNat f).advance x 8)

/-! Tile write-back (15 R271). -/

/-- twb (15 R271): it counts on CPY; its two results are empty until it completes. -/
def execTwb (o : Op) (s : State) : Res :=
  issue { g := o.g, phase := .C, who := .any, reads := [rdS o.a] ++ regRange o.b.reg 2 .s o.b.fe ++ [rdS o.c],
          writes := regRange o.d 2 .s } 8 s fun x =>
    if x.active = 0 then .next (s.advance x 8)
    else
      let pitch := x.uni.get (sNum o.b.reg + 1)
      if pitch.hi ≠ 0 then trapR x s 0x02
      else if 63 ≤ (x.uni.count 0).val then waitR s
      else
        let s1 := s.issueEngine x 0 (.twb o) [x.s o.a.reg, x.s o.b.reg, pitch, x.s o.c.reg] [] 0
        .next (((s1.markEmpty x o.d).markEmpty x (BitVec.ofNat 9 (o.d.toNat + 1))).advance x 8)

/-- The hash of a tile's bytes (15 R271). -/
def tileHash : Nat → List Byte → DWord → DWord
  | 0, _, h => h ^^^ (h >>> 29)
  | n + 1, bs, h => tileHash n (bs.drop 8) ((h ^^^ BitVec.ofNat 64 (ofLE (bs.take 8))) * 0x00000100000001B3#64)

/-- The lowest fault of a twb's operands: the tile, then the signature word, then the destination rows. -/
def State.twbFault (s : State) (op : EngineOp) (tile sig dst pitch w : Nat) : Option (Nat × Nat) :=
  (s.buildFault op [⟨tile, 1024 * w, false, true, 1⟩]).orElse fun _ =>
    (s.opFault op [⟨sig, 8, true, false, 8⟩]).orElse fun _ =>
      s.buildFault op ((List.range 32).map fun r => ⟨(dst + r * pitch) % 2 ^ 48, 32 * w, true, true, 1⟩)

/-- The rows of a tile go to their destination one after the other (15 R271). Read 0 is that of the hash, r + 1 that of row r
and 33 that of the signature. -/
def State.twbRows (s : State) (op : EngineOp) (tile dst pitch w : Nat) : State :=
  ((List.range 32).foldl (fun (p : State × List Sample) r =>
    let b := (dst + r * pitch) % 2 ^ 48
    ((p.1.copyWrite op.who.core op.who.ctx b
        [(0, p.1.operandBytes { op with early := p.2 } (r + 1) ((tile + 32 * w * r) % 2 ^ 48) (32 * w))]).1,
      unwritten p.2 (if isVirtual b then b else aliasOff b) (32 * w))) (s, op.early)).1

/-- TWB_COMPLETE (15 R271). -/
def execTwbComplete (core id : Nat) (s : State) : Res :=
  match (s.core? core).bind fun c => c.nextOp id fun i => match i with | .twb _ => true | _ => false with
  | none => .fault (.notEnabled "TWB_COMPLETE")
  | some op =>
    match op.instr with
    | .twb o =>
      let w := if o.fn.getLsbD 0 then 8 else 4
      let tile := wrap48 (op.val 0).toNat
      let dst := wrap48 (op.val 1).toNat
      let pitch := (op.val 2).toNat
      let sig := wrap48 (op.val 3).toNat
      let put := fun (s : State) (h : DWord) (ch : DWord) =>
        s.modParty core op.party fun u => (u.set (sNum o.d) h).set (sNum o.d + 1) ch
      match s.twbFault op tile sig dst pitch w with
      | some f => .next ((put s 0 0).endOp op 0 (some f))
      | none =>
        let data := s.operandBytes op 0 tile (1024 * w)
        let h := tileHash (128 * w) data 0x9E3779B97F4A7C15#64
        if o.fn.getLsbD 1 || h != BitVec.ofNat 64 (ofLE (overlay op.early 33 (aliasOff sig) (s.sliceRead core (aliasOff sig) 8))) then
          .next ((put ((s.twbRows op tile dst pitch w).sliceWrite core (aliasOff sig) (toLE 8 h.toNat)) h 1).endOp op 0 none)
        else .next ((put s h 0).endOp op 0 none)
    | _ => .fault (.notEnabled "TWB_COMPLETE")

end Sys2Proof.Machine
end

