-- ==== Sys2Proof/Machine/RowE.lean ====
section
/-! DEFINITION. Row 0xE: overlays (17 R285 to R288), register blocks (03 R57 to R61), lnch (22 R320), and the events of the
fill queue and the claim queue. -/
namespace Sys2Proof.Machine

/-! Overlays. -/

/-- The token in s[A], and the bits that must be zero (17 R285). -/
def tokenBad (v : DWord) : Bool := bits v 12 52 != 0

/-- An operation that completes with the fill of a token that is filling; an earlier ovev no longer counts, since ovld is
followed by resident or failed (17 R286, log 22). -/
def State.joinFill (s : State) (k ctx : Nat) (t : BitVec 12) (r : OpRef) : State :=
  (s.setToken k ctx t { s.token k ctx t with evict := false }).modCore k fun c => { c with fills := c.fills.map fun f =>
    if f.ctx = ctx ∧ f.token = t then { f with refs := f.refs ++ [r] } else f }

/-- ovld (17 R286, Table 17.2). -/
def execOvld (o : Op) (s : State) : Res :=
  issue { g := o.g, phase := .C, who := .any, reads := [rdS o.a], writes := [] } 8 s fun x =>
    let v := x.s o.a.reg
    if tokenBad v then trapR x s 0x02
    else
      let t := v.extractLsb' 0 12
      let s1 := s.settleTokens x.core
      if 63 ≤ (x.uni.count 4).val then waitR s1
      else
        let (r, s2) := s1.countOp x.core x.party 4
        let old := s1.token x.core x.ctx t
        match old.state with
        | .filling => .next ((s2.joinFill x.core x.ctx t r).advance x 8)
        | .resident => .next ((s2.complete x.core r).advance x 8)
        | .evictPending =>
          .next (((s2.setToken x.core x.ctx t { old with state := .resident }).complete x.core r).advance x 8)
        | _ => match s2.startFill x.core x.ctx t [r] (s.issuer x) none with
          | .refused => trapR x s1 0x0E
          | .started s3 => .next (s3.advance x 8)

/-- The code of a token state (17 Table 17.2). -/
def TokState.code : TokState → Nat
  | .absent => 0
  | .filling => 1
  | .resident => 2
  | .evictPending => 3
  | .failed => 4

/-- What ovq reports of a token (17 Table 17.5). -/
def Core.tokenReport (c : Core) (t : Token) : DWord :=
  let held := match t.state with | .filling => true | .resident => true | .evictPending => true | _ => false
  let shared := held && (match t.image.bind fun i => c.image? i with | some i => i.shr | none => false)
  BitVec.ofNat 64 (t.cause.toNat * 2 ^ 32 + (if shared then 2 ^ 24 else 0) + (if held then t.slots else 0) * 2 ^ 8
    + t.state.code)

/-- ovq (17 R287). -/
def execOvq (o : Op) (s : State) : Res :=
  let q := o.fn.getLsbD 0
  issue { Req.plain o.g with reads := if q then [] else [rdS o.a], writes := [atS o.d] } 8 s fun x =>
    let s1 := s.settleTokens x.core
    match s1.core? x.core, s1.cctx? x.core x.ctx with
    | some c, some cc =>
      if q then
        .next ((s1.setS x o.d (BitVec.ofNat 64 (c.freeSlots * 2 ^ 32 + cc.heldSlots * 2 ^ 16 + cc.ovqt))).advance x 8)
      else
        let v := x.s o.a.reg
        if tokenBad v then trapR x s 0x02
        else .next ((s1.setS x o.d (c.tokenReport (cc.token (v.extractLsb' 0 12)))).advance x 8)
    | _, _ => .fault .noThread

/-- The ovev column of Table 17.2; a token that was failed keeps the cause of its latest failure (Table 17.5). -/
def State.evictToken (s : State) (k ctx : Nat) (t : BitVec 12) : State :=
  let old := s.token k ctx t
  match old.state with
  | .filling => s.setToken k ctx t { old with evict := true }
  | .resident => (s.setToken k ctx t { old with state := .evictPending }).settleTokens k
  | .failed => s.setToken k ctx t { old with state := .absent }
  | _ => s

/-- Forced eviction (17 R289): in the window step in which firmware runs, a token of a context on a core becomes absent
whatever its slots hold, and keeps the cause of its latest failure; a fill of it ends with it, and the operations it would
have completed are complete (log 52). -/
def State.forceEvict (s : State) (k ctx : Nat) (t : BitVec 12) : State :=
  match s.core? k with
  | none => s
  | some c =>
    if s.window != .events || !(c.cctx.any fun cc => cc.handling.isSome) then s
    else
      let mine := fun (f : Fill) => f.ctx == ctx && f.token == t
      ((c.fills.filter mine).foldl (fun s f => f.refs.foldl (fun s r => s.complete k r) s) s).modCore k fun c =>
        ({ c with fills := c.fills.filter fun f => !mine f }).makeAbsent ctx t.toNat

/-- ovev (17 R288). -/
def execOvev (o : Op) (s : State) : Res :=
  issue { g := o.g, phase := .C, who := .any, reads := [rdS o.a], writes := [] } 8 s fun x =>
    let v := x.s o.a.reg
    if tokenBad v then trapR x s 0x02
    else .next (((s.settleTokens x.core).evictToken x.core x.ctx (v.extractLsb' 0 12)).advance x 8)

/-- FILL_COMPLETE (17 R281). -/
def execFillComplete (core id : Nat) (s : State) : Res :=
  match s.finishFill core id with
  | some s' => .next s'
  | none => .fault (.notEnabled "FILL_COMPLETE")

/-- FILL_QUEUE_SERVE (17 R282). -/
def execFillQueueServe (core : Nat) (s : State) : Res :=
  match s.serveFill core with
  | some s' => .next s'
  | none => .fault (.notEnabled "FILL_QUEUE_SERVE")

/-! Register blocks (03 R57 to R61). -/

/-- Blocks of the pool that nobody holds. -/
def Core.freeBlocks (c : Core) : Nat :=
  512 - c.groups.foldl (fun n g => match g with | some g => n + g.blocks | none => n) 0
/-- Blocks that a context holds on the core. -/
def Core.heldBlocks (c : Core) (ctx : Nat) : Nat :=
  c.groups.foldl (fun n g => match g with | some g => if g.ctx = ctx then n + g.blocks else n | none => n) 0

/-- n of rgiv and rclm. -/
def blockCount (x : Iss) (o : Op) : Nat := if immBit o then (x.s o.a.reg).toNat else bits o.fn 0 6

/-- rgiv (03 R58). -/
def execRgiv (o : Op) (s : State) : Res :=
  issue { g := o.g, phase := .C, who := .group, reads := if immBit o then [rdS o.a] else [], writes := [] } 8 s fun x =>
    match x.grp with
    | none => .fault .noThread
    | some g =>
      let n := blockCount x o
      if 1 < g.splitCount then trapR x s 0x0B
      else if n < 1 ∨ g.blocks ≤ n then trapR x s 0x02
      else
        let b := g.blocks - n
        if (List.range (8 * n)).any fun i => g.vEmpty.getLsbD (8 * b + i) then waitR s
        else .next ((s.modIssGroup x fun g =>
          { g with
            blocks := b, v := g.v.take (8 * b), vTaint := g.vTaint &&& (BitVec.ofNat 384 (2 ^ (8 * b) - 1))
            vErr := g.vErr.filter fun p => decide (p.1 < 8 * b) }).advance x 8)

/-- rclm (03 R59): the claim joins the core's queue and the split waits in it. -/
def execRclm (o : Op) (s : State) : Res :=
  issue { g := o.g, phase := .C, who := .group, reads := if immBit o then [rdS o.a] else [], writes := [atS o.d] } 8 s
    fun x =>
      match x.grp with
      | none => .fault .noThread
      | some g =>
        let n := blockCount x o
        if 1 < g.splitCount then trapR x s 0x0B
        else if n < 1 ∨ 48 < g.blocks + n then trapR x s 0x02
        else waitR ((s.modCore x.core fun c => { c with claims := c.claims ++ [⟨x.slot, x.entry, o.d, n⟩] }).setWait x
          (.claim o.d n))

/-- The head claim can be served now (03 R59). -/
def Core.claimFits (c : Core) (q : Claim) : Bool :=
  match c.group? q.slot with
  | none => false
  | some g => decide (q.n ≤ c.freeBlocks)
      && (match c.cctx? g.ctx with | some cc => decide (c.heldBlocks g.ctx + q.n ≤ cc.vbq) | none => false)

/-- A claim ends: s[D] is written and the split of the group goes on, or once it can where its group is frozen, its context
detached or a straggler event of it handled (03 R61; 23 R334, R335; 24 R342). -/
def State.endClaim (s : State) (k : Nat) (q : Claim) (v : DWord) : State :=
  match s.issAt k q.slot q.entry with
  | none => s
  | some x =>
    let s1 := s.setS x q.d v
    if s.groupLive k q.slot then s1.advance x 8 else s1.setWait x .claimed

/-- RCLM_CLAIM_SERVED (03 R59). -/
def execRclmClaimServed (core : Nat) (s : State) : Res :=
  match s.core? core with
  | none => .fault (.notEnabled "RCLM_CLAIM_SERVED")
  | some c =>
    match c.claims with
    | [] => .fault (.notEnabled "RCLM_CLAIM_SERVED")
    | q :: rest =>
      if !c.claimFits q then .fault (.notEnabled "RCLM_CLAIM_SERVED")
      else
        let b := (match c.group? q.slot with | some g => g.blocks | none => 0) + q.n
        let s1 := (s.modCore core fun c => { c with claims := rest }).modGroup core q.slot fun g =>
          let old : BitVec 384 := BitVec.ofNat 384 (2 ^ (8 * g.blocks) - 1)
          { g with
            blocks := b
            v := g.v ++ List.replicate (8 * q.n) (List.replicate 128 0)
            vEmpty := g.vEmpty &&& old
            vTaint := g.vTaint &&& old }
        .next (s1.endClaim core q (BitVec.ofNat 64 b))

/-- RCLM_CLAIM_FAIL (03 R61): every claim fails when each group of the core is parked, exited, claiming or detached. -/
def execRclmClaimFail (core : Nat) (s : State) : Res :=
  match s.core? core with
  | none => .fault (.notEnabled "RCLM_CLAIM_FAIL")
  | some c =>
    let stuck := (List.range 96).all fun t => match c.group? t with
      | none => true
      | some g => g.parked || g.hasExited || c.claims.any (fun q => q.slot == t)
          || (match s.ctx? g.ctx with | some d => d.detached | none => false)
    match c.claims with
    | [] => .fault (.notEnabled "RCLM_CLAIM_FAIL")
    | q :: _ =>
      if c.claimFits q || !stuck then .fault (.notEnabled "RCLM_CLAIM_FAIL")
      else .next (c.claims.foldl (fun s q => s.endClaim core q 0) (s.modCore core fun c => { c with claims := [] }))

/-- rpol (03 R60). -/
def execRpol (o : Op) (s : State) : Res :=
  issue { Req.plain o.g with writes := [atS o.d] } 8 s fun x =>
    match s.core? x.core with
    | none => .fault .noThread
    | some c => .next ((s.setS x o.d (BitVec.ofNat 64
        (c.freeBlocks + c.heldBlocks x.ctx * 2 ^ 10 + c.claims.length * 2 ^ 20))).advance x 8)

/-! lnch (22 R320). -/

/-- lnch (22 R320). -/
def execLnch (o : Op) (s : State) : Res :=
  issue { Req.plain o.g with who := .ct, reads := [rdS o.a, rdS o.b], writes := [atS o.d] } 8 s fun x =>
    let qn := x.s o.b.reg
    match s.queues[bits qn 0 6]? with
    | none => trapR x s 0x02
    | some q =>
      if bits qn 6 58 ≠ 0 ∨ q.en = false ∨ q.src = false ∨ q.ctx ≠ x.ctx then trapR x s 0x02
      else
        let a := bits (x.s o.a.reg) 0 48
        match s.accessCheck x [0] (fun _ => a) 64 64 false with
        | some f => faultR x s { f with lanes := x.sel }
        | none =>
          if (q.widx - q.ridx).toNat = 2 ^ q.lsz then .next ((s.setS x o.d 0).advance x 8)
          else
            let rec_ := s.sliceRead x.core (aliasOff a) 64
            let s1 := { s with queues := s.queues.modify (bits qn 0 6) fun q =>
              { q with ring := AMap.set q.ring (q.widx.toNat % 2 ^ q.lsz) rec_, widx := q.widx + 1 } }
            .next ((s1.setS x o.d 1).advance x 8)

end Sys2Proof.Machine
end

