-- ==== Sys2Proof/Machine/Contexts.lean ====
section
/-! DEFINITION. Giving up, saving and restoring a context's residency on a core (21 R313; 23 R337 to R339). -/
namespace Sys2Proof.Machine

/-- A boundary window is open (09 R191). -/
def State.inWindow (s : State) : Bool := s.window != .closed

/-- Nothing that a context has issued is still under way: no operation, fill, transfer or slice access, no claim, and no
split in a latch (23 R335, R337, R341). -/
def State.drained (s : State) (ctx : Nat) : Bool :=
  s.transfersDone ctx && s.cores.all fun c =>
    c.fills.all (fun f => f.ctx != ctx || (f.placement.isSome && f.refs.isEmpty))
    && c.claims.all (fun q => match c.group? q.slot with | some g => g.ctx != ctx | none => true)
    && c.groups.all (fun g => match g with
      | some g => g.ctx != ctx || g.splits.all fun sp => (match sp with | some sp => !sp.wait.leaves | none => true)
      | none => true)
    && c.results.all (fun r => match r.party with
      | .group slot => (match c.group? slot with | some g => g.ctx != ctx | none => true)
      | .ct x _ => x != ctx)
    && (match c.mat.owner with | some o => o.ctx != ctx || o.ops.isEmpty | none => true)

/-- Contexts resident on a core. -/
def Core.residents (c : Core) : List Nat :=
  (c.cctx.zipIdx.filter fun p => p.1.resident).map Prod.snd

/-- R307: a context may become resident on core k: the core is on and of its CORES, no context holds it exclusively, and
a CT context is free (01 R13). -/
def State.mayReside (s : State) (k ctx : Nat) : Bool :=
  match s.core? k, s.ctx? ctx with
  | some c, some d =>
    c.on && d.cores.getLsbD k
      && (c.residents.contains ctx || decide (c.residents.length < 4))
      && (List.range 16).all fun n => n == ctx
        || (match s.ctx? n with | some e => !(e.excl && e.cores.getLsbD k) | none => true)
      && (c.residents.all fun n => n == ctx || !d.excl)
  | _, _ => false

/-- A context on core k with everything of it gone but the firmware entry and the free lists of its pool. -/
def CoreCtx.cleared (c : CoreCtx) (k : Nat) : CoreCtx :=
  { CoreCtx.reset k with vec := c.vec, freeNext := c.freeNext, freeTail := c.freeTail, freeAtStart := c.freeAtStart }

/-- Takes a context off core k: groups, blocks, allocations, wings, objects, claims, overlay charges, results and
operations (23 R337, R339). -/
def Core.release (c : Core) (k ctx : Nat) : Core :=
  let mine := fun (slot : Nat) => match c.group? slot with | some g => g.ctx == ctx | none => false
  let c1 := { c with
    groups := c.groups.map fun (g : Option Group) => g.filter fun g => g.ctx != ctx
    wgs := c.wgs.filter fun p => p.2.ctx != ctx
    claims := c.claims.filter fun q => !mine q.slot
    fills := c.fills.filter fun f => f.ctx != ctx
    ops := c.ops.filter fun o => o.who.ctx != ctx
    results := c.results.filter fun r => match r.party with | .group slot => !mine slot | .ct x _ => x != ctx
    nodes := c.nodes.filter fun n => n.ctx != ctx
    mat := { c.mat with
      owner := c.mat.owner.filter fun o => o.ctx != ctx
      susp := c.mat.susp.filter fun o => o.ctx != ctx
      queue := c.mat.queue.filter fun o => o.ctx != ctx } }
  (c1.modCctx ctx fun cc => cc.cleared k).dropImages

/-- Takes a context off core k, with its deposits and arrivals from there. -/
def State.release (s : State) (k ctx : Nat) : State :=
  let s1 := s.modCore k fun c => c.release k ctx
  { s1 with
    deposits := s1.deposits.filter fun d => !(d.who.core == k && d.who.ctx == ctx)
    arrivals := s1.arrivals.filter fun a => !((a.core == k || a.target == k) && a.ctx == ctx) }

/-- The state of a context on core k that an image holds (23 Table 23.3); a delivery that is handled has ended. -/
def State.imageOf (s : State) (k ctx len : Nat) : SavedCtx :=
  match s.core? k, s.cctx? k ctx, s.ctx? ctx with
  | some c, some cc, some d =>
    let wgs := c.wgs.filter fun p => p.2.ctx == ctx
    { ctx := ctx, len := len,
      cctx := { cc with handling := none, deliveries := [], tokens := [] },
      groups := (List.range 96).filterMap fun t => match c.group? t with
        | some g => if g.ctx = ctx then some (t, g) else none
        | none => none
      wgs := wgs
      bytes := c.slice.filter fun b => wgs.any fun p => decide (p.2.base ≤ b.1 ∧ b.1 < p.2.limit)
      poison := c.poison.filter fun w => wgs.any fun p => decide (p.2.base ≤ 16 * w ∧ 16 * w < p.2.limit)
      pointer := d.pointer
      popNodes := c.nodes.filter fun n => n.ctx == ctx && match n.kind with | .pop _ false _ => true | _ => false }
  | _, _, _ => ⟨ctx, len, CoreCtx.reset k, [], [], [], [], 0, []⟩

/-- The CAP_ISA version (27 Table 27.3). -/
def isaVersion : Nat := 1

/-- The length of image n, header included. -/
def imageLength (n : Nat) : Nat := 16 + Config.imageLen n % 2 ^ 31
/-- The bytes of image n. Words 2 and 3 of the header tell the model which image it is (log 7). -/
def imageBytes (n : Nat) : List Byte :=
  toLE 4 isaVersion ++ toLE 4 (imageLength n) ++ toLE 8 n
    ++ (List.range (imageLength n - 16)).map (Config.imageByte n)

/-- Writes the image of a context on core k at an address, in the address space of a context: the new state, or the
address that faults. The image's length comes along. -/
def State.writeImage (s : State) (k ctx space a : Nat) : Except Nat (State × Nat) :=
  let (n, s1) := s.fresh
  match s1.virtWrite space a (imageBytes n) with
  | .error e => .error e
  | .ok s2 => .ok ({ s2 with saves := AMap.set s2.saves n (s.imageOf k ctx (imageLength n)) }, imageLength n)

/-- A deferred fault of a ctsv, a ctld, a save or a restore, CLASS 0; an error is counted on the core that meets it (08 R184;
21 R313; 24 R349). -/
def State.reportImage (s : State) (w : Issuer) (cause a : Nat) : State :=
  (if cause = 0x1B then s.countEcc w.core else s).deferFault w 0 cause a
/-- The controller as a fault record of a context's save or restore on a core names it (log 124: DESIGN CHOICE). -/
def controller (k ctx : Nat) : Issuer := ⟨k, ctx, none, ⟨0, 0⟩, 0, 0, 0⟩
/-- The own-slice alias address of the lowest bank word in error among those of a context's image, 0 where only registers of it
are (24 R348 to R350; log 124: DESIGN CHOICE). -/
def SavedCtx.inError (v : SavedCtx) : Option Nat :=
  let regs := (v.groups.any fun p => p.2.uni.sErr != 0 || p.2.vErr.any fun q => q.2 != 0)
    || v.cctx.user.uni.sErr != 0 || v.cctx.sup.uni.sErr != 0 || !v.cctx.supErr.isEmpty
  match least v.poison with
  | some w => some (16 * w)
  | none => if regs then some 0 else none
/-- The report of what an image of a context on a core has read in error; the marks go with the image (24 R350). -/
def State.reportSaved (s : State) (w : Issuer) (k ctx : Nat) (t : State) : State :=
  match (s.imageOf k ctx 0).inError with | some a => t.reportImage w 0x1B a | none => t

/-- What reading an image comes to. -/
inductive ImageRead where
  | fault (cause addr : Nat)
  | mismatch
  | image (v : SavedCtx)

/-- Reads an image's header and contents in the address space of a context (21 R313). -/
def State.readImageAt (s : State) (space a : Nat) : ImageRead :=
  match s.virtGet space a 16 with
  | .error e => .fault e.1 e.2
  | .ok h =>
    match AMap.get? s.saves (ofLE (h.drop 8)) with
    | none => .mismatch
    | some v =>
      if ofLE (h.take 4) ≠ isaVersion ∨ ofLE ((h.drop 4).take 4) ≠ v.len then .mismatch
      else match s.virtGet space a v.len with
        | .error e => .fault e.1 e.2
        | .ok _ => .image v

/-- The partition that takes the next group: fewest resident groups, then lowest number; and its lowest free slot
(22 R325). -/
def Core.nextSlot (c : Core) : Option Nat :=
  let used := fun (p : Nat) => ((List.range 6).filter fun i => (c.group? (6 * p + i)).isSome).length
  let best := (List.range 16).foldl (fun (b : Option Nat) p => match b with
    | none => some p | some q => if used p < used q then some p else some q) none
  match best with
  | none => none
  | some p => ((List.range 6).find? fun i => (c.group? (6 * p + i)).isNone).map fun i => 6 * p + i

/-- Puts groups into slots, one after another; the slots they took come along, in order. -/
def Core.seat : Core → List Group → Core × List Nat
  | c, [] => (c, [])
  | c, g :: r =>
    match c.nextSlot with
    | none => c.seat r
    | some t =>
      let q := Core.seat { c with groups := c.groups.set t (some g) } r
      (q.1, t :: q.2)

/-- A core has room for an image of a context (21 R313, 23 R338): group slots, register blocks, and slice where its
allocations stood. -/
def State.roomFor (s : State) (k ctx : Nat) (v : SavedCtx) : Bool :=
  match s.core? k with
  | none => false
  | some c =>
    let free := ((List.range 96).filter fun t => (c.group? t).isNone).length
    let blocks := v.groups.foldl (fun n p => n + p.2.blocks) 0
    s.mayReside k ctx && decide (v.groups.length ≤ free) && decide (blocks ≤ c.freeBlocks)
      && v.wgs.all fun (p : Nat × Workgroup) => c.wgs.all fun (q : Nat × Workgroup) =>
        decide (p.2.limit ≤ q.2.base ∨ q.2.limit ≤ p.2.base)

/-- Restores an image into a context on core k that has room for it. Groups are seated as at placement; pending pops and
workgroups follow them to their slots; what is bound by a workgroup stays bound; accesses behind a pop without a value go on
waiting for it (04 R92). -/
def State.restoreImage (s : State) (k ctx : Nat) (v : SavedCtx) : State :=
  let s0 := s.modCore k fun c =>
    let seated := c.seat (v.groups.map fun p => { p.2 with ctx := ctx })
    let place := fun (t : Nat) =>
      match ((v.groups.map Prod.fst).zip seated.2).find? fun p => p.1 == t with | some p => p.2 | none => t
    let c1 := seated.1
    let c2 := { c1 with
      nodes := c1.nodes ++ v.popNodes.zipIdx.map fun (p : Node × Nat) =>
        { p.1 with id := s.nextId + p.2, ctx := ctx, slot := p.1.slot.map place, before := [] }
      slice := v.wgs.foldl (fun m (p : Nat × Workgroup) => m.blit p.2.base (p.2.limit - p.2.base)
        (v.bytes.extract p.2.base (p.2.limit - p.2.base))) c1.slice
      poison := v.poison ++ c1.poison.filter fun w =>
        !(v.wgs.any fun (p : Nat × Workgroup) => decide (p.2.base ≤ 16 * w ∧ 16 * w < p.2.limit))
      wgs := v.wgs.foldl (fun m (p : Nat × Workgroup) => AMap.set m p.1 { p.2 with ctx := ctx, slots := p.2.slots.map place }) c1.wgs }
    c2.modCctx ctx fun cc =>
      { v.cctx with
        resident := true, vec := cc.vec, freeNext := cc.freeNext, freeTail := cc.freeTail, freeAtStart := cc.freeAtStart,
        pops := v.cctx.pops.map fun (p : Pop) => { p with slot := place p.slot }
        wings := v.cctx.wings.filter fun (w : Wing) => w.owner != Owner.ct
        objs := v.cctx.objs.filter fun (o : Obj) => o.owner != Owner.ct }
  { s0.modCtx ctx fun d => { d with pointer := v.pointer } with nextId := s.nextId + v.popNodes.length }

/-- R339: a context is reset: everything of it on every core, its queues, its pool and its scenes. -/
def State.resetContext (s : State) (ctx : Nat) : State :=
  let s1 := (List.range 64).foldl (fun s k => s.release k ctx) s
  let s2 := { s1 with
    queues := s1.queues.map fun (q : LaunchQueue) => if q.ctx = ctx then { q with en := false, head := none, stat := 0 } else q
    launches := s1.launches.filter fun l => l.ctx != ctx }
  let s3 := s2.modCtx ctx fun d =>
    { d with member := false, detached := false, saved := false, savedOn := 0, rejoin := false, pointer := 0,
             csrWrites := [], scenes := [], sceneReqs := [], xadds := [] }
  s3.resetPool ctx ((s.ctx? ctx).map Ctx.npool |>.getD 64)

end Sys2Proof.Machine
end

