-- ==== Sys2Proof/Machine/Placement.lean ====
section
/-! DEFINITION. The distributor: launch records, their rejection, completion records, and placement in the boundary
window (22 R315 to R325, R389; 10 R211). -/
namespace Sys2Proof.Machine

/-! Launch records (22 Table 22.2). -/

/-- Bits [lo + n - 1 : lo] of a launch record. -/
abbrev recField (r : List Byte) (lo n : Nat) : Nat := bytesField r lo n
/-- WGCNT. -/
def lrWgcnt (r : List Byte) : Nat := recField r 128 32
/-- Groups per workgroup. -/
def lrGroups (r : List Byte) : Nat := recField r 160 4 + 1
/-- VBLK. -/
def lrVblk (r : List Byte) : Nat := recField r 164 6
/-- CLASS. -/
def lrClass (r : List Byte) : BitVec 2 := BitVec.ofNat 2 (recField r 170 2)
/-- TOKEN. -/
def lrToken (r : List Byte) : BitVec 12 := BitVec.ofNat 12 (recField r 176 12)
/-- SLICE. -/
def lrSlice (r : List Byte) : Nat := recField r 192 32
/-- SHAPE. -/
def lrShape (r : List Byte) : Nat := recField r 224 2
/-- WPC. -/
def lrWpc (r : List Byte) : Nat := recField r 226 4
/-- DONEA. -/
def lrDonea (r : List Byte) : Nat := recField r 256 48
/-- RTA. -/
def lrRta (r : List Byte) : Nat := recField r 64 48
/-- PBA. -/
def lrPba (r : List Byte) : Nat := recField r 0 48
/-- PBLEN (22 R317). -/
def lrPblen (r : List Byte) : Nat := recField r 112 16 * 65536 + recField r 48 16
/-- Some must-be-zero bit is set. -/
def lrNotZero (r : List Byte) : Bool :=
  recField r 384 128 != 0 || recField r 304 16 != 0 || recField r 230 26 != 0 || recField r 188 4 != 0
    || recField r 172 4 != 0

/-- The identity that s5 shows (01 Table 1.6). -/
def launchId (q n : Nat) : DWord := BitVec.ofNat 64 (n * 64 + q)

/-! Clusters (01 R10, 10 R211). -/

/-- The cores of the block of a shape whose lower core is b, in the order of R211. -/
def blockCores (shape b : Nat) : List Nat :=
  match shape with
  | 0 => [b]
  | 1 => [b, b + 1]
  | 2 => [b, b + 8]
  | _ => [b, b + 1, b + 8, b + 9]
/-- b is the lower core of an aligned block of a shape (01 R10). -/
def alignedBlock (shape b : Nat) : Bool :=
  (shape % 2 == 0 || b % 2 == 0) && (decide (shape < 2) || b / 8 % 2 == 0)
/-- How many of wpc workgroups are mapped to core i of c (10 R211). -/
def shareOf (wpc c i : Nat) : Nat := ((List.range wpc).filter fun j => j % c == i).length
/-- The cores of a block with the number of workgroups each takes. -/
def blockLoad (r : List Byte) (b : Nat) : List (Nat × Nat) :=
  let ks := blockCores (lrShape r) b
  (List.range ks.length).map fun i => (ks.getD i 0, shareOf (lrWpc r) ks.length i)

/-! Faults and completions (22 R319, R389). -/

/-- R389: the record of a fault that the distributor meets. -/
def State.distributorFault (s : State) (ctx q n : Nat) (a : Nat) (cause : Nat := 0x19) : State :=
  s.appendRecord ctx
    { FaultRec.zero with phase := s.phase, launch := launchId q n, cls := 0, cause := cause, addr := a }

/-- R319: writes the completion record of a launch, if it wants one. -/
def State.completion (s : State) (ctx q n : Nat) (r : List Byte) (status reason : Nat) : State :=
  if lrDonea r = 0 then s
  else match s.virtWrite ctx (lrDonea r) (toLE 8 (status + reason * 256) ++ toLE 8 (recField r 320 64)) with
    | .ok s' => s'
    | .error a => s.distributorFault ctx q n a

/-! Rejection (22 R318, Table 22.3). -/

/-- The switched-on cores of a context's CORES mask. -/
def State.coresOf (s : State) (ctx : Nat) : List Nat :=
  (List.range 64).filter fun k => s.coreOn k && (match s.ctx? ctx with | some d => d.cores.getLsbD k | none => false)

/-- The greatest of some numbers. -/
def greatest (l : List Nat) : Nat := l.foldl max 0

/-- R318 reason 5: a core holds n workgroups of a record at all: 96 groups (01 R10), 512 register blocks (03 R57), the
slice memory (log 61). -/
def couldHold (r : List Byte) (n : Nat) : Bool :=
  decide (n * lrGroups r ≤ 96 ∧ n * lrGroups r * lrVblk r ≤ 512 ∧ n * lrSlice r ≤ 0x03C00000)

/-- The first reason of Table 22.3 that applies when a record is examined; reasons 6 and 7 come with placement. -/
def State.rejection (s : State) (ctx : Nat) (r : List Byte) : Option Nat :=
  let ks := s.coresOf ctx
  let vbq := greatest (ks.map fun k => match s.cctx? k ctx with | some c => c.vbq | none => 0)
  let room := greatest (ks.map fun k => match s.cctx? k ctx with | some c => c.sllim - c.slbase | none => 0)
  if lrNotZero r then some 1
  else if lrWgcnt r = 0 ∨ lrWpc r = 0 ∨ 12 < lrWpc r ∨ lrWgcnt r % lrWpc r ≠ 0 then some 2
  else if lrVblk r = 0 ∨ 48 < lrVblk r ∨ vbq < lrGroups r * lrVblk r then some 3
  else if lrSlice r = 0 ∨ lrSlice r % 4096 ≠ 0 ∨ room < lrSlice r ∨ lrSlice r < lrPblen r then some 4
  else if (List.range 64).any fun b => alignedBlock (lrShape r) b
      && (blockLoad r b).all fun p => ks.contains p.1 && couldHold r p.2 then none
  else some 5

/-- The head of a queue is done with: RIDX passes it (22 R316). -/
def State.passHead (s : State) (q : Nat) : State :=
  { s with queues := s.queues.modify q fun (v : LaunchQueue) =>
      { v with head := none, ridx := v.ridx + 1, stat := v.stat &&& 1#2 } }

/-- R316, R318: reads and examines the record that has come to the head of a queue. -/
def State.examine (s : State) (q : Nat) : State :=
  match s.queues[q]? with
  | none => s
  | some v =>
    let i := v.ridx.toNat % 2 ^ v.lsz
    let got : Except (Nat × Nat) (List Byte) :=
      if v.src then .ok (AMap.getD v.ring i (List.replicate 64 0)) else s.virtGet v.ctx (v.qbase + 64 * i) 64
    let s1 := { s with queues := s.queues.modify q fun (v : LaunchQueue) => { v with seq := v.seq + 1 } }
    match got with
    | .error a =>
      let s2 := { s1 with queues := s1.queues.modify q fun (v : LaunchQueue) => { v with stat := v.stat ||| 1#2 } }
      (s2.distributorFault v.ctx q v.seq a.2 a.1).passHead q
    | .ok r =>
      match s1.rejection v.ctx r with
      | some n => (s1.completion v.ctx q v.seq r 2 n).passHead q
      | none =>
        { s1 with
          launches := s1.launches ++ [⟨q, v.seq, v.ctx, r, 0, 0, false⟩]
          queues := s1.queues.modify q fun (w : LaunchQueue) => { w with head := some v.seq, stat := w.stat ||| 2#2 } }

/-! Eligibility (22 R322). -/

/-- A number rounded up to a multiple of 4,096. -/
def up4096 (a : Nat) : Nat := (a + 4095) / 4096 * 4096

/-- Puts an extent into a list that rises. -/
def insertExtent (e : Nat × Nat) : List (Nat × Nat) → List (Nat × Nat)
  | [] => [e]
  | f :: r => if e.1 ≤ f.1 then e :: f :: r else f :: insertExtent e r

/-- The lowest free run of n bytes in [lo, hi) among rising used extents. -/
def freeRun (lo hi n : Nat) : List (Nat × Nat) → Option Nat
  | [] => if up4096 lo + n ≤ hi then some (up4096 lo) else none
  | (b, l) :: r => if up4096 lo + n ≤ b ∧ up4096 lo + n ≤ hi then some (up4096 lo) else freeRun (max lo l) hi n r

/-- The allocations of a core, by base and limit, rising. -/
def Core.extents (c : Core) : List (Nat × Nat) :=
  c.wgs.foldl (fun l (p : Nat × Workgroup) => insertExtent (p.2.base, p.2.limit) l) []

/-- The lowest-addressed free runs for up to n allocations of a size in a region. -/
def freeRuns (lo hi size : Nat) : Nat → List (Nat × Nat) → List Nat
  | 0, _ => []
  | n + 1, used =>
    match freeRun lo hi size used with
    | none => []
    | some a => a :: freeRuns lo hi size n (insertExtent (a, a + size) used)

/-- How a core stands for n workgroups of a launch: eligible, wanting only the token, its image without entry 0, or not. -/
inductive Fit where
  | ok | token | noEntry | no
  deriving DecidableEq, Repr

/-- R322 for n workgroups on core k; late are the cores whose fill has started in this window. -/
def State.fit (s : State) (late : List (Nat × Nat × BitVec 12)) (ctx : Nat) (r : List Byte) (k n : Nat) : Fit :=
  match s.core? k, s.cctx? k ctx with
  | some c, some cc =>
    if n = 0 then (if (s.coresOf ctx).contains k then .ok else .no)
    else
      let groups := n * lrGroups r
      let blocks := groups * lrVblk r
      let free := ((List.range 96).filter fun t => (c.group? t).isNone).length
      if !s.mayReside k ctx || decide (free < groups) || decide (c.freeBlocks < blocks)
          || decide (cc.vbq < c.heldBlocks ctx + blocks)
          || decide ((freeRuns cc.slbase cc.sllim (lrSlice r) n c.extents).length < n) then .no
      else match (cc.token (lrToken r)).state with
        | .filling => .no
        | .absent => .token
        | .failed => .token
        | _ =>
          match s.codeImage k ctx (lrToken r) with
          | none => .no
          | some i => if i.ecnt = 0 then .noEntry
                      else if late.contains (k, ctx, lrToken r) then .no else .ok
  | _, _ => .no

/-- The issuer that a placement fill has (22 R389). -/
def fillIssuer (k ctx q n : Nat) (t : BitVec 12) : Issuer := ⟨k, ctx, none, ⟨t, 0⟩, launchId q n, 0, 0⟩

/-- R322 on core k: an evict-pending entry token is made resident, a missing one is filled. -/
def State.wantToken (s : State) (ctx q n : Nat) (t : BitVec 12) (k : Nat) : State × List (Nat × Nat × BitVec 12) :=
  let old := s.token k ctx t
  match old.state with
  | .evictPending => (s.setToken k ctx t { old with state := .resident }, [])
  | .absent | .failed =>
    match s.startFill k ctx t [] (fillIssuer k ctx q n t) (some (q, n)) with
    | .refused => (s, [])
    | .started s' => (s', [(k, ctx, t)])
  | _ => (s, [])

/-- The aligned blocks of a launch's shape, cyclically from a context's placement pointer (22 R323, R324). -/
def State.blocksFrom (s : State) (ctx : Nat) (r : List Byte) : List Nat :=
  let p := match s.ctx? ctx with | some d => d.pointer | none => 0
  ((List.range 64).map fun i => (p + i) % 64).filter (alignedBlock (lrShape r))

/-- The fits of the cores of a block. -/
def State.blockFits (s : State) (late : List (Nat × Nat × BitVec 12)) (ctx : Nat) (r : List Byte) (b : Nat) : List Fit :=
  (blockLoad r b).map fun p => s.fit late ctx r p.1 p.2

/-! Scores (22 R323, R324). -/

/-- The score of a core. -/
def State.score (s : State) (k : Nat) : Nat :=
  match s.core? k with
  | none => 0
  | some c => c.temp.toNat + bits s.distributor 4 4 * min c.droopCount 255

/-- The score of a block. -/
def State.blockScore (s : State) (shape b : Nat) : Nat := (blockCores shape b).foldl (fun n k => n + s.score k) 0

/-- The block with the lowest score, the earliest on a tie. -/
def bestBlock (f : Nat → Nat) : List Nat → Option Nat
  | [] => none
  | b :: r => match bestBlock f r with
    | some c => if f c < f b then some c else some b
    | none => some b

/-! Placing (22 R325). -/

/-- What is staged for a workgroup: its records and its parameter block; an error is a CAUSE and the address. -/
def State.staged (s : State) (ctx : Nat) (r : List Byte) : Except (Nat × Nat) (List Byte × List Byte) :=
  match (if lrRta r = 0 then (.ok [] : Except (Nat × Nat) (List Byte)) else s.virtGet ctx (lrRta r) 10240) with
  | .error a => .error a
  | .ok t =>
    match (if lrPblen r = 0 then (.ok [] : Except (Nat × Nat) (List Byte)) else s.virtGet ctx (lrPba r) (lrPblen r)) with
    | .error a => .error a
    | .ok p => .ok (t, p)

/-- A group as it starts (01 R22, Table 1.6). -/
def startGroup (ctx wg gidx blocks : Nat) (pc : Pc) (ident : List DWord) : Group :=
  { ctx := ctx, wg := wg, gidx := gidx, blocks := blocks,
    uni := { Uni.zero with s := ident ++ List.replicate (128 - ident.length) 0 },
    v := List.replicate (8 * blocks) (List.replicate 128 0), vEmpty := 0, vTaint := 0, vErr := [],
    splits := some (Split.start LaneSet.all LaneSet.all (Flow.start pc) none) :: List.replicate 15 none,
    recs := List.replicate 15 none, exited := 0, helper := 0, flanes := 0, fflags := 0, gang := 0, parked := false,
    frozen := false }

/-- Places workgroup j of a cluster, with linear index i, on core k at offset (dx, dy) of the block. -/
def State.placeWorkgroup (s : State) (l : Launch) (data : List Byte × List Byte) (k i j dx dy : Nat) : State :=
  let r := l.record
  let (id, s1) := s.fresh
  match s1.core? k, s1.cctx? k l.ctx, s1.codeImage k l.ctx (lrToken r) with
  | some c, some cc, some img =>
    match freeRun cc.slbase cc.sllim (lrSlice r) c.extents with
    | none => s
    | some base =>
      let limit := base + lrSlice r
      let cpos : DWord := BitVec.ofNat 64 (j + 16 * dx + 32 * dy)
      let who := launchId l.queue l.seq
      let groups := (List.range (lrGroups r)).map fun g =>
        startGroup l.ctx id g (lrVblk r) ⟨lrToken r, img.entryOff 0⟩
          [BitVec.ofNat 64 base, BitVec.ofNat 64 limit, BitVec.ofNat 64 i, BitVec.ofNat 64 g, cpos, who]
      s1.modCore k fun c =>
        let seated := c.seat groups
        let c1 := { seated.1 with
          slice := (seated.1.slice.clear base (lrSlice r)).writeBytes base data.2
          poison := seated.1.poison.filter fun w => !decide (base ≤ 16 * w ∧ 16 * w < limit)
          wgs := AMap.set seated.1.wgs id
            ⟨l.ctx, base, limit, Memory.writeBytes [] 0 data.1, i, cpos, who, lrClass r, lrShape r, lrWpc r, seated.2⟩ }
        c1.modCctx l.ctx fun cc => { cc with resident := true }
  | _, _, _ => s

/-- Places a whole unit on a block (10 R211, 22 R325). -/
def State.placeUnit (s : State) (l : Launch) (data : List Byte × List Byte) (b : Nat) : State :=
  let ks := blockCores (lrShape l.record) b
  let s1 := (List.range (lrWpc l.record)).foldl (fun s j =>
    let k := ks.getD (j % ks.length) b
    s.placeWorkgroup l data k (l.placed + j) j (k % 8 - b % 8) (k / 8 - b / 8)) s
  s1.modCtx l.ctx fun d => { d with member := true }

/-- What serving a queue comes to. -/
inductive Served where
  | placed | rejected | passed
  deriving DecidableEq, Repr

/-- A launch is rejected after it was examined (22 R318 reasons 6 and 7). -/
def State.rejectHead (s : State) (l : Launch) (reason : Nat) : State :=
  let s1 := (s.completion l.ctx l.queue l.seq l.record 2 reason).passHead l.queue
  { s1 with launches := s1.launches.filter fun m => !(m.queue == l.queue && m.seq == l.seq) }

/-- Changes a launch. -/
def State.modLaunch (s : State) (q n : Nat) (f : Launch → Launch) : State :=
  { s with launches := s.launches.map fun (m : Launch) => if m.queue = q ∧ m.seq = n then f m else m }

/-- R321 to R325 for the head of a queue: its next unit. The entry token is fetched first on every core that lacks nothing
else, and made resident again where it is evict-pending (22 R322). -/
def State.serveHead (s : State) (late : List (Nat × Nat × BitVec 12)) (l : Launch) :
    Served × State × List (Nat × Nat × BitVec 12) :=
  if l.rejected then (.rejected, s.rejectHead l 6, late)
  else
    let r := l.record
    let bs := s.blocksFrom l.ctx r
    if bs.any fun b => (s.blockFits late l.ctx r b).contains .noEntry then (.rejected, s.rejectHead l 6, late)
    else
      let near := fun (p : Nat × Nat) => p.2 != 0 && (match s.fit late l.ctx r p.1 p.2 with
        | .ok => true | .token => true | _ => false)
      let ks := bs.flatMap fun b => ((blockLoad r b).filter near).map Prod.fst
      let p := ks.foldl (fun (p : State × List (Nat × Nat × BitVec 12)) k =>
        let w := p.1.wantToken l.ctx l.queue l.seq (lrToken r) k
        (w.1, p.2 ++ w.2)) (s, late)
      let listed := (bs.filter fun b => (p.1.blockFits p.2 l.ctx r b).all fun f => f == .ok).take (bits s.distributor 0 4)
      match listed.head?, bestBlock (p.1.blockScore (lrShape r)) listed with
      | some first, some b =>
        let s1 := p.1.modCtx l.ctx fun d => { d with pointer := (first + 1) % 64 }
        match s1.staged l.ctx r with
        | .error a => (.rejected, (s1.distributorFault l.ctx l.queue l.seq a.2 a.1).rejectHead l 7, p.2)
        | .ok data =>
          let s2 := (s1.placeUnit l data b).modLaunch l.queue l.seq fun m => { m with placed := m.placed + lrWpc r }
          (.placed, if l.placed + lrWpc r = lrWgcnt r then s2.passHead l.queue else s2, p.2)
      | _, _ => (.passed, p.1, p.2)

/-! The distributor's loop (22 R321). -/

/-- A queue is served: it is enabled, not passed over, and its context neither detached nor saved. -/
def State.servable (s : State) (q : Nat) : Bool :=
  match s.queues[q]? with
  | none => false
  | some v => v.en && !v.passed && (match s.ctx? v.ctx with | some d => !d.detached && !d.saved | none => false)

/-- A served queue has a record to read (22 R316, R320). -/
def State.unread (s : State) (q : Nat) : Bool :=
  match s.queues[q]? with
  | none => false
  | some v => v.head.isNone && v.ridx != (if v.src then v.avail else v.widx)

/-- The launch at the head of a queue. -/
def State.headOf (s : State) (q : Nat) : Option Launch :=
  (s.queues[q]?).bind fun v => v.head.bind fun n => s.launches.find? fun l => l.queue == q && l.seq == n

/-- The queue that is served next: the highest priority, then round-robin from the queue served last (22 R321). -/
def State.nextQueue (s : State) : Option Nat :=
  let from_ := match s.lastServed with | some q => q + 1 | none => 0
  let l := ((List.range 64).map fun i => (from_ + i) % 64).filter fun q => s.servable q && (s.headOf q).isSome
  let prio := fun (q : Nat) => match s.queues[q]? with | some v => v.prio | none => 0
  let top := greatest (l.map prio)
  l.find? fun q => prio q == top

/-- R321: every record at a head is examined; the next queue is served until nothing more can be placed. Each round reads
a record, ends one, places a unit or passes a queue over. -/
def State.distribute : Nat → List (Nat × Nat × BitVec 12) → State → State
  | 0, _, s => s
  | n + 1, late, s =>
    match (List.range 64).find? fun q => s.servable q && s.unread q with
    | some q => State.distribute n late (s.examine q)
    | none =>
      match s.nextQueue with
      | none => s
      | some q =>
        match s.headOf q with
        | none => s
        | some l =>
          match s.serveHead late l with
          | (.passed, s', late') => State.distribute n late' { s' with
              queues := s'.queues.modify q fun (v : LaunchQueue) => { v with passed := true } }
          | (_, s', late') => State.distribute n late' { s' with lastServed := some q }

/-- Placement in a boundary window: 64 queues of at most 2^16 records, each read and ended once, and 6,144 group slots. -/
def State.place (s : State) : State := State.distribute (2 * 64 * 65536 + 6144 + 64) [] s

end Sys2Proof.Machine
end

