-- ==== Sys2Proof/WellFormed.lean ====
section
/-! DEFINITION. Which instructions are well formed: those that pass step 3 of Table 2.16 (02 R46). -/
namespace Sys2Proof

/-- No field check of step 3 of Table 2.16 fails for the instruction. -/
def Instr.wf (i : Instr) : Bool := Machine.fieldsOk i

end Sys2Proof
end

