-- ==== Sys2Proof/Decode.lean ====
section
/-! DEFINITION. The decoder (02 R25 to R45, Tables 2.1 to 2.15), total on any words and rejecting by name, and the
encoder written from the same tables. -/
namespace Sys2Proof
open Machine (bits)

/-- Why words are no instruction: the failed step of Table 2.16 (1 or 3). -/
inductive DecodeErr where
  | lenReserved      -- step 1: LEN = 11
  | crossesBlock     -- step 1: the instruction crosses a fetch block (R26)
  | truncated        -- step 1: the words end before the instruction does
  | unassigned       -- step 3: no instruction has this OPC with this length (R43, R44)
  | badFields        -- step 3: a field check fails
  deriving DecidableEq, Repr

/-- The error belongs to step 1 of Table 2.16. -/
def DecodeErr.stepOne : DecodeErr → Bool
  | .lenReserved => true
  | .crossesBlock => true
  | .truncated => true
  | .unassigned => false
  | .badFields => false

/-- An instruction as its opcode and the fields of its format. -/
inductive Raw where
  | op (opc : Nat) (o : Op)
  | i64 (opc : Nat) (o : I64)
  | b64 (opc : Nat) (o : B64)
  | m64 (opc : Nat) (o : M64)
  | pad
  deriving DecidableEq, Repr

/-! Fields of the words. -/

/-- LEN (Table 2.1). -/
def lenF (w0 : Word) : Nat := bits w0 0 2
/-- OPC. -/
def opcF (w0 : Word) : Nat := bits w0 2 8
/-- The guard of word 0. -/
def guardF (w0 : Word) : Guard := ⟨w0.getLsbD 14, w0.extractLsb' 10 4⟩
/-- D. -/
def dF (w0 : Word) : BitVec 9 := w0.extractLsb' 15 9
/-- FN. -/
def fnF (w0 : Word) : BitVec 8 := w0.extractLsb' 24 8
/-- The register operand at bits [lo + 9 : lo] of word 1 (Table 2.4). -/
def srcF (w1 : Word) (lo : Nat) : Src := ⟨w1.getLsbD (lo + 9), w1.extractLsb' lo 9⟩

/-- The fields of V64, V96 and E128 (Table 2.5). -/
def opF (w0 w1 : Word) (e : Ext) : Op :=
  ⟨guardF w0, fnF w0, dF w0, srcF w1 0, srcF w1 10, srcF w1 20, w1.getLsbD 30, w1.getLsbD 31, e⟩
/-- The fields of I64 (Table 2.6). -/
def i64F (w0 w1 : Word) : I64 := ⟨guardF w0, fnF w0, dF w0, srcF w1 0, w1.extractLsb' 10 22⟩
/-- The fields of B64 (Table 2.7). -/
def b64F (w0 w1 : Word) : B64 := ⟨guardF w0, fnF w0, dF w0, w1.extractLsb' 0 16, w1.extractLsb' 16 16⟩
/-- The fields of M64 (Table 2.8). -/
def m64F (w0 w1 : Word) : M64 :=
  ⟨guardF w0, fnF w0, dF w0, w1.extractLsb' 0 7, w1.extractLsb' 7 10, w1.extractLsb' 17 15⟩

/-! The opcode map (Table 2.13), one list per format. -/

/-- Opcodes of the V64, V96 and E128 instructions, row 0x0. -/
def opRow0 : List (Nat × (Op → Instr)) :=
  [ (0x00, .nop)
  , (0x02, .join)
  , (0x03, .brk)
  , (0x04, .exit)
  , (0x07, .ret)
  , (0x0B, .brkpt)
  , (0x0C, .yield)
  , (0x0D, fun o => if o.fn.getLsbD 0 then .dqPop o else .dqPush o)
  , (0x0F, .fmtset) ]

/-- Opcodes of the V64, V96 and E128 instructions, row 0x1. -/
def opRow1 : List (Nat × (Op → Instr)) :=
  [ (0x10, .sadd)
  , (0x11, .ssub)
  , (0x12, .smul)
  , (0x13, .sdiv)
  , (0x14, .sand)
  , (0x15, .sor)
  , (0x16, .sxor)
  , (0x17, .sshl)
  , (0x18, .sshr)
  , (0x19, .smin)
  , (0x1A, .smax)
  , (0x1B, .scmp)
  , (0x1C, .ssel)
  , (0x1D, .sbfx)
  , (0x1E, .sbfi)
  , (0x1F, .sbit) ]

/-- Opcodes of the V64, V96 and E128 instructions, row 0x2. -/
def opRow2 : List (Nat × (Op → Instr)) :=
  [ (0x20, .smov)
  , (0x24, .vtos)
  , (0x25, .mtos)
  , (0x26, .stom)
  , (0x27, .sclk)
  , (0x28, .sid) ]

/-- Opcodes of the V64, V96 and E128 instructions, row 0x3. -/
def opRow3 : List (Nat × (Op → Instr)) :=
  [ (0x30, .iadd)
  , (0x31, .isub)
  , (0x32, .imul)
  , (0x33, .imad)
  , (0x34, .iand)
  , (0x35, .ior)
  , (0x36, .ixor)
  , (0x37, .ishl)
  , (0x38, .ishr)
  , (0x39, .imin)
  , (0x3A, .imax)
  , (0x3B, .icmp)
  , (0x3C, .isel)
  , (0x3D, .ibfx)
  , (0x3E, .ibfi)
  , (0x3F, .ibit) ]

/-- Opcodes of the V64, V96 and E128 instructions, row 0x4. -/
def opRow4 : List (Nat × (Op → Instr)) :=
  [ (0x40, .fadd)
  , (0x41, .fsub)
  , (0x42, .fmul)
  , (0x43, .fma)
  , (0x44, .fmin)
  , (0x45, .fmax)
  , (0x46, .fcmp)
  , (0x47, .fdiv)
  , (0x48, .frcp)
  , (0x49, .frsq)
  , (0x4A, .fsqrt)
  , (0x4B, .fex2)
  , (0x4C, .flg2)
  , (0x4D, .fsin)
  , (0x4E, .frnd)
  , (0x4F, .fdp3) ]

/-- Opcodes of the V64, V96 and E128 instructions, row 0x5. -/
def opRow5 : List (Nat × (Op → Instr)) :=
  [ (0x50, .cvt)
  , (0x51, .qpack)
  , (0x52, .qunpk)
  , (0x53, .fscl)
  , (0x54, .fcls)
  , (0x55, .ffrx) ]

/-- Opcodes of the V64, V96 and E128 instructions, row 0x6. -/
def opRow6 : List (Nat × (Op → Instr)) :=
  [ (0x60, .shfl)
  , (0x61, .lrot)
  , (0x62, .lbc)
  , (0x63, .qswp)
  , (0x64, .qddx)
  , (0x65, .qddy)
  , (0x66, .vote)
  , (0x67, .mlog)
  , (0x68, .mcnt)
  , (0x69, .mfst)
  , (0x6A, .red)
  , (0x6B, .scan)
  , (0x6C, .mget)
  , (0x6D, .mset)
  , (0x6E, .lid)
  , (0x6F, .lpak) ]

/-- Opcodes of the V64, V96 and E128 instructions, row 0x7. -/
def opRow7 : List (Nat × (Op → Instr)) :=
  [ (0x74, .ldb)
  , (0x75, .stb)
  , (0x79, .fence)
  , (0x7D, .tclr) ]

/-- Opcodes of the V64, V96 and E128 instructions, row 0x8. -/
def opRow8 : List (Nat × (Op → Instr)) :=
  [ (0x80, .swadd)
  , (0x81, .swmul)
  , (0x82, .swfma)
  , (0x83, .swmax)
  , (0x84, .swmin)
  , (0x85, .swcvt)
  , (0x86, .swmov)
  , (0x87, .swfill)
  , (0x88, .swred)
  , (0x89, .swsel) ]

/-- Opcodes of the V64, V96 and E128 instructions, row 0x9. -/
def opRow9 : List (Nat × (Op → Instr)) :=
  [ (0x90, .cpy)
  , (0x91, .cpyx)
  , (0x92, .xst)
  , (0x93, .wbind)
  , (0x94, .wfree)
  , (0x95, .bini)
  , (0x96, .barv)
  , (0x97, .bwt)
  , (0x98, .wcnt) ]

/-- Opcodes of the V64, V96 and E128 instructions, row 0xA. -/
def opRowA : List (Nat × (Op → Instr)) :=
  [ (0xA1, .xmov)
  , (0xA2, .xput)
  , (0xA3, .xmc)
  , (0xA4, .xgm)
  , (0xA5, .xadd)
  , (0xA6, .xend)
  , (0xA7, .pcnt)
  , (0xA8, .xsync) ]

/-- Opcodes of the V64, V96 and E128 instructions, row 0xB. -/
def opRowB : List (Nat × (Op → Instr)) :=
  [ (0xB0, .macq)
  , (0xB1, .mrel)
  , (0xB2, .mgng)
  , (0xB3, .mlds)
  , (0xB4, .mflp)
  , (0xB5, .mstr)
  , (0xB6, .mout)
  , (0xB7, .mclr)
  , (0xB8, .mcfg)
  , (0xB9, .mprm) ]

/-- Opcodes of the V64, V96 and E128 instructions, row 0xC. -/
def opRowC : List (Nat × (Op → Instr)) :=
  [ (0xC0, .gapp)
  , (0xC1, .grd)
  , (0xC2, .gcon)
  , (0xC3, .gwgt)
  , (0xC4, .gmrg)
  , (0xC5, .grwt)
  , (0xC6, .gret)
  , (0xC7, .gkep)
  , (0xC8, fun o => if bits o.fn 0 2 = 0 then .gfrmRho o else if bits o.fn 0 2 = 1 then .gfrmOpen o else .gfrmRel o)
  , (0xC9, .gsta) ]

/-- Opcodes of the V64, V96 and E128 instructions, row 0xD. -/
def opRowD : List (Nat × (Op → Instr)) :=
  [ (0xD0, .trc)
  , (0xD1, .tnx)
  , (0xD2, .rpak)
  , (0xD3, .rast)
  , (0xD4, .srat)
  , (0xD5, .twb)
  , (0xD6, .scnb)
  , (0xD7, .scnp) ]

/-- Opcodes of the V64, V96 and E128 instructions, row 0xE. -/
def opRowE : List (Nat × (Op → Instr)) :=
  [ (0xE0, .ovld)
  , (0xE1, .ovq)
  , (0xE2, .ovev)
  , (0xE3, .rgiv)
  , (0xE4, .rclm)
  , (0xE5, .rpol)
  , (0xE6, .lnch) ]

/-- Opcodes of the V64, V96 and E128 instructions, row 0xF. -/
def opRowF : List (Nat × (Op → Instr)) :=
  [ (0xF0, .tret)
  , (0xF3, .tinv)
  , (0xF4, .ctsv)
  , (0xF5, .ctld)
  , (0xF6, fun o => if o.fn.getLsbD 0 then .pdetAtt o else .pdetDet o)
  , (0xF7, .halt) ]

/-- Opcodes of the V64, V96 and E128 instructions. -/
def opTable : List (Nat × (Op → Instr)) :=
  opRow0 ++ opRow1 ++ opRow2 ++ opRow3 ++ opRow4 ++ opRow5 ++ opRow6 ++ opRow7 ++ opRow8 ++ opRow9 ++ opRowA ++ opRowB ++ opRowC ++ opRowD ++ opRowE ++ opRowF

/-- Opcodes of the I64 instructions, row 0x0. -/
def i64Row0 : List (Nat × (I64 → Instr)) :=
  [ (0x06, .callo)
  , (0x08, .loop)
  , (0x09, .wait)
  , (0x0A, .trap)
  , (0x0E, fun o => if o.fn.getLsbD 0 then .spwr o else .sprd o) ]

/-- Opcodes of the I64 instructions, row 0xF. -/
def i64RowF : List (Nat × (I64 → Instr)) :=
  [ (0xF1, .csrd)
  , (0xF2, .cswr) ]

/-- Opcodes of the I64 instructions. -/
def i64Table : List (Nat × (I64 → Instr)) :=
  i64Row0 ++ i64RowF

/-- Opcodes of the B64 instructions, row 0x0. -/
def b64Row0 : List (Nat × (B64 → Instr)) :=
  [ (0x01, .bra)
  , (0x05, .call) ]

/-- Opcodes of the B64 instructions, row 0xA. -/
def b64RowA : List (Nat × (B64 → Instr)) :=
  [ (0xA0, .parv) ]

/-- Opcodes of the B64 instructions. -/
def b64Table : List (Nat × (B64 → Instr)) :=
  b64Row0 ++ b64RowA

/-- Opcodes of the M64 instructions, row 0x2. -/
def m64Row2 : List (Nat × (M64 → Instr)) :=
  [ (0x21, .slea)
  , (0x22, .sld)
  , (0x23, .sst) ]

/-- Opcodes of the M64 instructions, row 0x7. -/
def m64Row7 : List (Nat × (M64 → Instr)) :=
  [ (0x70, .ld)
  , (0x71, .st)
  , (0x72, .ldw)
  , (0x73, .stw)
  , (0x76, .ldc)
  , (0x77, .lda)
  , (0x78, .stl)
  , (0x7A, .atom)
  , (0x7B, .acas)
  , (0x7C, .afadd) ]

/-- Opcodes of the M64 instructions. -/
def m64Table : List (Nat × (M64 → Instr)) :=
  m64Row2 ++ m64Row7

/-- The entry of an opcode in one of the lists. -/
def lookupOpc {α : Type} (t : List (Nat × (α → Instr))) (opc : Nat) : Option (α → Instr) :=
  (t.find? fun p => p.1 == opc).map Prod.snd

/-- The instruction with the given opcode and fields; none where the map has none. -/
def instrOfRaw : Raw → Option Instr
  | .op opc o => (lookupOpc opTable opc).map fun f => f o
  | .i64 opc o => (lookupOpc i64Table opc).map fun f => f o
  | .b64 opc o => (lookupOpc b64Table opc).map fun f => f o
  | .m64 opc o => (lookupOpc m64Table opc).map fun f => f o
  | .pad => some .shortPad

/-- The candidate reading of a 64-bit instruction: the opcode fixes which format word 1 has (Table 2.14). -/
def candidate64 (w0 w1 : Word) : Option Instr :=
  let opc := opcF w0
  (instrOfRaw (.op opc (opF w0 w1 .none))).orElse fun _ =>
    (instrOfRaw (.i64 opc (i64F w0 w1))).orElse fun _ =>
      (instrOfRaw (.b64 opc (b64F w0 w1))).orElse fun _ => instrOfRaw (.m64 opc (m64F w0 w1))

/-- Step 3 of Table 2.16 applied to a candidate. -/
def checked : Option Instr → Except DecodeErr Instr
  | none => .error .unassigned
  | some i => if i.wf then .ok i else .error .badFields

/-- The instruction that starts at byte offset off (0 to 28) of a fetch block, whose words from there on are ws. -/
def decode (off : Nat) (ws : List Word) : Except DecodeErr Instr :=
  match ws with
  | [] => .error .truncated
  | w0 :: rest =>
    if off = 0x1C ∧ w0 = 0#32 then .ok .shortPad
    else if lenF w0 = 3 then .error .lenReserved
    else if 32 < off + 4 * (lenF w0 + 2) then .error .crossesBlock
    else match lenF w0, rest with
      | 0, w1 :: _ => checked (candidate64 w0 w1)
      | 1, w1 :: w2 :: _ => checked (instrOfRaw (.op (opcF w0) (opF w0 w1 (.w2 w2))))
      | 2, w1 :: w2 :: w3 :: _ => checked (instrOfRaw (.op (opcF w0) (opF w0 w1 (.w23 w2 w3))))
      | _, _ => .error .truncated

/-! The encoder. -/

/-- Word 0 (Table 2.3). -/
def word0 (g : Guard) (fn : BitVec 8) (d : BitVec 9) (opc : Nat) (len : Nat) : Word :=
  fn ++ (d ++ (BitVec.ofBool g.neg ++ (g.reg ++ (BitVec.ofNat 8 opc ++ BitVec.ofNat 2 len))))
/-- A register operand field (Table 2.4). -/
def srcWord (s : Src) : BitVec 10 := BitVec.ofBool s.fe ++ s.reg
/-- Word 1 of V64, V96 and E128 (Table 2.5). -/
def opWord1 (o : Op) : Word :=
  BitVec.ofBool o.nc ++ (BitVec.ofBool o.na ++ (srcWord o.c ++ (srcWord o.b ++ srcWord o.a)))
/-- LEN of an instruction with the given later words. -/
def Ext.len : Ext → Nat
  | .none => 0
  | .w2 _ => 1
  | .w23 _ _ => 2
/-- The third and fourth words. -/
def Ext.words : Ext → List Word
  | .none => []
  | .w2 w => [w]
  | .w23 a b => [a, b]

/-- The words of an opcode with its fields. -/
def Raw.words : Raw → List Word
  | .op opc o => word0 o.g o.fn o.d opc o.ext.len :: opWord1 o :: o.ext.words
  | .i64 opc o => [word0 o.g o.fn o.d opc 0, o.imm ++ srcWord o.a]
  | .b64 opc o => [word0 o.g o.fn o.d opc 0, o.j16 ++ o.t16]
  | .m64 opc o => [word0 o.g o.fn o.d opc 0, o.off ++ (o.x ++ o.base)]
  | .pad => [0#32]

/-- The opcode and fields of an instruction (Table 2.13); an event has no encoding. -/
def Instr.raw : Instr → Option Raw
  | .nop o => some (.op 0x00 o)
  | .shortPad => some .pad
  | .bra o => some (.b64 0x01 o)
  | .join o => some (.op 0x02 o)
  | .brk o => some (.op 0x03 o)
  | .exit o => some (.op 0x04 o)
  | .call o => some (.b64 0x05 o)
  | .callo o => some (.i64 0x06 o)
  | .ret o => some (.op 0x07 o)
  | .loop o => some (.i64 0x08 o)
  | .wait o => some (.i64 0x09 o)
  | .trap o => some (.i64 0x0A o)
  | .brkpt o => some (.op 0x0B o)
  | .yield o => some (.op 0x0C o)
  | .dqPush o => some (.op 0x0D o)
  | .dqPop o => some (.op 0x0D o)
  | .sprd o => some (.i64 0x0E o)
  | .spwr o => some (.i64 0x0E o)
  | .fmtset o => some (.op 0x0F o)
  | .sadd o => some (.op 0x10 o)
  | .ssub o => some (.op 0x11 o)
  | .smul o => some (.op 0x12 o)
  | .sdiv o => some (.op 0x13 o)
  | .sand o => some (.op 0x14 o)
  | .sor o => some (.op 0x15 o)
  | .sxor o => some (.op 0x16 o)
  | .sshl o => some (.op 0x17 o)
  | .sshr o => some (.op 0x18 o)
  | .smin o => some (.op 0x19 o)
  | .smax o => some (.op 0x1A o)
  | .scmp o => some (.op 0x1B o)
  | .ssel o => some (.op 0x1C o)
  | .sbfx o => some (.op 0x1D o)
  | .sbfi o => some (.op 0x1E o)
  | .sbit o => some (.op 0x1F o)
  | .smov o => some (.op 0x20 o)
  | .slea o => some (.m64 0x21 o)
  | .sld o => some (.m64 0x22 o)
  | .sst o => some (.m64 0x23 o)
  | .vtos o => some (.op 0x24 o)
  | .mtos o => some (.op 0x25 o)
  | .stom o => some (.op 0x26 o)
  | .sclk o => some (.op 0x27 o)
  | .sid o => some (.op 0x28 o)
  | .iadd o => some (.op 0x30 o)
  | .isub o => some (.op 0x31 o)
  | .imul o => some (.op 0x32 o)
  | .imad o => some (.op 0x33 o)
  | .iand o => some (.op 0x34 o)
  | .ior o => some (.op 0x35 o)
  | .ixor o => some (.op 0x36 o)
  | .ishl o => some (.op 0x37 o)
  | .ishr o => some (.op 0x38 o)
  | .imin o => some (.op 0x39 o)
  | .imax o => some (.op 0x3A o)
  | .icmp o => some (.op 0x3B o)
  | .isel o => some (.op 0x3C o)
  | .ibfx o => some (.op 0x3D o)
  | .ibfi o => some (.op 0x3E o)
  | .ibit o => some (.op 0x3F o)
  | .fadd o => some (.op 0x40 o)
  | .fsub o => some (.op 0x41 o)
  | .fmul o => some (.op 0x42 o)
  | .fma o => some (.op 0x43 o)
  | .fmin o => some (.op 0x44 o)
  | .fmax o => some (.op 0x45 o)
  | .fcmp o => some (.op 0x46 o)
  | .fdiv o => some (.op 0x47 o)
  | .frcp o => some (.op 0x48 o)
  | .frsq o => some (.op 0x49 o)
  | .fsqrt o => some (.op 0x4A o)
  | .fex2 o => some (.op 0x4B o)
  | .flg2 o => some (.op 0x4C o)
  | .fsin o => some (.op 0x4D o)
  | .frnd o => some (.op 0x4E o)
  | .fdp3 o => some (.op 0x4F o)
  | .cvt o => some (.op 0x50 o)
  | .qpack o => some (.op 0x51 o)
  | .qunpk o => some (.op 0x52 o)
  | .fscl o => some (.op 0x53 o)
  | .fcls o => some (.op 0x54 o)
  | .ffrx o => some (.op 0x55 o)
  | .shfl o => some (.op 0x60 o)
  | .lrot o => some (.op 0x61 o)
  | .lbc o => some (.op 0x62 o)
  | .qswp o => some (.op 0x63 o)
  | .qddx o => some (.op 0x64 o)
  | .qddy o => some (.op 0x65 o)
  | .vote o => some (.op 0x66 o)
  | .mlog o => some (.op 0x67 o)
  | .mcnt o => some (.op 0x68 o)
  | .mfst o => some (.op 0x69 o)
  | .red o => some (.op 0x6A o)
  | .scan o => some (.op 0x6B o)
  | .mget o => some (.op 0x6C o)
  | .mset o => some (.op 0x6D o)
  | .lid o => some (.op 0x6E o)
  | .lpak o => some (.op 0x6F o)
  | .ld o => some (.m64 0x70 o)
  | .st o => some (.m64 0x71 o)
  | .ldw o => some (.m64 0x72 o)
  | .stw o => some (.m64 0x73 o)
  | .ldb o => some (.op 0x74 o)
  | .stb o => some (.op 0x75 o)
  | .ldc o => some (.m64 0x76 o)
  | .lda o => some (.m64 0x77 o)
  | .stl o => some (.m64 0x78 o)
  | .fence o => some (.op 0x79 o)
  | .atom o => some (.m64 0x7A o)
  | .acas o => some (.m64 0x7B o)
  | .afadd o => some (.m64 0x7C o)
  | .tclr o => some (.op 0x7D o)
  | .swadd o => some (.op 0x80 o)
  | .swmul o => some (.op 0x81 o)
  | .swfma o => some (.op 0x82 o)
  | .swmax o => some (.op 0x83 o)
  | .swmin o => some (.op 0x84 o)
  | .swcvt o => some (.op 0x85 o)
  | .swmov o => some (.op 0x86 o)
  | .swfill o => some (.op 0x87 o)
  | .swred o => some (.op 0x88 o)
  | .swsel o => some (.op 0x89 o)
  | .cpy o => some (.op 0x90 o)
  | .cpyx o => some (.op 0x91 o)
  | .xst o => some (.op 0x92 o)
  | .wbind o => some (.op 0x93 o)
  | .wfree o => some (.op 0x94 o)
  | .bini o => some (.op 0x95 o)
  | .barv o => some (.op 0x96 o)
  | .bwt o => some (.op 0x97 o)
  | .wcnt o => some (.op 0x98 o)
  | .parv o => some (.b64 0xA0 o)
  | .xmov o => some (.op 0xA1 o)
  | .xput o => some (.op 0xA2 o)
  | .xmc o => some (.op 0xA3 o)
  | .xgm o => some (.op 0xA4 o)
  | .xadd o => some (.op 0xA5 o)
  | .xend o => some (.op 0xA6 o)
  | .pcnt o => some (.op 0xA7 o)
  | .xsync o => some (.op 0xA8 o)
  | .macq o => some (.op 0xB0 o)
  | .mrel o => some (.op 0xB1 o)
  | .mgng o => some (.op 0xB2 o)
  | .mlds o => some (.op 0xB3 o)
  | .mflp o => some (.op 0xB4 o)
  | .mstr o => some (.op 0xB5 o)
  | .mout o => some (.op 0xB6 o)
  | .mclr o => some (.op 0xB7 o)
  | .mcfg o => some (.op 0xB8 o)
  | .mprm o => some (.op 0xB9 o)
  | .gapp o => some (.op 0xC0 o)
  | .grd o => some (.op 0xC1 o)
  | .gcon o => some (.op 0xC2 o)
  | .gwgt o => some (.op 0xC3 o)
  | .gmrg o => some (.op 0xC4 o)
  | .grwt o => some (.op 0xC5 o)
  | .gret o => some (.op 0xC6 o)
  | .gkep o => some (.op 0xC7 o)
  | .gfrmRho o => some (.op 0xC8 o)
  | .gfrmOpen o => some (.op 0xC8 o)
  | .gfrmRel o => some (.op 0xC8 o)
  | .gsta o => some (.op 0xC9 o)
  | .trc o => some (.op 0xD0 o)
  | .tnx o => some (.op 0xD1 o)
  | .rpak o => some (.op 0xD2 o)
  | .rast o => some (.op 0xD3 o)
  | .srat o => some (.op 0xD4 o)
  | .twb o => some (.op 0xD5 o)
  | .scnb o => some (.op 0xD6 o)
  | .scnp o => some (.op 0xD7 o)
  | .ovld o => some (.op 0xE0 o)
  | .ovq o => some (.op 0xE1 o)
  | .ovev o => some (.op 0xE2 o)
  | .rgiv o => some (.op 0xE3 o)
  | .rclm o => some (.op 0xE4 o)
  | .rpol o => some (.op 0xE5 o)
  | .lnch o => some (.op 0xE6 o)
  | .tret o => some (.op 0xF0 o)
  | .csrd o => some (.i64 0xF1 o)
  | .cswr o => some (.i64 0xF2 o)
  | .tinv o => some (.op 0xF3 o)
  | .ctsv o => some (.op 0xF4 o)
  | .ctld o => some (.op 0xF5 o)
  | .pdetDet o => some (.op 0xF6 o)
  | .pdetAtt o => some (.op 0xF6 o)
  | .halt o => some (.op 0xF7 o)
  | .vtosResult _ _ => none
  | .loadDataReturn _ _ => none
  | .atomicResultReturn _ _ => none
  | .sweepExecute _ _ => none
  | .copyExecute _ _ => none
  | .depositArrival _ => none
  | .depositAck _ => none
  | .barrierArrival _ => none
  | .heldArrivalRelease _ => none
  | .groupPark _ _ => none
  | .ctArrive _ _ => none
  | .exchangeTransferExecute _ _ => none
  | .xsyncStageEnd _ => none
  | .macqGrant _ => none
  | .engineRelease _ => none
  | .preemption _ => none
  | .gangRendezvous _ _ => none
  | .jointInstructionRelease _ _ => none
  | .planeLoad _ => none
  | .planeFlip _ => none
  | .accumulationStep _ => none
  | .accumulatorOutput _ => none
  | .bankClear _ => none
  | .graphResult _ _ => none
  | .traceResult _ _ => none
  | .repackStep _ _ => none
  | .rastComplete _ _ => none
  | .twbComplete _ _ => none
  | .sceneBuildComplete _ _ => none
  | .fillComplete _ _ => none
  | .fillQueueServe _ => none
  | .rclmClaimServed _ => none
  | .rclmClaimFail _ => none
  | .trapDelivery _ _ => none
  | .splitUrgent _ _ _ => none
  | .cToXBoundary => none
  | .xToCBoundary => none
  | .contextSave _ => none
  | .contextRestore _ => none
  | .contextReset _ => none
  | .deadlineMissed _ => none
  | .stragglerEvent => none
  | .stragglerDetach => none
  | .queueEnable _ _ => none
  | .widxWrite _ _ => none
  | .explimWrite _ => none
  | .ringEnableWrite _ => none
  | .registerWrite _ _ => none
  | .ringArrive _ => none
  | .ringRelease => none
  | .ringTimeout => none
  | .ringDrop => none
  | .fabricAccess _ => none
  | .powerOnReset _ => none
  | .attestationRequest _ => none
  | .supplyDroopEvent _ => none

/-- The words of an instruction; none for an event of the table, which has no encoding. -/
def encode (i : Instr) : Option (List Word) := i.raw.map Raw.words

/-! Reading a row of the opcode table (bit 0 is the least significant bit of word 0). -/

/-- The four words of an instruction whose bits are w. -/
def tableWords (w : Nat) : List Word :=
  [BitVec.ofNat 32 w, BitVec.ofNat 32 (w / 2 ^ 32), BitVec.ofNat 32 (w / 2 ^ 64), BitVec.ofNat 32 (w / 2 ^ 96)]

/-- The block offset at which a row of the opcode table is read: the short pad is the one 32-bit row, and R27 gives
its word that meaning at offset 0x1C only. -/
def tableOffset (nbits w : Nat) : Nat := if nbits ≤ 32 ∧ BitVec.ofNat 32 w = 0#32 then 0x1C else 0

/-- The instruction the decoder reads from an instruction whose bits are w. -/
def decodeTableWord (nbits w : Nat) : Option Instr :=
  match decode (tableOffset nbits w) (tableWords w) with
  | .ok i => some i
  | .error _ => none

end Sys2Proof
end

