-- ==== Sys2Proof/Machine/Privileged.lean ====
section
/-! DEFINITION. Row 0xF: control and status registers, the end of a delivery, saving, restoring and detaching a context
(21 R305 to R314), and TRAP_DELIVERY (21 R303). -/
namespace Sys2Proof.Machine

/-- The shared checks of a row 0xF instruction (21 R309). -/
def fReq (g : Guard) (reads writes : List Opnd) : Req :=
  { g := g, phase := .A, who := .super, reads := reads, writes := writes }

/-! SEL (21 Table 21.1). -/

/-- CTX. -/
def selCtx (v : BitVec 31) : Nat := bits v 0 4
/-- The group slot that PART and SLOT name. -/
def selSlot (v : BitVec 31) : Nat := 6 * bits v 4 4 + bits v 8 3
/-- ENTRY. -/
def selEntry (v : BitVec 31) : Nat := bits v 11 4
/-- REG. -/
def selReg (v : BitVec 31) : BitVec 9 := v.extractLsb' 15 9
/-- LANE. -/
def selLane (v : BitVec 31) : Nat := bits v 24 7

/-- R306: the selected group, which must be parked, or frozen by the delivery that this CT context is handling. -/
def State.selGroup (s : State) (x : Iss) (cc : CoreCtx) : Option Group :=
  match s.group? x.core (selSlot cc.sel) with
  | none => none
  | some g =>
    let mine := match cc.handling with
      | some d => (match d.src with | .group t _ => t == selSlot cc.sel && g.frozen | .userCt => false)
          || (cc.straggling && g.ctx == x.ctx && !g.parked && !g.hasExited)
      | none => false
    if g.ctx = selCtx cc.sel ∧ (g.parked || mine) = true then some g else none

/-! Reading (21 R305, Table 21.1). -/

/-- The value of CSTATE. -/
def cstate (d : Ctx) (cc : CoreCtx) : DWord :=
  BitVec.ofNat 64 ((if cc.handling.isSome then 16 else 0) + (if cc.running then 8 else 0) + (if d.detached then 4 else 0)
    + (if d.member then 2 else 0) + (if cc.resident then 1 else 0))

/-- The half of a lane set that a CSR shows. -/
def laneHalf (m : LaneSet) (h : Nat) : DWord := m.extractLsb' (64 * h) 64

/-- csrd's value, or the cause of the trap: 0x1B where GREG names a register in error (24 R349). SOWN and
SEXEC of a free split entry read 0, as SPC does (log 137: DESIGN CHOICE). -/
def State.csrRead (s : State) (x : Iss) (n : Nat) : Except Nat DWord :=
  match s.cctx? x.core x.ctx with
  | none => .error 0x01
  | some own =>
    let split := fun (f : Split → DWord) => match s.selGroup x own with
      | none => (Except.error 0x02 : Except Nat DWord)
      | some g => .ok (match g.split? (selEntry own.sel) with | some sp => f sp | none => 0)
    let there := fun (f : CoreCtx → DWord) => match s.cctx? x.core (selCtx own.sel) with
      | some cc => (Except.ok (f cc) : Except Nat DWord) | none => .error 0x02
    let wide := fun (f : Ctx → DWord) => match s.ctx? (selCtx own.sel) with
      | some d => (Except.ok (f d) : Except Nat DWord) | none => .error 0x02
    match n with
    | 0x000 => .ok (own.sel.setWidth 64)
    | 0x001 => .ok (own.tcause.setWidth 64)
    | 0x002 => .ok (own.tsrc.setWidth 64)
    | 0x003 => .ok own.tpc.link
    | 0x004 => .ok (own.taddr.setWidth 64)
    | 0x005 => .ok (own.vec.setWidth 64)
    | 0x010 => split fun sp => sp.flow.pc.link
    | 0x011 => split fun sp => laneHalf sp.owned 0
    | 0x012 => split fun sp => laneHalf sp.owned 1
    | 0x013 => split fun sp => laneHalf sp.exec 0
    | 0x014 => split fun sp => laneHalf sp.exec 1
    | 0x015 => match s.selGroup x own with
      | none => .error 0x02
      | some g =>
        let r := selReg own.sel
        if isS r then if g.uni.sErr.getLsbD (sNum r) then .error 0x1B else .ok (g.uni.get (sNum r))
        else if r.toNat < 8 * g.blocks then
          if (g.laneErr r.toNat).getLsbD (selLane own.sel) then .error 0x1B else .ok (((g.v.getD r.toNat []).getD (selLane own.sel) 0).setWidth 64)
        else .error 0x02
    | 0x020 => match s.ctx? (selCtx own.sel) with
      | some d => there (cstate d)
      | none => .error 0x02
    | 0x021 => there fun cc => BitVec.ofNat 64 cc.slbase
    | 0x022 => there fun cc => BitVec.ofNat 64 cc.sllim
    | 0x023 => there fun cc => BitVec.ofNat 64 cc.vbq
    | 0x024 => there fun cc => BitVec.ofNat 64 cc.ovqt
    | 0x025 => there fun cc => cc.ctent.setWidth 64
    | 0x040 => wide fun d => BitVec.ofNat 64 d.ovtb
    | 0x041 => wide fun d => d.ptroot
    | 0x042 => wide fun d => d.fq
    | 0x043 => wide fun d => BitVec.ofNat 64 d.npool
    | 0x045 => wide fun d => d.cores
    | 0x046 => wide fun d => if d.excl then 1 else 0
    | m => if 0x080 ≤ m ∧ m < 0x0C0 then wide fun d => BitVec.ofNat 64 (d.scncap.getD (m - 0x080) 0) else .error 0x01

/-! Writing (21 R305 to R308). -/

/-- FQ holds a value that Table 24.2 allows. -/
def fqOk (v : DWord) : Bool :=
  v == 0 || (decide (6 ≤ fqLsz v ∧ fqLsz v ≤ 20) && bits v 48 11 == 0 && isVirtual (fqBase v) && fqBase v % 4096 == 0)

/-- The waiting writes of context-wide CSRs in the order in which they will apply (21 R306). -/
def Ctx.orderedWrites (d : Ctx) : List (Nat × Nat × DWord) :=
  (List.range 64).flatMap fun k => d.csrWrites.filter fun w => w.1 == k

/-- The value that the waiting writes of a context-wide CSR will give it, or the one in effect. -/
def Ctx.pendingCsr (d : Ctx) (n now : Nat) : Nat :=
  d.orderedWrites.foldl (fun v w => if w.2.1 = n then w.2.2.toNat else v) now

/-- CORES as the waiting writes will leave it. -/
def Ctx.nextCores (d : Ctx) : DWord := BitVec.ofNat 64 (d.pendingCsr 0x045 d.cores.toNat)
/-- EXCL as the waiting writes will leave it. -/
def Ctx.nextExcl (d : Ctx) : Bool := d.pendingCsr 0x046 (if d.excl then 1 else 0) == 1

/-- Lantern storage that a context needs, with the writes that wait (25 R353). -/
def Ctx.lanternBytes (d : Ctx) : Nat :=
  64 * d.pendingCsr 0x043 d.npool
    + (List.range 64).foldl (fun n i => n + Config.sceneBytes (d.pendingCsr (0x080 + i) (d.scncap.getD i 0))) 0

/-- R353: the lantern region holds what all contexts need. -/
def State.lanternFits (s : State) : Bool :=
  decide (s.ctxs.foldl (fun n d => n + d.lanternBytes) 0 ≤ s.lsize * 2 ^ 30)

/-- R307: with the writes that wait, a context's CORES and EXCL clash with no other context. -/
def State.partitionOk (s : State) (ctx : Nat) : Bool :=
  match s.ctx? ctx with
  | none => true
  | some d =>
    !d.nextExcl || ((List.range 16).all fun n => n == ctx || (match s.ctx? n with
        | some e => !(e.nextExcl && (e.nextCores &&& d.nextCores) != 0) | none => true))
      && ((List.range 64).all fun k => !d.nextCores.getLsbD k || (match s.core? k with
        | some c => c.residents.all fun n => n == ctx
        | none => true))

/-- Queues a context-wide write for the next window (21 R306). -/
def State.queueCsr (s : State) (x : Iss) (ctx n : Nat) (v : DWord) : State :=
  s.modCtx ctx fun d => { d with csrWrites := d.csrWrites ++ [(x.core, n, v)] }

/-- The limits of a context-wide CSR (21 Table 21.1). -/
def State.wideOk (s : State) (x : Iss) (ctx n : Nat) (v : DWord) : Bool :=
  match n with
  | 0x040 => isVirtual v.toNat && v.toNat % 4096 == 0
  | 0x041 => bits v 1 11 == 0 && bits v 48 16 == 0
  | 0x042 => fqOk v
  | 0x043 => v.toNat % 64 == 0 && decide (64 ≤ v.toNat ∧ v.toNat ≤ 2 ^ 27) && (s.queueCsr x ctx n v).lanternFits
  | 0x045 => (s.queueCsr x ctx n v).partitionOk ctx
  | 0x046 => decide (v.toNat ≤ 1) && (s.queueCsr x ctx n v).partitionOk ctx
  | _ => decide (1 ≤ v.toNat ∧ v.toNat ≤ 2 ^ 25) && (s.queueCsr x ctx n v).lanternFits

/-- A GREG write: full and untainted (21 Table 21.1). -/
def State.writeGreg (s : State) (x : Iss) (own : CoreCtx) (g : Group) (v : DWord) : Except Nat State :=
  let r := selReg own.sel
  let slot := selSlot own.sel
  if isS r then .ok (s.modGroup x.core slot fun g => { g with uni := g.uni.set (sNum r) v })
  else if r.toNat < 8 * g.blocks then
    .ok (s.modGroup x.core slot fun g => g.setV r.toNat (1#128 <<< selLane own.sel) fun _ => v.lo)
  else .error 0x02

/-- A written TPC obeys R81: the checks of a link, and where the image of its token is on the core, its length. -/
def State.tpcOk (s : State) (x : Iss) (v : DWord) : Bool :=
  linkOk v && (match s.codeImage x.core x.ctx (Pc.ofLink v).token with
    | some i => decide ((Pc.ofLink v).off.toNat < i.len) | none => true)

/-- cswr's effect, or the cause of the trap. -/
def State.csrWrite (s : State) (x : Iss) (n : Nat) (v : DWord) : Except Nat State :=
  match s.cctx? x.core x.ctx with
  | none => .error 0x01
  | some own =>
    let ctx := selCtx own.sel
    let here := fun (f : CoreCtx → CoreCtx) => s.modCctx x.core x.ctx f
    let ok := fun (b : Bool) (s' : State) => if b then (Except.ok s' : Except Nat State) else .error 0x02
    match n, s.core? x.core, s.cctx? x.core ctx with
    | 0x000, _, _ => ok (bits v 31 33 == 0 && decide (bits v 8 3 ≤ 5)) (here fun c => { c with sel := v.extractLsb' 0 31 })
    | 0x003, _, _ => ok (s.tpcOk x v) (here fun c => { c with tpc := Pc.ofLink v })
    | 0x015, _, _ => (match s.selGroup x own with | none => .error 0x02 | some g => s.writeGreg x own g v)
    | 0x021, some c, some cc =>
      let held := c.wgs.all fun p => p.2.ctx != ctx || decide (v.toNat ≤ p.2.base)
      ok (v.toNat % 4096 == 0 && decide (v.toNat ≤ cc.sllim) && held)
        (s.modCctx x.core ctx fun cc => { cc with slbase := v.toNat })
    | 0x022, some c, some cc =>
      let held := c.wgs.all fun p => p.2.ctx != ctx || decide (p.2.limit ≤ v.toNat)
      ok (v.toNat % 4096 == 0 && decide (cc.slbase ≤ v.toNat ∧ v.toNat ≤ 0x03C00000) && held)
        (s.modCctx x.core ctx fun cc => { cc with sllim := v.toNat })
    | 0x023, some c, some _ =>
      ok (decide (v.toNat ≤ 512 ∧ c.heldBlocks ctx ≤ v.toNat)) (s.modCctx x.core ctx fun cc => { cc with vbq := v.toNat })
    | 0x024, some _, some cc =>
      ok (decide (v.toNat ≤ 256 ∧ cc.heldSlots ≤ v.toNat)) (s.modCctx x.core ctx fun cc => { cc with ovqt := v.toNat })
    | 0x025, some _, some _ =>
      ok (bits v 13 51 == 0) (s.modCctx x.core ctx fun cc =>
        let go := v.getLsbD 12 && !cc.running
        { cc with ctent := v.extractLsb' 0 13, starting := cc.starting || go,
                  startAt := if go then v.extractLsb' 0 12 else cc.startAt })
    | m, _, _ =>
      if m = 0x040 ∨ m = 0x041 ∨ m = 0x042 ∨ m = 0x043 ∨ m = 0x045 ∨ m = 0x046 ∨ (0x080 ≤ m ∧ m < 0x0C0) then
        ok (s.wideOk x ctx m v) (s.queueCsr x ctx m v)
      else .error 0x01

/-- csrd (21 R310). -/
def execCsrd (o : I64) (s : State) : Res :=
  issue (fReq o.g [] [atS o.d]) 8 s fun x =>
    match s.csrRead x (bits o.imm 0 12) with
    | .error c => if c = 0x1B then eccR x s 5 0 else trapR x s c
    | .ok v => .next ((s.setS x o.d v).advance x 8)

/-- cswr (21 R306, R310). -/
def execCswr (o : I64) (s : State) : Res :=
  issue (fReq o.g [rdS o.a] []) 8 s fun x =>
    match s.csrWrite x (bits o.imm 0 12) (x.s o.a.reg) with
    | .error c => trapR x s c
    | .ok s' => .next (s'.advance x 8)

/-! The end of a delivery (21 R311). -/

/-- Another delivery of a group waits: the group stays frozen (24 R342). -/
def CoreCtx.waitsFor (c : CoreCtx) (slot : Nat) : Bool := CoreCtx.keepsFrozen { c with handling := none } slot

/-- The source of a delivery resumes at TPC: a split, with its group, or the user CT, which keeps its place in parv or in
a queue where TPC has not been changed. The loops of the source are left as they are, also where a trap or brkpt that has
been passed stands at the end of one (04 R80, log 101: DESIGN CHOICE). -/
def State.resumeSource (s : State) (k ctx : Nat) (d : Delivery) (tpc : Pc) : State :=
  match d.src with
  | .group slot e => s.modGroup k slot fun g =>
      { g.modSplit e fun sp => { sp with flow := sp.flow.goto tpc } with
        frozen := match s.cctx? k ctx with | some c => c.waitsFor slot | none => false }
  | .userCt => s.modCctx k ctx fun c =>
      { c with
        user := { c.user with flow := c.user.flow.goto tpc }
        wait := if c.user.flow.pc = tpc then c.wait else .none }

/-- tret (21 R311): the next queued delivery starts at once. -/
def execTret (o : Op) (s : State) : Res :=
  issue (fReq o.g [] []) 8 s fun x =>
    match s.cctx? x.core x.ctx with
    | none => .fault .noThread
    | some c => match c.handling with
      | none => .fault .noThread
      | some d =>
        let s1 := ((s.advance x 8).resumeSource x.core x.ctx d c.tpc).modCctx x.core x.ctx fun c =>
          { c with handling := none, held := c.held && !d.straggle, stopped := !c.deliveries.isEmpty }
        .next ((s1.startDelivery x.core x.ctx).settleTokens x.core)

/-- halt (21 R311, 24 R345): the source and the groups that a straggler event froze stay frozen, and the user CT stopped;
the next queued delivery starts at once (21 R303). -/
def execHalt (o : Op) (s : State) : Res :=
  issue (fReq o.g [] []) 8 s fun x =>
    match s.cctx? x.core x.ctx with
    | none => .fault .noThread
    | some c => match c.handling with
      | none => .fault .noThread
      | some d =>
        .next ((((s.advance x 8).haltRecord x.core x.ctx d).modCctx x.core x.ctx fun c =>
          { c with handling := none }).startDelivery x.core x.ctx)

/-- TRAP_DELIVERY (21 R303): a queued delivery starts when none is handled. -/
def execTrapDelivery (core ctx : Nat) (s : State) : Res :=
  match s.cctx? core ctx with
  | none => .fault (.notEnabled "TRAP_DELIVERY")
  | some c =>
    if c.handling.isSome || c.deliveries.isEmpty then .fault (.notEnabled "TRAP_DELIVERY")
    else .next (s.startDelivery core ctx)

/-! tinv (21 R312). -/

/-- A cached translation that tinv drops: .page 0 what may be of a page of any size that covers the address, .ctx 1 all of a
context, .all 2 everything (21 R312, log 8). -/
def Cached.dropped (c : Cached) (f ctx a : Nat) : Bool :=
  match f with
  | 0 => c.ctx == ctx && c.va / 2 ^ 30 == a / 2 ^ 30
  | 1 => c.ctx == ctx
  | _ => true

/-- Writes outside the slices are still to be performed (08 R183). -/
def State.outerPending (s : State) : Bool :=
  s.cores.any fun c => c.nodes.any fun n => n.left.any fun p => decide (2 ^ 26 ≤ p.2)

/-- tinv (21 R312): the translation caches drop the entries that it selects, once every access made under them has been
performed (25 R357). -/
def execTinv (o : Op) (s : State) : Res :=
  let f := bits o.fn 0 2
  issue (fReq o.g ((if f = 0 then [rdS o.a] else []) ++ (if f = 2 then [] else [rdS o.b])) []) 8 s fun x =>
    if f ≠ 2 ∧ 15 < (x.s o.b.reg).toNat then trapR x s 0x02
    else if s.outerPending then waitR s
    else
      let gone := fun (c : Cached) => c.dropped f (x.s o.b.reg).toNat (bits (x.s o.a.reg) 0 48)
      .next ({ s with tlb := s.tlb.filter fun c => !gone c }.advance x 8)

/-! ctsv and ctld (21 R313). -/

/-- The context that a ctsv or ctld names, where they may be issued for it. -/
def State.imageTarget (s : State) (v : DWord) : Option Nat :=
  if 15 < v.toNat then none
  else if s.inWindow || (match s.ctx? v.toNat with | some d => d.detached | none => false) then some v.toNat else none

/-- The record of a translation fault, or of an error in a read, of a ctsv or ctld, whose result is then 0. -/
def State.imageFault (s : State) (x : Iss) (d : BitVec 9) (cause a : Nat) : State :=
  ((s.reportImage (s.issuer x) cause a).setS x d 0).advance x 8

/-- ctsv (21 R313): it waits for what the context still has under way. -/
def execCtsv (o : Op) (s : State) : Res :=
  issue (fReq o.g [rdS o.a, rdS o.b] [atS o.d]) 8 s fun x =>
    match s.imageTarget (x.s o.b.reg) with
    | none => trapR x s 0x02
    | some ctx =>
      let a := bits (x.s o.a.reg) 0 48
      if !s.drained ctx then waitR s
      else match s.writeImage x.core ctx x.ctx a with
        | .error e => .next (s.imageFault x o.d (s.walkCause x.ctx e true) e)
        | .ok (s1, len) =>
          let s2 := s.reportSaved (s.issuer x) x.core ctx s1
          .next (((s2.setS x o.d (BitVec.ofNat 64 len)).advance x 8).release x.core ctx)

/-- ctld (21 R313). -/
def execCtld (o : Op) (s : State) : Res :=
  issue (fReq o.g [rdS o.a, rdS o.b] [atS o.d]) 8 s fun x =>
    match s.imageTarget (x.s o.b.reg) with
    | none => trapR x s 0x02
    | some ctx =>
      if (match s.cctx? x.core ctx with | some cc => cc.resident | none => true) then trapR x s 0x02
      else match s.readImageAt x.ctx (bits (x.s o.a.reg) 0 48) with
        | .fault c e => .next (s.imageFault x o.d c e)
        | .mismatch => .next ((s.setS x o.d 0).advance x 8)
        | .image v =>
          if s.roomFor x.core ctx v then
            .next (((s.restoreImage x.core ctx v).setS x o.d (BitVec.ofNat 64 v.len)).advance x 8)
          else .next ((s.setS x o.d 0).advance x 8)

/-! pdet (21 R314). -/

/-- pdet.det (21 R314; 23 R335). -/
def execPdetDet (o : Op) (s : State) : Res :=
  issue (fReq o.g [rdS o.a] []) 8 s fun x =>
    .next ((s.advance x 8).detach (bits (x.s o.a.reg) 0 4) (some x.core))

/-- pdet.att (21 R314): the context rejoins at the next compute superstep. -/
def execPdetAtt (o : Op) (s : State) : Res :=
  issue (fReq o.g [rdS o.a] []) 8 s fun x =>
    if !s.inWindow then trapR x s 0x02
    else .next ((s.modCtx (bits (x.s o.a.reg) 0 4) fun d => { d with rejoin := d.rejoin || d.detached }).advance x 8)

end Sys2Proof.Machine
end

