-- ==== Sys2Proof/Machine/Boundary.lean ====
section
/-! DEFINITION. The phase controller: the two boundaries and the window, requests on contexts, stragglers
(09 R188 to R191; 22 R326; 23 R329 to R341; 26 R368). -/
namespace Sys2Proof.Machine

/-- The contexts in phase membership (23 R330). -/
def State.members (s : State) : List Nat :=
  (List.range 16).filter fun n => match s.ctx? n with | some d => d.member && !d.detached | none => false

/-- Every context on every core, as core and context numbers. -/
def allCores : List Nat := List.range 64

/-! The ring's part in a boundary (26 R368). -/

/-- The leader has every member's ARRIVE: it sends RELEASE, and goes on itself. -/
def State.ringCheck (s : State) : State :=
  let r := s.ring
  if r.rmem &&& ~~~r.arrived = 0 then
    let others := (List.range 256).filter fun n => r.rmem.getLsbD n && n != s.node.toNat
    { s with
      outbox := s.outbox ++ others.map fun n => Message.ringRelease (BitVec.ofNat 8 n)
      ring := { r with arrived := 0, since := none, released := r.released || r.rmem.getLsbD s.node.toNat } }
  else s

/-- The leader takes an ARRIVE (26 R368, R369). -/
def State.ringTake (s : State) (node : BitVec 8) : State :=
  let r := s.ring
  State.ringCheck { s with ring := { r with
    arrived := r.arrived ||| (1#256 <<< node.toNat)
    since := some (r.since.getD s.clock) } }

/-- A device of a ring sends ARRIVE instead of running a boundary (26 R368). -/
def State.ringSend (s : State) : State :=
  let s1 := { s with ring := { s.ring with sent := true } }
  if s.ring.lead then s1.ringTake s.node else { s1 with outbox := s1.outbox ++ [.ringArrive s.ring.lnode] }

/-- A boundary that is due: a device alone runs it; in a ring it sends ARRIVE first, and runs it once RELEASE has come. -/
def State.ringGate (s : State) (name : String) (run : State → State) : Res :=
  if !s.ring.en then .next (run s)
  else if s.ring.released then .next (run { s with ring := { s.ring with sent := false, released := false } })
  else if s.ring.sent then .fault (.notEnabled name)
  else .next s.ringSend

/-! The boundary from compute to exchange (09 R188, R190). -/

/-- No engine is owned or asked for by a member (11 R222, 23 R341). -/
def State.enginesFree (s : State) : Bool :=
  let ms := s.members
  s.cores.all fun c =>
    (c.mat.owner.toList ++ c.mat.susp ++ c.mat.queue).all fun o => !ms.contains o.ctx

/-- R188: every core of every attached context has arrived. -/
def State.allArrived (s : State) : Bool :=
  s.enginesFree && s.members.all fun n => allCores.all fun k => s.arrivedOn k n

/-- R190 step 4 for a control thread: it starts its exchange program at its label, and remembers its parv. -/
def CoreCtx.startExchange (c : CoreCtx) : CoreCtx :=
  match c.wait with
  | .arrived l =>
    if c.running then
      { c with resume := c.user.flow.pc, user := { c.user with flow := c.user.flow.goto l }, wait := .none }
    else c
  | _ => c

/-- What the engines of every core have written since the last boundary is now seen by the fills of all (17 R284, 08 R183). -/
def State.settleMemory (s : State) : State :=
  { s with gddrStart := s.gddr, remoteStart := s.remote, cores := s.cores.map fun c => { c with wrote := [] } }

/-- R190: the four steps; then the first stage of every member starts (09 R202). -/
def State.runCtoX (s : State) : State :=
  let ms := s.members
  let s1 := { s with phase := s.phase + 1, straggle := some s.clock, warned := false }
  let s2 := ms.foldl (fun s n => allCores.foldl (fun s k => s.modCore k fun c => c.flipBound n none) s) s1
  let s3 := (List.range 16).foldl (fun s n => (s.graphBoundary n).sceneBoundary n) s2
  let s4 := ms.foldl (fun s n => allCores.foldl (fun s k => s.modCctx k n CoreCtx.startExchange) s) s3
  let s5 := allCores.foldl (fun s k => s.settleTokens k) s4
  ms.foldl State.startStage s5.settleMemory

/-- No claim of register blocks waits anywhere (03 R61). -/
def State.noClaims (s : State) : Bool := s.cores.all fun c => c.claims.isEmpty

/-- C_TO_X_BOUNDARY (09 R188, R190; 03 R61; 23 R331 steps 1 and 2). With no member nothing holds it back (log 37). -/
def execCToXBoundary (s : State) : Res :=
  if s.boot ≠ 6 ∨ s.phase.getLsbD 0 = true ∨ s.window ≠ .closed ∨ s.allArrived = false ∨ s.noClaims = false then
    .fault (.notEnabled "C_TO_X_BOUNDARY")
  else s.ringGate "C_TO_X_BOUNDARY" State.runCtoX

/-! The window opens (23 R331 steps 3 and 4). -/

/-- A control thread of a context has nothing under way on core k (23 R341). -/
def State.ctIdle (s : State) (k ctx : Nat) : Bool :=
  match s.core? k with
  | none => true
  | some c =>
    (match c.cctx? ctx with | some cc => cc.user.uni.idle && cc.sup.uni.idle | none => true)
      && (c.results.all fun r => match r.party with | .ct n _ => n != ctx | .group _ => true)
      && (c.nodes.all fun n => n.ctx != ctx || n.left.isEmpty)

/-- A context has executed xend with every control thread, and no transfer or result of it is left (09 R191, 23 R341). -/
def State.endedX (s : State) (ctx : Nat) : Bool :=
  s.transfersDone ctx && allCores.all fun k => match s.cctx? k ctx with
    | some c => !c.resident || (c.ctEnded && s.ctIdle k ctx)
    | none => true

/-- R191: every member's exchange has ended. -/
def State.allEnded (s : State) : Bool := s.members.all s.endedX

/-- A context-wide CSR takes a value (21 Table 21.1, R306). -/
def State.applyCsr (s : State) (ctx n : Nat) (v : DWord) : State :=
  match n with
  | 0x040 => s.modCtx ctx fun d => { d with ovtb := v.toNat }
  | 0x041 => s.modCtx ctx fun d => { d with ptroot := v }
  | 0x042 => s.modCtx ctx fun d => { d with fq := v }
  | 0x043 => s.resetPool ctx v.toNat
  | 0x045 => s.modCtx ctx fun d => { d with cores := v }
  | 0x046 => s.modCtx ctx fun d => { d with excl := v.getLsbD 0 }
  | m => s.modCtx ctx fun d => { d with scncap := d.scncap.set (m - 0x080) v.toNat }

/-- R306: the waiting writes of a context apply in ascending issuing core, then issue order. -/
def State.applyCsrs (s : State) (ctx : Nat) : State :=
  match s.ctx? ctx with
  | none => s
  | some d =>
    d.orderedWrites.foldl (fun s w => s.applyCsr ctx w.2.1 w.2.2) (s.modCtx ctx fun d => { d with csrWrites := [] })

/-- A control thread that has executed xend will go on after its parv (09 R187): its loops that end there are
processed (04 R80). -/
def CoreCtx.afterExchange (c : CoreCtx) : CoreCtx :=
  if c.running ∧ c.wait = .xend then
    { c with user := { c.user with flow := (c.user.flow.goto c.resume).advance 8 }, wait := .none }
  else c

/-- Every group of a workgroup has exited. -/
def Core.allExited (c : Core) (w : Workgroup) : Bool :=
  w.slots.all fun t => match c.group? t with | some g => g.hasExited | none => true

/-- R16, R193: frees a workgroup with its groups, blocks, allocation, wing pairs and barrier objects. -/
def Core.freeWorkgroup (c : Core) (id : Nat) (w : Workgroup) : Core :=
  { c with
    groups := (List.range c.groups.length).map fun t => if w.slots.contains t then none else c.group? t
    wgs := AMap.erase c.wgs id
    cctx := c.cctx.modify w.ctx fun cc =>
      { cc with
        wings := cc.wings.filter fun (v : Wing) => v.owner != .wg id
        objs := cc.objs.filter fun (o : Obj) => o.owner != .wg id } }

/-- One allocation of a launch is freed; with the last, its completion record is written (22 R319). -/
def State.launchFreed (s : State) (w : Workgroup) : State :=
  let q := bits w.launch 0 6
  let n := bits w.launch 6 58
  let s1 := s.modLaunch q n fun m => { m with freed := m.freed + 1 }
  match s1.launches.find? fun m => m.queue == q && m.seq == n with
  | none => s1
  | some m =>
    if m.placed = lrWgcnt m.record ∧ m.freed = m.placed then
      { s1.completion m.ctx q n m.record 1 0 with
        launches := s1.launches.filter fun p => !(p.queue == q && p.seq == n) }
    else s1

/-- R16: frees the workgroups of a core whose last group has exited; a detached context keeps its own (23 R336). -/
def State.freeOn (s : State) (k : Nat) : State :=
  match s.core? k with
  | none => s
  | some c =>
    let gone := c.wgs.filter fun p => c.allExited p.2
      && (match s.ctx? p.2.ctx with | some d => !d.detached | none => true)
    gone.foldl (fun s p => (s.modCore k fun c => c.freeWorkgroup p.1 p.2).launchFreed p.2) s

/-- A waiting write of the ring's EN takes effect (26 R368); a device that leaves the ring counts no time-out (R369). -/
def Ring.openWindow (r : Ring) : Ring :=
  match r.pending with
  | none => r
  | some v =>
    let on := v.getLsbD 0
    { r with en := on, pending := none, sent := false, released := false,
             arrived := if on then r.arrived else 0, since := if on then r.since else none }

/-- What is sampled when the window opens (22 R323): the temperature, and the droops of the last 2^20 clocks. -/
def Core.sample (c : Core) (n k : Nat) (now : DWord) : Core :=
  { c with temp := Config.temperature n k, droopCount := (c.droops.filter fun d => decide ((now - d).toNat < 2 ^ 20)).length }

/-- R331 steps 3 and 4: the last stage's contributions apply, and the window opens. -/
def State.openWindow (s : State) : State :=
  let s1 := (s.members.foldl (fun s n => (s.applyXadds n).dropStage n) s).settleMemory
  let s2 := (List.range 16).foldl State.applyCsrs s1
  let s3 := allCores.foldl State.freeOn s2
  let s4 := (List.range 16).foldl (fun s n => allCores.foldl (fun s k => s.modCctx k n CoreCtx.afterExchange) s) s3
  let s5 := allCores.foldl (fun s k => (s.modCore k fun c => c.sample s.ticks k s.clock).settleTokens k) s4
  { s5 with
    window := .requests, straggle := none, ring := s5.ring.openWindow,
    queues := s5.queues.map fun (q : LaunchQueue) => { q with passed := false, avail := q.widx }
    reqs := s5.reqs.map fun (r : ReqRegs) => { r with due := r.busy } }

/-! Requests (23 R337 to R340). -/

/-- The request of a context that is due in this window. -/
def State.dueReq (s : State) (ctx : Nat) : Option ReqRegs := (s.reqs[ctx]?).filter fun r => r.busy && r.due

/-- The request is a reset, or has become one (23 R339, R340). -/
def ReqRegs.isReset (r : ReqRegs) : Bool := r.req == 3#2 || r.missed

/-- Some request that comes before the given kind is still due: resets, then saves, then restores (23 Table 23.2). -/
def State.earlierDue (s : State) (kind : Nat) : Bool :=
  (List.range 16).any fun n => match s.dueReq n with
    | none => false
    | some r => (r.isReset && decide (0 < kind)) || (!r.isReset && r.req == 1#2 && decide (1 < kind))

/-- A request ends with a result. -/
def State.endReq (s : State) (ctx : Nat) (result : BitVec 3) : State :=
  { s with reqs := s.reqs.modify ctx fun (r : ReqRegs) =>
      { r with busy := false, due := false, missed := false, result := result } }

/-- CONTEXT_RESET (23 R339, R340). -/
def execContextReset (ctx : Nat) (s : State) : Res :=
  match s.dueReq ctx with
  | none => .fault (.notEnabled "CONTEXT_RESET")
  | some r =>
    if s.window = .requests ∧ r.isReset = true then .next ((s.resetContext ctx).endReq ctx (if r.missed then 2 else 1))
    else .fault (.notEnabled "CONTEXT_RESET")

/-- Writes the images of a context on a list of cores; none when one is too large or a write faults (23 R337). -/
def State.writeImages (ctx base size : Nat) : List Nat → State → State × Bool
  | [], s => (s, true)
  | k :: ks, s =>
    match s.writeImage k ctx ctx (base + k * size) with
    | .error e =>
      let c := s.walkCause ctx e true
      (if c = 0x1B then s.reportImage (controller k ctx) c e else s, false)
    | .ok (s', len) =>
      if size < len then (s, false)
      else State.writeImages ctx base size ks (s.reportSaved (controller k ctx) k ctx s')

/-- CONTEXT_SAVE (23 R337): it waits for what the context still has under way. -/
def execContextSave (ctx : Nat) (s : State) : Res :=
  match s.dueReq ctx with
  | none => .fault (.notEnabled "CONTEXT_SAVE")
  | some r =>
    if s.window ≠ .requests ∨ r.isReset = true ∨ r.req ≠ 1#2 ∨ s.earlierDue 1 = true ∨ s.drained ctx = false then
      .fault (.notEnabled "CONTEXT_SAVE")
    else
      let ks := s.residentOn ctx
      match State.writeImages ctx r.savea r.savesz ks s with
      | (s1, false) => .next ((s1.modCtx ctx fun d => { d with member := false, detached := true }).endReq ctx 3)
      | (s1, true) =>
        let on : DWord := ks.foldl (fun (m : DWord) k => m ||| (1#64 <<< k)) 0
        .next (((ks.foldl (fun s k => s.release k ctx) s1).modCtx ctx fun d =>
          { d with member := false, saved := true, savedOn := on }).endReq ctx 1)

/-- The images of a context's save area, by core; an error says that one cannot be read, with the core and the address of an
error beyond correction that the first such one has met (24 R349). Where no save has said on which cores the context was, every
core whose image has a good header counts (log 87), and one whose header is in error. -/
def State.savedImages (s : State) (ctx : Nat) (r : ReqRegs) (on : DWord) :
    Except (Option (Nat × Nat)) (List (Nat × SavedCtx)) :=
  let read := fun (k : Nat) => s.readImageAt ctx (r.savea + k * r.savesz)
  let ks := if on = 0 then allCores.filter fun k => (match read k with
      | .image _ => true | .fault c _ => c == 0x1B | .mismatch => false)
    else allCores.filter fun k => on.getLsbD k
  ks.foldr (fun k acc => match read k with
    | .fault c a => .error (if c = 0x1B then some (k, a) else none)
    | .mismatch => .error none
    | .image v => match acc with | .ok l => .ok ((k, v) :: l) | .error e => .error e) (.ok [])

/-- CONTEXT_RESTORE (23 R338). -/
def execContextRestore (ctx : Nat) (s : State) : Res :=
  match s.dueReq ctx, s.ctx? ctx with
  | some r, some d =>
    if s.window ≠ .requests ∨ r.isReset = true ∨ r.req ≠ 2#2 ∨ s.earlierDue 2 = true then
      .fault (.notEnabled "CONTEXT_RESTORE")
    else
      match s.savedImages ctx r d.savedOn with
      | .error e =>
        let s1 := match e with
          | some (k, a) => s.reportImage (controller (BitVec.ofNat 6 k ^^^ r.reloc).toNat ctx) 0x1B a
          | none => s
        .next (s1.endReq ctx 3)
      | .ok l =>
        let wide := l.any fun (p : Nat × SavedCtx) => p.2.wgs.any fun (w : Nat × Workgroup) => w.2.shape != 0
        let split := (r.reloc.getLsbD 0 || r.reloc.getLsbD 3) && wide
        let dest := fun (k : Nat) => (BitVec.ofNat 6 k ^^^ r.reloc).toNat
        let room := l.all fun (p : Nat × SavedCtx) => s.roomFor (dest p.1) ctx p.2
          && (match s.cctx? (dest p.1) ctx with | some c => !c.resident | none => false)
        if split || !room then .next (s.endReq ctx 4)
        else
          let s1 := l.foldl (fun s (p : Nat × SavedCtx) => s.restoreImage (dest p.1) ctx p.2) s
          .next ((s1.modCtx ctx fun d =>
            { d with member := true, detached := false, saved := false, rejoin := true }).endReq ctx 1)
  | _, _ => .fault (.notEnabled "CONTEXT_RESTORE")

/-- A member holds the boundary back (23 R340): outside a window it has not arrived, owns a matrix engine or asks for one,
or its exchange has not ended; in the window a handler of a window event of it has not ended (23 R331 step 6). -/
def State.holdsBack (s : State) (ctx : Nat) : Bool :=
  s.members.contains ctx && match s.window with
  | .requests => false
  | .events => s.cores.any fun c => match c.cctx? ctx with
    | some cc => cc.handling.isSome || !cc.deliveries.isEmpty | none => false
  | .closed => (if s.phase.getLsbD 0 then !s.endedX ctx
        else allCores.any (fun k => !s.arrivedOn k ctx)
          || s.cores.any fun c => (c.mat.owner.toList ++ c.mat.susp ++ c.mat.queue).any fun o => o.ctx == ctx)

/-- DEADLINE_MISSED (23 R340): the context has not let a boundary run; the reset follows at the next window. -/
def execDeadlineMissed (ctx : Nat) (s : State) : Res :=
  match s.reqs[ctx]?, s.ctx? ctx with
  | some r, some _ =>
    if r.busy = true ∧ r.missed = false ∧ r.dl ≤ (s.clock - r.since).toNat ∧ s.holdsBack ctx = true then
      let s1 := s.detach ctx none
      .next { s1 with reqs := s1.reqs.modify ctx fun (r : ReqRegs) => { r with missed := true, due := false } }
    else .fault (.notEnabled "DEADLINE_MISSED")
  | _, _ => .fault (.notEnabled "DEADLINE_MISSED")

/-! Window events, placement, and the end of the window (23 R331 steps 6 to 8). -/

/-- An event delivered to the user CT of a context on a core (21 R303; 23 R334); TPC is taken when the delivery starts. -/
def State.ctEvent (s : State) (k ctx detail : Nat) : State :=
  match s.cctx? k ctx with
  | none => s
  | some c =>
    s.deliver k ctx ⟨.userCt, 0x18, BitVec.ofNat 16 detail, c.user.flow.pc, c.user.flow.pc, 0, 0⟩

/-- Step 6 begins: a member with WEV takes a window event on each of its cores. -/
def State.windowEvents (s : State) : State :=
  let s1 := s.members.foldl (fun s n =>
    match s.reqs[n]? with
    | some r => if r.wev then (s.residentOn n).foldl (fun s k => s.ctEvent k n 2) s else s
    | none => s) s
  { s1 with window := .events }

/-- No delivery runs or waits anywhere. -/
def State.handlersDone (s : State) : Bool :=
  s.cores.all fun c => c.cctx.all fun cc => cc.handling.isNone && cc.deliveries.isEmpty

/-- A group whose parv is behind it (09 R186): it goes on, with the loops that end there. -/
def Group.unpark (g : Group) : Group :=
  if g.parked then
    { g with
      parked := false
      splits := g.splits.map fun sp => sp.map fun (sp : Split) => match sp.wait with
        | .parv _ => { sp with wait := .none, flow := sp.flow.advance 8 }
        | _ => sp }
  else g

/-- A context that rejoins: what it froze goes on where it was (23 R336, R338). -/
def Group.thaw (g : Group) : Group := { g with frozen := false }
/-- A user CT of a context that rejoins: one that had arrived goes on after its parv. -/
def CoreCtx.thaw (c : CoreCtx) : CoreCtx :=
  match c.wait with
  | .arrived _ => { c with stopped := false, held := false, wait := .none, user := { c.user with flow := c.user.flow.advance 8 } }
  | .xsync => { c with stopped := false, held := false, wait := .none }
  | _ => { c with stopped := false, held := false }

/-- R308: a control thread starts at entry 0 of the token that the write with V = 1 has named. -/
def CoreCtx.start (c : CoreCtx) (k ctx : Nat) : CoreCtx :=
  let t := c.startAt
  let regs : List DWord := [BitVec.ofNat 64 c.slbase, BitVec.ofNat 64 c.sllim, BitVec.ofNat 64 ctx, BitVec.ofNat 64 k]
  { c with
    resident := true, starting := false, running := true, exited := false, stopped := false, wait := .entry t, dq := [],
    user := ⟨{ Uni.zero with s := regs ++ List.replicate 124 0 }, Flow.start ⟨t, 0⟩⟩ }

/-- R308, R330: the control threads that wait to start on core k do so where their context may be resident. -/
def State.startThreads (s : State) (k : Nat) : State :=
  (List.range 16).foldl (fun s n =>
    match s.cctx? k n, s.ctx? n with
    | some c, some d =>
      if c.starting && s.mayReside k n && !d.detached && !d.saved then
        (s.modCctx k n fun c => c.start k n).modCtx n fun d => { d with member := true }
      else s
    | _, _ => s) s

/-- Step 8 for a context: it rejoins if it was to, and its parked groups go on. -/
def State.resumeCtx (s : State) (n : Nat) : State :=
  match s.ctx? n with
  | none => s
  | some d =>
    let s1 := if d.rejoin then
        allCores.foldl (fun s k => s.modCore k fun c =>
          (Core.modCctx { c with
            groups := c.groups.map fun (g : Option Group) => g.map fun (g : Group) => if g.ctx = n then g.thaw else g } n
            CoreCtx.thaw))
          (s.modCtx n fun d => { d with member := true, detached := false, rejoin := false })
      else s
    if d.detached && !d.rejoin then s1
    else allCores.foldl (fun s k => s.modCore k fun c =>
      { c with
        groups := c.groups.map fun (g : Option Group) => g.map fun (g : Group) => if g.ctx = n then g.unpark else g }) s1

/-- R331 steps 7 and 8: placement, PHASE, and everyone goes on. -/
def State.closeWindow (s : State) : State :=
  let s1 := s.settleMemory.place
  let s2 := { s1 with phase := s1.phase + 1, window := .closed, straggle := none, warned := false }
  let s3 := (List.range 16).foldl State.resumeCtx s2
  allCores.foldl (fun s k => (s.startThreads k).settleTokens k) s3

/-- X_TO_C_BOUNDARY (09 R191; 23 R331 steps 3 to 8), in three steps of the model: the window opens; when its requests are
done the window events are raised; when their handlers have ended it closes. -/
def execXToCBoundary (s : State) : Res :=
  if s.boot ≠ 6 ∨ s.phase.getLsbD 0 = false then .fault (.notEnabled "X_TO_C_BOUNDARY")
  else match s.window with
    | .closed => if s.allEnded then s.ringGate "X_TO_C_BOUNDARY" State.openWindow else .fault (.notEnabled "X_TO_C_BOUNDARY")
    | .requests =>
      if (List.range 16).all fun n => (s.dueReq n).isNone then .next s.windowEvents
      else .fault (.notEnabled "X_TO_C_BOUNDARY")
    | .events => if s.handlersDone then .next s.closeWindow else .fault (.notEnabled "X_TO_C_BOUNDARY")

/-! Stragglers (23 R332 to R335). -/

/-- The members that straggle on core k. -/
def State.stragglersOn (s : State) (k : Nat) : List Nat := s.members.filter fun n => s.straggles k n

/-- A member core has arrived: members are resident there and none of them straggles (09 R188, 23 R332). -/
def State.coreArrived (s : State) (k : Nat) : Bool :=
  (s.members.any fun n => match s.cctx? k n with | some c => c.resident | none => false) && (s.stragglersOn k).isEmpty

/-- R332: the count of a compute superstep starts at the first arrival of a member core. -/
def State.startCount (s : State) : State :=
  if s.boot = 6 ∧ s.straggle = none ∧ s.phase.getLsbD 0 = false then
    if allCores.any s.coreArrived then { s with straggle := some s.clock } else s
  else s

/-- The count has reached a time-out. -/
def State.countReached (s : State) (n : Nat) : Bool :=
  match s.straggle with | some c => decide (n ≤ (s.clock - c).toNat) | none => false

/-- STRAGGLER_EVENT (23 R332, R334); with PSTO2 at most PSTO1 no event precedes detachment. -/
def execStragglerEvent (s : State) : Res :=
  let l := allCores.flatMap fun k => (s.stragglersOn k).map fun n => (k, n)
  if s.boot ≠ 6 ∨ s.warned = true ∨ s.psto2 ≤ s.psto1 ∨ s.countReached s.psto1 = false ∨ l = [] then .fault (.notEnabled "STRAGGLER_EVENT")
  else .next (l.foldl (fun s p => s.ctEvent p.1 p.2 1) { s with warned := true })

/-- STRAGGLER_DETACH (23 R332, R335); with PSTO1 below PSTO2 the event comes first. -/
def execStragglerDetach (s : State) : Res :=
  let l := s.members.filter fun n => allCores.any fun k => s.straggles k n
  if s.boot ≠ 6 ∨ (s.psto1 < s.psto2 ∧ s.warned = false) ∨ s.countReached s.psto2 = false ∨ l = [] then .fault (.notEnabled "STRAGGLER_DETACH")
  else .next (l.foldl (fun s n => s.detach n none) s)

/-! Urgency (22 R326). -/

/-- A split has been ready at 32 consecutive clocks without issuing (22 R326). -/
def Split.overdue (sp : Split) (now : DWord) : Bool :=
  match sp.since with | some t => decide (32 ≤ (now - t).toNat) | none => false

/-- SPLIT_URGENT (22 R326): a split that has been ready at 32 consecutive clocks has become urgent with the last of them. -/
def execSplitUrgent (core slot entry : Nat) (s : State) : Res :=
  match s.iss? (.group core slot entry) with
  | none => .fault (.notEnabled "SPLIT_URGENT")
  | some x =>
    match x.grp.bind fun g => g.split? entry with
    | none => .fault (.notEnabled "SPLIT_URGENT")
    | some sp =>
      if sp.urgent || !sp.overdue s.clock then .fault (.notEnabled "SPLIT_URGENT")
      else .next (s.modGroup core slot fun g => g.modSplit entry fun sp => { sp with urgent := true, urgentAt := sp.since.getD 0 + 32 })

end Sys2Proof.Machine
end

