-- ==== Sys2Proof/Machine/P521.lean ====
section
/-! DEFINITION. ECDSA on curve P-521 (27 R372 and R377 name it; the curve's constants and the algorithm are those of
FIPS 186 and SP 800-186: PRESUMED, log 99). -/
namespace Sys2Proof.Machine.P521

/-- The prime of the field. -/
def prime : Nat :=
  0x1ffffffffffffffffffffffffffffffffffffffffffffffffffffffffffffffffffffffffffffffffffffffffffffffffffffffffffffffffffffffffffffffffff
/-- The order of the base point. -/
def order : Nat :=
  0x1fffffffffffffffffffffffffffffffffffffffffffffffffffffffffffffffffa51868783bf2f966b7fcc0148f709a5d03bb5c9b8899c47aebb6fb71e91386409
/-- The coefficient b of y^2 = x^3 - 3x + b. -/
def coeffB : Nat :=
  0x51953eb9618e1c9a1f929a21a0b68540eea2da725b99b315f3b8b489918ef109e156193951ec7e937b1652c0bd3bb1bf073573df883d2c34f1ef451fd46b503f00
/-- The base point's x. -/
def baseX : Nat :=
  0xc6858e06b70404e9cd9e3ecb662395b4429c648139053fb521f828af606b4d3dbaa14b5e77efe75928fe1dc127a2ffa8de3348b3c1856a429bf97e7e31c2e5bd66
/-- The base point's y. -/
def baseY : Nat :=
  0x11839296a789a3bc0045c8a5fb42c7d1bd998f54449579b446817afbd17273e662c97ee72995ef42640c550b9013fad0761353c7086a272c24088be94769fd16650

/-- A point in Jacobian coordinates (x / z^2, y / z^3); z = 0 is the point at infinity. -/
structure Point where
  x : Nat
  y : Nat
  z : Nat
  deriving DecidableEq, Repr

/-- A difference in the field. -/
def fsub (a b : Nat) : Nat := (a + prime - b % prime) % prime
/-- A product in the field. -/
def fmul (a b : Nat) : Nat := a * b % prime

/-- Twice a point. -/
def Point.double (p : Point) : Point :=
  let d := fmul p.z p.z
  let g := fmul p.y p.y
  let b := fmul p.x g
  let a := 3 * fmul (fsub p.x d) (p.x + d) % prime
  let x := fsub (fmul a a) (8 * b)
  ⟨x, fsub (fmul a (fsub (4 * b) x)) (8 * fmul g g), 2 * fmul p.y p.z % prime⟩

/-- The sum of two points. -/
def Point.add (p q : Point) : Point :=
  if p.z = 0 then q
  else if q.z = 0 then p
  else
    let pz := fmul p.z p.z
    let qz := fmul q.z q.z
    let u := fmul p.x qz
    let h := fsub (fmul q.x pz) u
    let s := fmul p.y (fmul qz q.z)
    let r := fsub (fmul q.y (fmul pz p.z)) s
    if h = 0 then (if r = 0 then p.double else ⟨1, 1, 0⟩)
    else
      let hh := fmul h h
      let hhh := fmul h hh
      let v := fmul u hh
      let x := fsub (fsub (fmul r r) hhh) (2 * v)
      ⟨x, fsub (fmul r (fsub v x)) (fmul s hhh), fmul h (fmul p.z q.z)⟩

/-- a G + b Q: the bits of both numbers below n, highest first, onto an accumulated point. -/
def twoMul (a b : Nat) (g q gq : Point) : Nat → Point → Point
  | 0, acc => acc
  | n + 1, acc =>
    let d := acc.double
    twoMul a b g q gq n (match a.testBit n, b.testBit n with
      | true, true => d.add gq
      | true, false => d.add g
      | false, true => d.add q
      | false, false => d)

/-- b^e modulo m: the bits of e below n, highest first. -/
def powMod (b e m : Nat) : Nat → Nat → Nat
  | 0, acc => acc
  | n + 1, acc => powMod b e m n (if e.testBit n then acc * acc % m * b % m else acc * acc % m)

/-- The point (x, y) lies on the curve. -/
def onCurve (x y : Nat) : Bool :=
  decide (x < prime ∧ y < prime) && y * y % prime == fsub (x * x * x + coeffB) (3 * x)

/-- The signature (r, s) of a digest under the public key (x, y). -/
def verify (digest : List Byte) (x y r s : Nat) : Bool :=
  if !onCurve x y || decide (r = 0 ∨ order ≤ r ∨ s = 0 ∨ order ≤ s) then false
  else
    let w := powMod s (order - 2) order 521 1
    let g : Point := ⟨baseX, baseY, 1⟩
    let q : Point := ⟨x, y, 1⟩
    let p := twoMul (Sha512.beNat digest * w % order) (r * w % order) g q (g.add q) 521 ⟨1, 1, 0⟩
    let zz := fmul p.z p.z
    p.z != 0 && (fmul r zz == p.x || (decide (r + order < prime) && fmul (r + order) zz == p.x))

/-- The base point. -/
def base : Point := ⟨baseX, baseY, 1⟩
/-- A multiple of the base point, in affine coordinates. -/
def baseMul (d : Nat) : Nat × Nat :=
  let p := twoMul d 0 base ⟨1, 1, 0⟩ base 521 ⟨1, 1, 0⟩
  let i := powMod p.z (prime - 2) prime 521 1
  (fmul p.x (fmul i i), fmul p.y (fmul i (fmul i i)))
/-- A private key: a number from 1 to the order less 1. -/
def scalar (n : Nat) : Nat := 1 + n % (order - 1)
/-- The public half of a private key (27 R377). -/
def publicKey (d : Nat) : Nat × Nat := baseMul (scalar d)
/-- The signature (r, s) of a digest with a private key and a secret number. -/
def sign (digest : List Byte) (d k : Nat) : Nat × Nat :=
  let r := (baseMul (scalar k)).1 % order
  (r, powMod (scalar k) (order - 2) order 521 1 * ((Sha512.beNat digest + r * scalar d) % order) % order)

end Sys2Proof.Machine.P521
end

