-- ==== Sys2Proof/Machine/HostWindow.lean ====
section
/-! DEFINITION. What reaches the device from outside: the command window, the phase ring, the fabric, power-on,
attestation and supply droops (22 R315, R316; 23 R329; 26 R364 to R370; 27 R371 to R378). -/
namespace Sys2Proof.Machine

/-! The capability list (27 R378). -/

/-- A capability entry with the offset of the next one (27 Table 27.2). -/
def capEntry (id next : Nat) (words : List DWord) : List Byte :=
  toLE 8 (id + 2 ^ 16 + words.length * 2 ^ 24 + next * 2 ^ 32) ++ words.flatMap fun w => toLE 8 w.toNat

/-- The cores that are switched on. -/
def State.coreMask (s : State) : DWord :=
  (List.range 64).foldl (fun (m : DWord) k => if s.coreOn k then m ||| (1#64 <<< k) else m) 0

/-- Word n of the map of element codes (27 Table 27.3, 05 Table 5.4). -/
def formatMap (n : Nat) : DWord :=
  (List.range 64).foldl (fun (m : DWord) i => if codeValid (BitVec.ofNat 8 (64 * n + i)) then m ||| (1#64 <<< i) else m) 0

/-- The bytes of the capability list (27 Table 27.3). -/
def State.capabilities (s : State) : List Byte :=
  capEntry 1 0x20 [s.coreMask, s.portWidth, 0]
    ++ capEntry 2 0x40 [s.stations.setWidth 64, BitVec.ofNat 64 s.capacity, BitVec.ofNat 64 (s.lsize * 2 ^ 30)]
    ++ capEntry 3 0x58 [0x8000000#64, BitVec.ofNat 64 (64 + 32 * 256)]
    ++ capEntry 4 0x80 ((List.range 4).map formatMap)
    ++ capEntry 5 0 [BitVec.ofNat 64 isaVersion]

/-- Eight bytes of a list from an offset on. -/
def dwordAt (l : List Byte) (off : Nat) : DWord := BitVec.ofNat 64 (ofLE ((l.drop off).take 8))

/-! Reading the command window (26 Table 26.2). -/

/-- Bit n set for each context that has a property. -/
def State.ctxMask (s : State) (p : Ctx → Bool) : Nat :=
  (List.range 16).foldl (fun n i => match s.ctx? i with | some d => if p d then n + 2 ^ i else n | none => n) 0

/-- Word i of a context's request registers (23 Table 23.1). -/
def ReqRegs.word (r : ReqRegs) (i : Nat) : DWord :=
  match i with
  | 0 => BitVec.ofNat 64 ((if r.wev then 2 ^ 12 else 0) + r.result.toNat * 2 ^ 9 + (if r.busy then 2 ^ 8 else 0)
      + r.reloc.toNat * 4 + r.req.toNat)
  | 1 => BitVec.ofNat 64 r.dl
  | 2 => BitVec.ofNat 64 r.savea
  | _ => BitVec.ofNat 64 r.savesz

/-- Word i of a launch queue's block (22 Table 22.1). -/
def LaunchQueue.word (q : LaunchQueue) (i : Nat) : DWord :=
  match i with
  | 0 => BitVec.ofNat 64 ((if q.en then 2 ^ 59 else 0) + (if q.src then 2 ^ 58 else 0) + q.ctx * 2 ^ 54 + q.prio * 2 ^ 52
      + q.lsz % 16 * 2 ^ 48 + q.qbase)
  | 1 => q.widx.setWidth 64
  | 2 => q.ridx.setWidth 64
  | _ => q.stat.setWidth 64

/-- The ring's first register (26 Table 26.3). -/
def Ring.word (r : Ring) : DWord :=
  BitVec.ofNat 64 ((if r.drop then 2 ^ 17 else 0) + (if r.lead then 2 ^ 16 else 0) + r.lnode.toNat * 256
    + (if r.en then 1 else 0))

/-- The value of the command-window register at an aligned offset, after power-on; an unassigned offset reads 0. -/
def State.liveRegister (s : State) (off : Nat) : DWord :=
  if off = 0x0800 then s.distributor.setWidth 64
  else if off = 0x0900 then s.phase
  else if off = 0x0908 then BitVec.ofNat 64 s.psto1
  else if off = 0x0910 then BitVec.ofNat 64 s.psto2
  else if off = 0x0918 then
    BitVec.ofNat 64 (s.ctxMask (fun d => d.detached) * 2 ^ 16 + s.ctxMask fun d => d.member)
  else if off = 0x0980 then s.ring.word
  else if off = 0x0988 then BitVec.ofNat 64 s.ring.rto
  else if 0x09A0 ≤ off ∧ off < 0x09C0 then s.ring.rmem.extractLsb' (8 * (off - 0x09A0)) 64
  else if 0x0A00 ≤ off ∧ off < 0x0C00 then
    (match s.reqs[(off - 0x0A00) / 32]? with | some r => r.word (off % 32 / 8) | none => 0)
  else if 0x0C00 ≤ off ∧ off < 0x0D00 then if off % 16 = 0 then s.loss.getD ((off - 0x0C00) / 16) 0 else 0
  else if off = 0x0E00 then BitVec.ofNat 64 s.explim
  else if off = 0x0E08 then s.node.setWidth 64
  else if 0x1000 ≤ off ∧ off < 0x1800 then
    (match s.queues[(off - 0x1000) / 32]? with | some q => q.word (off % 32 / 8) | none => 0)
  else if 0x2000 ≤ off ∧ off < 0x2800 then s.routes.getD ((off - 0x2000) / 8) 0
  else if 0x2800 ≤ off ∧ off < 0x3000 then
    (match s.core? ((off - 0x2800) / 32) with | some c => c.ecc.getD (off % 32 / 8) 0 | none => 0)
  else 0

/-- BOOT: the step reached, and in the safe talkative state the one that failed (27 R371). -/
def State.bootWord (s : State) : DWord := BitVec.ofNat 64 (s.boot + s.bootFail * 256)

/-- An aligned 8-byte read of the command window (26 R366, 27 R375). -/
def State.register (s : State) (off : Nat) : DWord :=
  if off = 0x0E10 then s.bootWord
  else if 0x4000 ≤ off ∧ off < 0x8000 then dwordAt s.testLog (off - 0x4000)
  else if 0x8000 ≤ off ∧ off < 0xC000 then dwordAt s.capabilities (off - 0x8000)
  else if s.boot = 6 then s.liveRegister off
  else 0

/-! Writing the command window. -/

/-- A time-out in the range 2^10 to 2^40 (23 Table 23.1). -/
def timeOutOk (v : DWord) : Bool := decide (2 ^ 10 ≤ v.toNat ∧ v.toNat ≤ 2 ^ 40)

/-- A write of a context's request word (23 Table 23.1, R330). -/
def ReqRegs.write (r : ReqRegs) (v : DWord) (now : DWord) : ReqRegs :=
  if bits v 13 51 ≠ 0 ∨ r.busy = true then r
  else
    let r1 := { r with wev := v.getLsbD 12, reloc := v.extractLsb' 2 6, req := v.extractLsb' 0 2 }
    if bits v 0 2 = 0 then r1 else { r1 with busy := true, result := 0, since := now, missed := false, due := false }

/-- A write of word i of a context's request registers. -/
def ReqRegs.writeWord (r : ReqRegs) (i : Nat) (v now : DWord) : ReqRegs :=
  match i with
  | 0 => r.write v now
  | 1 => if timeOutOk v then { r with dl := v.toNat } else r
  | 2 => if isVirtual v.toNat && v.toNat % 4096 == 0 then { r with savea := v.toNat } else r
  | _ => if v.toNat < 2 ^ 32 ∧ v.toNat % 4096 = 0 then { r with savesz := v.toNat } else r

/-- LSZ of a queue's first word: its four bits hold 1 to 16, so 0 stands for 16 (log 62). -/
def queueLsz (v : DWord) : Nat := if bits v 48 4 = 0 then 16 else bits v 48 4

/-- The fields of a queue's first word are in range (22 Table 22.1). -/
def queueWordOk (v : DWord) : Bool :=
  let lsz := queueLsz v
  bits v 60 4 == 0
    && (if v.getLsbD 58 then decide (1 ≤ lsz ∧ lsz ≤ 4) && bits v 0 48 == 0
        else isVirtual (bits v 0 48) && bits v 0 48 % 4096 == 0)

/-- Queues that a context has enabled. -/
def State.enabledQueues (s : State) (ctx : Nat) : Nat := (s.queues.filter fun q => q.en && q.ctx == ctx).length

/-- A write of a queue's first word (22 R315): only while EN = 0. Enabling sets RIDX to WIDX and restarts the sequence, with
no head that waits; a ninth queue of a context stays disabled. -/
def State.writeQueue (s : State) (q : Nat) (v : DWord) : State :=
  match s.queues[q]? with
  | none => s
  | some w =>
    if w.en || !queueWordOk v then s
    else
      let ctx := bits v 54 4
      let en := v.getLsbD 59 && decide (s.enabledQueues ctx < 8)
      let w1 := { w with src := v.getLsbD 58, ctx := ctx, prio := bits v 52 2, lsz := queueLsz v, qbase := bits v 0 48, en := en }
      let w2 := if en then { w1 with ridx := w.widx, avail := w.widx, seq := 0, head := none, passed := false, stat := w.stat &&& 1#2 } else w1
      { s with queues := s.queues.set q w2 }

/-- A write of WIDX (22 R316): clipped to the ring's size while the queue is enabled. -/
def LaunchQueue.writeWidx (q : LaunchQueue) (v : Word) : LaunchQueue :=
  if q.en ∧ 2 ^ q.lsz < (v - q.ridx).toNat then { q with widx := q.ridx + BitVec.ofNat 32 (2 ^ q.lsz) }
  else { q with widx := v }

/-- A write of STAT (22 R315): while EN = 0 the host may write it. -/
def LaunchQueue.writeStat (q : LaunchQueue) (v : DWord) : LaunchQueue :=
  if q.en ∨ bits v 2 62 ≠ 0 then q else { q with stat := v.extractLsb' 0 2 }

/-- A write of EXPLIM (26 R366). -/
def State.writeExplim (s : State) (v : DWord) : State := { s with explim := min v.toNat s.capacity }

/-- A write of the ring's first register (26 R368): EN waits for the next window; EN = 0 clears DROP. -/
def State.writeRing (s : State) (v : DWord) : State :=
  if bits v 18 46 ≠ 0 ∨ bits v 1 7 ≠ 0 then s
  else { s with ring := { s.ring with
    lead := v.getLsbD 16, lnode := v.extractLsb' 8 8, drop := s.ring.drop && v.getLsbD 0, pending := some v } }

/-- The offset is one of those whose writes have an event of their own. -/
def ownEvent (off : Nat) : Bool :=
  off == 0x0980 || off == 0x0E00 || (decide (0x1000 ≤ off ∧ off < 0x1800) && (off % 32 == 0 || off % 32 == 8))

/-- Replaces 64 bits of RMEM. -/
def setRmem (m : BitVec 256) (i : Nat) (v : DWord) : BitVec 256 :=
  (m &&& ~~~((BitVec.allOnes 64).setWidth 256 <<< (64 * i))) ||| (v.setWidth 256 <<< (64 * i))

/-- A write of a register without an event of its own; out of range it leaves the register unchanged (23 R329). -/
def State.writePlain (s : State) (off : Nat) (v : DWord) : State :=
  if off = 0x0800 then
    if bits v 8 56 = 0 ∧ 1 ≤ bits v 0 4 ∧ bits v 0 4 ≤ 8 then { s with distributor := v.extractLsb' 0 8 } else s
  else if off = 0x0908 then if timeOutOk v then { s with psto1 := v.toNat } else s
  else if off = 0x0910 then if timeOutOk v then { s with psto2 := v.toNat } else s
  else if off = 0x0988 then
    if timeOutOk v && !s.ring.en then { s with ring := { s.ring with rto := v.toNat } } else s
  else if 0x09A0 ≤ off ∧ off < 0x09C0 then
    if s.ring.en then s else { s with ring := { s.ring with rmem := setRmem s.ring.rmem ((off - 0x09A0) / 8) v } }
  else if 0x0A00 ≤ off ∧ off < 0x0C00 then
    { s with reqs := s.reqs.modify ((off - 0x0A00) / 32) fun (r : ReqRegs) => r.writeWord (off % 32 / 8) v s.clock }
  else if 0x0C00 ≤ off ∧ off < 0x0D00 ∧ off % 16 = 0 then { s with loss := s.loss.set ((off - 0x0C00) / 16) v }
  else if off = 0x0E08 then if v.toNat < 256 then { s with node := v.extractLsb' 0 8 } else s
  else if 0x2000 ≤ off ∧ off < 0x2800 then
    if bits v 17 47 = 0 then { s with routes := s.routes.set ((off - 0x2000) / 8) v } else s
  else if 0x2800 ≤ off ∧ off < 0x3000 then
    s.modCore ((off - 0x2800) / 32) fun c => { c with ecc := c.ecc.set (off % 32 / 8) v }
  else s

/-- An aligned 8-byte write to the command window (26 R366); before power-on ends it has no effect (27 R375). -/
def State.hostWrite (s : State) (off : Nat) (v : DWord) : State :=
  if s.boot ≠ 6 then s
  else if off = 0x0980 then s.writeRing v
  else if off = 0x0E00 then s.writeExplim v
  else if 0x1000 ≤ off ∧ off < 0x1800 then
    if off % 32 = 0 then s.writeQueue ((off - 0x1000) / 32) v
    else if off % 32 = 8 then
      { s with queues := s.queues.modify ((off - 0x1000) / 32) fun (q : LaunchQueue) => q.writeWidx v.lo }
    else if off % 32 = 24 then
      { s with queues := s.queues.modify ((off - 0x1000) / 32) fun (q : LaunchQueue) => q.writeStat v }
    else s
  else s.writePlain off v

/-- The command window answers, and the offset is an aligned one in it. -/
def State.windowOpen (s : State) (off : Nat) : Bool := s.boot != 0 && off % 8 == 0 && decide (off < 0x10000)

/-- QUEUE_ENABLE (22 R315): a write of the first word of queue q with EN = 1. -/
def execQueueEnable (q : Nat) (v : DWord) (s : State) : Res :=
  if 64 ≤ q ∨ v.getLsbD 59 = false ∨ s.boot = 0 then .fault (.notEnabled "QUEUE_ENABLE")
  else .next (s.hostWrite (0x1000 + 32 * q) v)

/-- WIDX_WRITE (22 R316). -/
def execWidxWrite (q : Nat) (v : DWord) (s : State) : Res :=
  if 64 ≤ q ∨ s.boot = 0 then .fault (.notEnabled "WIDX_WRITE") else .next (s.hostWrite (0x1008 + 32 * q) v)

/-- EXPLIM_WRITE (26 R366). -/
def execExplimWrite (v : DWord) (s : State) : Res :=
  if s.boot = 0 then .fault (.notEnabled "EXPLIM_WRITE") else .next (s.hostWrite 0x0E00 v)

/-- RING_ENABLE_WRITE (26 R368). -/
def execRingEnableWrite (v : DWord) (s : State) : Res :=
  if s.boot = 0 then .fault (.notEnabled "RING_ENABLE_WRITE") else .next (s.hostWrite 0x0980 v)

/-- REGISTER_WRITE (23 R329): a write that no other event makes; a queue's first word with EN = 0 is among them. -/
def execRegisterWrite (off : Nat) (v : DWord) (s : State) : Res :=
  let other := ownEvent off && !(decide (0x1000 ≤ off) && off % 32 == 0 && !v.getLsbD 59)
  if s.windowOpen off = false ∨ other = true then .fault (.notEnabled "REGISTER_WRITE") else .next (s.hostWrite off v)

/-! The phase ring (26 R368, R369). -/

/-- RING_ARRIVE (26 R368): the leader receives a member's ARRIVE, whether or not its own EN has taken effect. -/
def execRingArrive (node : BitVec 8) (s : State) : Res :=
  if s.boot = 6 ∧ s.ring.lead = true ∧ s.ring.rmem.getLsbD node.toNat = true then .next (s.ringTake node)
  else .fault (.notEnabled "RING_ARRIVE")

/-- RING_RELEASE (26 R368): the boundary that the device has announced may run. -/
def execRingRelease (s : State) : Res :=
  if s.boot = 6 ∧ s.ring.en = true ∧ s.ring.sent = true ∧ s.ring.released = false then
    .next { s with ring := { s.ring with released := true } }
  else .fault (.notEnabled "RING_RELEASE")

/-- A dropped device runs its boundaries alone (26 R369), and a write of EN that waits is gone. -/
def Ring.dropped (r : Ring) : Ring := { r with drop := true, en := false, sent := false, released := false, pending := none }

/-- RING_TIMEOUT (26 R369). -/
def execRingTimeout (s : State) : Res :=
  let r := s.ring
  let reached := match r.since with | some c => decide (r.rto ≤ (s.clock - c).toNat) | none => false
  if s.boot ≠ 6 ∨ r.lead = false ∨ reached = false then .fault (.notEnabled "RING_TIMEOUT")
  else
    let late := r.rmem &&& ~~~r.arrived
    let out := (List.range 256).filter fun n => late.getLsbD n && n != s.node.toNat
    let s1 := State.ringCheck { s with
      outbox := s.outbox ++ out.map fun n => Message.ringDrop (BitVec.ofNat 8 n)
      ring := { r with rmem := r.rmem &&& r.arrived } }
    .next (if late.getLsbD s.node.toNat then { s1 with ring := s1.ring.dropped } else s1)

/-- RING_DROP (26 R369), whatever EN is: its contexts are not detached. -/
def execRingDrop (s : State) : Res :=
  if s.boot = 6 then .next { s with ring := s.ring.dropped } else .fault (.notEnabled "RING_DROP")

/-! Fabric accesses received (26 R366). -/

/-- The offset of the command window in a node's exported space. -/
def windowBase : Nat := 0xFFFFFF0000

/-- FABRIC_ACCESS (26 R366, R367): the command window takes aligned 8-byte accesses, exported GDDR 7 any that lies below
EXPLIM; every other access is refused. -/
def execFabricAccess (a : FabricAccess) (s : State) : Res :=
  let n := if a.write then a.data.length else a.len
  let reply := fun (s : State) (ok : Bool) (data : List Byte) =>
    (.next { s with outbox := s.outbox ++ [Message.fabricReply a.src ok data] } : Res)
  if s.boot = 0 then .fault (.notEnabled "FABRIC_ACCESS")
  else if windowBase ≤ a.off then
    let off := a.off - windowBase
    if n ≠ 8 ∨ s.windowOpen off = false then reply s false []
    else if a.write then reply (s.hostWrite off (dwordAt a.data 0)) true []
    else reply s true (toLE 8 (s.register off).toNat)
  else if a.off + n ≤ s.explim then
    if a.write then reply (s.physWrite ⟨false, a.off⟩ a.data) true []
    else reply s true (s.gddr.readBytes a.off n)
  else reply s false []

/-! Power-on (27 R371 to R375). -/

/-- The digest of a public key; its coordinates are taken as 66 big-endian bytes each (log 99: PRESUMED). -/
def keyDigestOf (i : BootImage) : List Byte :=
  let be := fun (n : Nat) => (toLE 66 n).reverse
  Sha512.digest (be i.keyX ++ be i.keyY)

/-- An image may be used (27 R372): its header names the device's version, its key is the one that the boot ROM knows, and
its signature is good. -/
def imageUsable (b : BootInputs) (i : BootImage) : Bool :=
  i.version == isaVersion && keyDigestOf i == b.keyDigest
    && P521.verify (Sha512.digest i.bytes) i.keyX i.keyY i.sigR i.sigS

/-- The measurements of the three images (27 R377). -/
def measuredOf (b : BootInputs) : List Byte :=
  Sha512.digest b.management.bytes ++ Sha512.digest b.core.bytes ++ Sha512.digest b.config.bytes

/-- The cores that the configuration image lists as off or whose test, or whose slice's, has failed (27 R373, R374). -/
def coresOffOf (b : BootInputs) : DWord := b.cfgCoresOff ||| b.testCoresOff ||| b.testSlicesOff
/-- The channel pairs that stay on. -/
def stationsOnOf (b : BootInputs) : BitVec 16 := ~~~(b.cfgStationsOff ||| b.testStationsOff)

/-- The lanes a port comes to with some number of lanes working: 8, 4, 2, or down (26 R364). -/
def portLanes (n : Nat) : Nat := if 8 ≤ n then 8 else if 4 ≤ n then 4 else if 2 ≤ n then 2 else 0

/-- The ports' widths under their lane limits (26 R364, 27 R373). -/
def limitPorts (width limit : DWord) : DWord :=
  (List.range 16).foldl (fun (m : DWord) p =>
    m ||| (BitVec.ofNat 64 (portLanes (min (bits width (4 * p) 4) (bits limit (4 * p) 4))) <<< (4 * p))) 0

/-- The self-test log (27 R374): one record for each test, with its unit and result, in test order. -/
def selfTestLog (b : BootInputs) : List Byte :=
  ((List.range 64).flatMap (fun k => Config.testRecord 0 k (!b.testCoresOff.getLsbD k))
    ++ (List.range 64).flatMap (fun k => Config.testRecord 1 k (!b.testSlicesOff.getLsbD k))
    ++ (List.range 16).flatMap (fun n => Config.testRecord 2 n (!b.testStationsOff.getLsbD n))
    ++ (List.range 128).flatMap (fun l => Config.testRecord 3 l (!b.linksFailed.getLsbD l))
    ++ (List.range 16).flatMap (fun p => Config.testRecord 4 p (bits b.portWidth (4 * p) 4 != 0))).take 0x4000

/-- The first step of Table 27.1 that fails (27 R375). -/
def bootFailure (b : BootInputs) : Option Nat :=
  if !b.romOk then some 1
  else if !(imageUsable b b.management && imageUsable b b.core && imageUsable b b.config) then some 2
  else if !b.configOk then some 3
  else if 32 < popBits 64 (coresOffOf b).toNat ∨ (stationsOnOf b) = 0#16 ∨ b.linksFailed ≠ 0#128 then some 4
  else if !b.finishOk then some 5
  else none

/-- Core k as power-on leaves it: off if the configuration or the self-test says so; its firmware is written, and every
CT context's VEC is the firmware's entry (21 R302, R305). -/
def bootCore (b : BootInputs) (k : Nat) : Core :=
  let c := Core.reset k
  { c with
    on := !(coresOffOf b).getLsbD k
    firmware := Memory.writeBytes [] 0 (b.firmware.take 65536)
    cctx := c.cctx.map fun (cc : CoreCtx) => { cc with vec := BitVec.ofNat 32 b.vec } }

/-- POWER_ON_RESET (27 R371, R375): from any state the device is as after reset, brought up; memory keeps what it holds
(log 3). Step 1 derives the identity key, whose public half the certificate in module flash endorses (R377). A failure leaves what the steps before it have done: the images measured, the configuration and the self-test
applied, the log written. -/
def execPowerOnReset (b : BootInputs) (s : State) : Res :=
  let z := { State.reset with
    cur := s.cur, agenda := s.agenda, ticks := s.ticks, nextId := s.nextId, gddr := s.gddr, remote := s.remote,
    gddrStart := s.gddr, remoteStart := s.remote, outbox := s.outbox, certificate := b.certificate }
  let keyed := { z with publicKey := P521.publicKey Config.identityKey }
  let tested := { keyed with
    measured := measuredOf b, testLog := selfTestLog b, stations := stationsOnOf b, lsize := b.lsizeGiB
    cores := (List.range 64).map fun k => { Core.reset k with on := !(coresOffOf b).getLsbD k } }
  match bootFailure b with
  | some n => .next { (if n = 1 then z else if n < 4 then { keyed with measured := measuredOf b } else tested) with
      boot := n, bootFail := n }
  | none => .next { tested with
      boot := 6, cores := (List.range 64).map (bootCore b), portWidth := limitPorts b.portWidth b.cfgPortLimit }

/-- The signature of a report: of its SHA-512 digest, with the identity key, as r and s of 66 big-endian bytes each (27 R377;
the form is the model's, log 99: PRESUMED). -/
def State.reportSignature (s : State) (report : List Byte) : List Byte :=
  let g := P521.sign (Sha512.digest report) Config.identityKey (Config.signNonce s.ticks)
  (toLE 66 g.1).reverse ++ (toLE 66 g.2).reverse

/-- ATTESTATION_REQUEST (27 R377): the report of the measurements, the nonce and the self-test log, with its signature under
the identity key that step 1 of power-on derives. -/
def execAttestationRequest (nonce : List Byte) (s : State) : Res :=
  if s.boot = 0 ∨ s.bootFail = 1 ∨ nonce.length ≠ 64 then .fault (.notEnabled "ATTESTATION_REQUEST")
  else .next { s with outbox := s.outbox ++
    [.attestation s.measured nonce s.testLog (s.reportSignature (s.measured ++ nonce ++ s.testLog))] }

/-- SUPPLY_DROOP_EVENT (22 R323): droops of the last 2^20 clocks are kept. -/
def execSupplyDroopEvent (core : Nat) (s : State) : Res :=
  if s.boot = 6 ∧ core < 64 then
    .next (s.modCore core fun c =>
      { c with droops := (c.droops.filter fun d => decide ((s.clock - d).toNat < 2 ^ 20)) ++ [s.clock] })
  else .fault (.notEnabled "SUPPLY_DROOP_EVENT")

end Sys2Proof.Machine
end

