-- ==== Sys2Proof/Machine/Dispatch.lean ====
section
/-! DEFINITION. One arm per row of the opcode table: what each instruction and each event does. -/
namespace Sys2Proof.Machine

/-- What an instruction, issued by the thread that `State.cur` names, or an event comes to. -/
def exec (i : Instr) (s : State) : Host.Outcome State Fault Refusal :=
  match i with
  | .nop o => Sys2Proof.Machine.execNop o s
  | .shortPad => Sys2Proof.Machine.execShortPad s
  | .bra o => Sys2Proof.Machine.execBra o s
  | .join o => Sys2Proof.Machine.execJoin o s
  | .brk o => Sys2Proof.Machine.execBrk o s
  | .exit o => Sys2Proof.Machine.execExit o s
  | .call o => Sys2Proof.Machine.execCall o s
  | .callo o => Sys2Proof.Machine.execCallo o s
  | .ret o => Sys2Proof.Machine.execRet o s
  | .loop o => Sys2Proof.Machine.execLoop o s
  | .wait o => Sys2Proof.Machine.execWait o s
  | .trap o => Sys2Proof.Machine.execTrap o s
  | .brkpt o => Sys2Proof.Machine.execBrkpt o s
  | .yield o => Sys2Proof.Machine.execYield o s
  | .dqPush o => Sys2Proof.Machine.execDqPush o s
  | .dqPop o => Sys2Proof.Machine.execDqPop o s
  | .sprd o => Sys2Proof.Machine.execSprd o s
  | .spwr o => Sys2Proof.Machine.execSpwr o s
  | .fmtset o => Sys2Proof.Machine.execFmtset o s
  | .sadd o => Sys2Proof.Machine.execSadd o s
  | .ssub o => Sys2Proof.Machine.execSsub o s
  | .smul o => Sys2Proof.Machine.execSmul o s
  | .sdiv o => Sys2Proof.Machine.execSdiv o s
  | .sand o => Sys2Proof.Machine.execSand o s
  | .sor o => Sys2Proof.Machine.execSor o s
  | .sxor o => Sys2Proof.Machine.execSxor o s
  | .sshl o => Sys2Proof.Machine.execSshl o s
  | .sshr o => Sys2Proof.Machine.execSshr o s
  | .smin o => Sys2Proof.Machine.execSmin o s
  | .smax o => Sys2Proof.Machine.execSmax o s
  | .scmp o => Sys2Proof.Machine.execScmp o s
  | .ssel o => Sys2Proof.Machine.execSsel o s
  | .sbfx o => Sys2Proof.Machine.execSbfx o s
  | .sbfi o => Sys2Proof.Machine.execSbfi o s
  | .sbit o => Sys2Proof.Machine.execSbit o s
  | .smov o => Sys2Proof.Machine.execSmov o s
  | .slea o => Sys2Proof.Machine.execSlea o s
  | .sld o => Sys2Proof.Machine.execSld o s
  | .sst o => Sys2Proof.Machine.execSst o s
  | .vtos o => Sys2Proof.Machine.execVtos o s
  | .mtos o => Sys2Proof.Machine.execMtos o s
  | .stom o => Sys2Proof.Machine.execStom o s
  | .sclk o => Sys2Proof.Machine.execSclk o s
  | .sid o => Sys2Proof.Machine.execSid o s
  | .iadd o => Sys2Proof.Machine.execIadd o s
  | .isub o => Sys2Proof.Machine.execIsub o s
  | .imul o => Sys2Proof.Machine.execImul o s
  | .imad o => Sys2Proof.Machine.execImad o s
  | .iand o => Sys2Proof.Machine.execIand o s
  | .ior o => Sys2Proof.Machine.execIor o s
  | .ixor o => Sys2Proof.Machine.execIxor o s
  | .ishl o => Sys2Proof.Machine.execIshl o s
  | .ishr o => Sys2Proof.Machine.execIshr o s
  | .imin o => Sys2Proof.Machine.execImin o s
  | .imax o => Sys2Proof.Machine.execImax o s
  | .icmp o => Sys2Proof.Machine.execIcmp o s
  | .isel o => Sys2Proof.Machine.execIsel o s
  | .ibfx o => Sys2Proof.Machine.execIbfx o s
  | .ibfi o => Sys2Proof.Machine.execIbfi o s
  | .ibit o => Sys2Proof.Machine.execIbit o s
  | .fadd o => Sys2Proof.Machine.execFadd o s
  | .fsub o => Sys2Proof.Machine.execFsub o s
  | .fmul o => Sys2Proof.Machine.execFmul o s
  | .fma o => Sys2Proof.Machine.execFma o s
  | .fmin o => Sys2Proof.Machine.execFmin o s
  | .fmax o => Sys2Proof.Machine.execFmax o s
  | .fcmp o => Sys2Proof.Machine.execFcmp o s
  | .fdiv o => Sys2Proof.Machine.execFdiv o s
  | .frcp o => Sys2Proof.Machine.execFrcp o s
  | .frsq o => Sys2Proof.Machine.execFrsq o s
  | .fsqrt o => Sys2Proof.Machine.execFsqrt o s
  | .fex2 o => Sys2Proof.Machine.execFex2 o s
  | .flg2 o => Sys2Proof.Machine.execFlg2 o s
  | .fsin o => Sys2Proof.Machine.execFsin o s
  | .frnd o => Sys2Proof.Machine.execFrnd o s
  | .fdp3 o => Sys2Proof.Machine.execFdp3 o s
  | .cvt o => Sys2Proof.Machine.execCvt o s
  | .qpack o => Sys2Proof.Machine.execQpack o s
  | .qunpk o => Sys2Proof.Machine.execQunpk o s
  | .fscl o => Sys2Proof.Machine.execFscl o s
  | .fcls o => Sys2Proof.Machine.execFcls o s
  | .ffrx o => Sys2Proof.Machine.execFfrx o s
  | .shfl o => Sys2Proof.Machine.execShfl o s
  | .lrot o => Sys2Proof.Machine.execLrot o s
  | .lbc o => Sys2Proof.Machine.execLbc o s
  | .qswp o => Sys2Proof.Machine.execQswp o s
  | .qddx o => Sys2Proof.Machine.execQddx o s
  | .qddy o => Sys2Proof.Machine.execQddy o s
  | .vote o => Sys2Proof.Machine.execVote o s
  | .mlog o => Sys2Proof.Machine.execMlog o s
  | .mcnt o => Sys2Proof.Machine.execMcnt o s
  | .mfst o => Sys2Proof.Machine.execMfst o s
  | .red o => Sys2Proof.Machine.execRed o s
  | .scan o => Sys2Proof.Machine.execScan o s
  | .mget o => Sys2Proof.Machine.execMget o s
  | .mset o => Sys2Proof.Machine.execMset o s
  | .lid o => Sys2Proof.Machine.execLid o s
  | .lpak o => Sys2Proof.Machine.execLpak o s
  | .ld o => Sys2Proof.Machine.execLd o s
  | .st o => Sys2Proof.Machine.execSt o s
  | .ldw o => Sys2Proof.Machine.execLdw o s
  | .stw o => Sys2Proof.Machine.execStw o s
  | .ldb o => Sys2Proof.Machine.execLdb o s
  | .stb o => Sys2Proof.Machine.execStb o s
  | .ldc o => Sys2Proof.Machine.execLdc o s
  | .lda o => Sys2Proof.Machine.execLda o s
  | .stl o => Sys2Proof.Machine.execStl o s
  | .fence o => Sys2Proof.Machine.execFence o s
  | .atom o => Sys2Proof.Machine.execAtom o s
  | .acas o => Sys2Proof.Machine.execAcas o s
  | .afadd o => Sys2Proof.Machine.execAfadd o s
  | .tclr o => Sys2Proof.Machine.execTclr o s
  | .swadd o => Sys2Proof.Machine.execSwadd o s
  | .swmul o => Sys2Proof.Machine.execSwmul o s
  | .swfma o => Sys2Proof.Machine.execSwfma o s
  | .swmax o => Sys2Proof.Machine.execSwmax o s
  | .swmin o => Sys2Proof.Machine.execSwmin o s
  | .swcvt o => Sys2Proof.Machine.execSwcvt o s
  | .swmov o => Sys2Proof.Machine.execSwmov o s
  | .swfill o => Sys2Proof.Machine.execSwfill o s
  | .swred o => Sys2Proof.Machine.execSwred o s
  | .swsel o => Sys2Proof.Machine.execSwsel o s
  | .cpy o => Sys2Proof.Machine.execCpy o s
  | .cpyx o => Sys2Proof.Machine.execCpyx o s
  | .xst o => Sys2Proof.Machine.execXst o s
  | .wbind o => Sys2Proof.Machine.execWbind o s
  | .wfree o => Sys2Proof.Machine.execWfree o s
  | .bini o => Sys2Proof.Machine.execBini o s
  | .barv o => Sys2Proof.Machine.execBarv o s
  | .bwt o => Sys2Proof.Machine.execBwt o s
  | .wcnt o => Sys2Proof.Machine.execWcnt o s
  | .parv o => Sys2Proof.Machine.execParv o s
  | .xmov o => Sys2Proof.Machine.execXmov o s
  | .xput o => Sys2Proof.Machine.execXput o s
  | .xmc o => Sys2Proof.Machine.execXmc o s
  | .xgm o => Sys2Proof.Machine.execXgm o s
  | .xadd o => Sys2Proof.Machine.execXadd o s
  | .xend o => Sys2Proof.Machine.execXend o s
  | .pcnt o => Sys2Proof.Machine.execPcnt o s
  | .xsync o => Sys2Proof.Machine.execXsync o s
  | .macq o => Sys2Proof.Machine.execMacq o s
  | .mrel o => Sys2Proof.Machine.execMrel o s
  | .mgng o => Sys2Proof.Machine.execMgng o s
  | .mlds o => Sys2Proof.Machine.execMlds o s
  | .mflp o => Sys2Proof.Machine.execMflp o s
  | .mstr o => Sys2Proof.Machine.execMstr o s
  | .mout o => Sys2Proof.Machine.execMout o s
  | .mclr o => Sys2Proof.Machine.execMclr o s
  | .mcfg o => Sys2Proof.Machine.execMcfg o s
  | .mprm o => Sys2Proof.Machine.execMprm o s
  | .gapp o => Sys2Proof.Machine.execGapp o s
  | .grd o => Sys2Proof.Machine.execGrd o s
  | .gcon o => Sys2Proof.Machine.execGcon o s
  | .gwgt o => Sys2Proof.Machine.execGwgt o s
  | .gmrg o => Sys2Proof.Machine.execGmrg o s
  | .grwt o => Sys2Proof.Machine.execGrwt o s
  | .gret o => Sys2Proof.Machine.execGret o s
  | .gkep o => Sys2Proof.Machine.execGkep o s
  | .gfrmRho o => Sys2Proof.Machine.execGfrmRho o s
  | .gfrmOpen o => Sys2Proof.Machine.execGfrmOpen o s
  | .gfrmRel o => Sys2Proof.Machine.execGfrmRel o s
  | .gsta o => Sys2Proof.Machine.execGsta o s
  | .trc o => Sys2Proof.Machine.execTrc o s
  | .tnx o => Sys2Proof.Machine.execTnx o s
  | .rpak o => Sys2Proof.Machine.execRpak o s
  | .rast o => Sys2Proof.Machine.execRast o s
  | .srat o => Sys2Proof.Machine.execSrat o s
  | .twb o => Sys2Proof.Machine.execTwb o s
  | .scnb o => Sys2Proof.Machine.execScnb o s
  | .scnp o => Sys2Proof.Machine.execScnp o s
  | .ovld o => Sys2Proof.Machine.execOvld o s
  | .ovq o => Sys2Proof.Machine.execOvq o s
  | .ovev o => Sys2Proof.Machine.execOvev o s
  | .rgiv o => Sys2Proof.Machine.execRgiv o s
  | .rclm o => Sys2Proof.Machine.execRclm o s
  | .rpol o => Sys2Proof.Machine.execRpol o s
  | .lnch o => Sys2Proof.Machine.execLnch o s
  | .tret o => Sys2Proof.Machine.execTret o s
  | .csrd o => Sys2Proof.Machine.execCsrd o s
  | .cswr o => Sys2Proof.Machine.execCswr o s
  | .tinv o => Sys2Proof.Machine.execTinv o s
  | .ctsv o => Sys2Proof.Machine.execCtsv o s
  | .ctld o => Sys2Proof.Machine.execCtld o s
  | .pdetDet o => Sys2Proof.Machine.execPdetDet o s
  | .pdetAtt o => Sys2Proof.Machine.execPdetAtt o s
  | .halt o => Sys2Proof.Machine.execHalt o s
  | .vtosResult core id => Sys2Proof.Machine.execVtosResult core id s
  | .loadDataReturn core id => Sys2Proof.Machine.execLoadDataReturn core id s
  | .atomicResultReturn core id => Sys2Proof.Machine.execAtomicResultReturn core id s
  | .sweepExecute core id => Sys2Proof.Machine.execSweepExecute core id s
  | .copyExecute core id => Sys2Proof.Machine.execCopyExecute core id s
  | .depositArrival id => Sys2Proof.Machine.execDepositArrival id s
  | .depositAck id => Sys2Proof.Machine.execDepositAck id s
  | .barrierArrival id => Sys2Proof.Machine.execBarrierArrival id s
  | .heldArrivalRelease id => Sys2Proof.Machine.execHeldArrivalRelease id s
  | .groupPark core g => Sys2Proof.Machine.execGroupPark core g s
  | .ctArrive core ctx => Sys2Proof.Machine.execCtArrive core ctx s
  | .exchangeTransferExecute core id => Sys2Proof.Machine.execExchangeTransferExecute core id s
  | .xsyncStageEnd ctx => Sys2Proof.Machine.execXsyncStageEnd ctx s
  | .macqGrant core => Sys2Proof.Machine.execMacqGrant core s
  | .engineRelease core => Sys2Proof.Machine.execEngineRelease core s
  | .preemption core => Sys2Proof.Machine.execPreemption core s
  | .gangRendezvous core wg => Sys2Proof.Machine.execGangRendezvous core wg s
  | .jointInstructionRelease core wg => Sys2Proof.Machine.execJointInstructionRelease core wg s
  | .planeLoad core => Sys2Proof.Machine.execPlaneLoad core s
  | .planeFlip core => Sys2Proof.Machine.execPlaneFlip core s
  | .accumulationStep core => Sys2Proof.Machine.execAccumulationStep core s
  | .accumulatorOutput core => Sys2Proof.Machine.execAccumulatorOutput core s
  | .bankClear core => Sys2Proof.Machine.execBankClear core s
  | .graphResult core id => Sys2Proof.Machine.execGraphResult core id s
  | .traceResult core id => Sys2Proof.Machine.execTraceResult core id s
  | .repackStep core wg => Sys2Proof.Machine.execRepackStep core wg s
  | .rastComplete core id => Sys2Proof.Machine.execRastComplete core id s
  | .twbComplete core id => Sys2Proof.Machine.execTwbComplete core id s
  | .sceneBuildComplete core id => Sys2Proof.Machine.execSceneBuildComplete core id s
  | .fillComplete core id => Sys2Proof.Machine.execFillComplete core id s
  | .fillQueueServe core => Sys2Proof.Machine.execFillQueueServe core s
  | .rclmClaimServed core => Sys2Proof.Machine.execRclmClaimServed core s
  | .rclmClaimFail core => Sys2Proof.Machine.execRclmClaimFail core s
  | .trapDelivery core ctx => Sys2Proof.Machine.execTrapDelivery core ctx s
  | .splitUrgent core g entry => Sys2Proof.Machine.execSplitUrgent core g entry s
  | .cToXBoundary => Sys2Proof.Machine.execCToXBoundary s
  | .xToCBoundary => Sys2Proof.Machine.execXToCBoundary s
  | .contextSave ctx => Sys2Proof.Machine.execContextSave ctx s
  | .contextRestore ctx => Sys2Proof.Machine.execContextRestore ctx s
  | .contextReset ctx => Sys2Proof.Machine.execContextReset ctx s
  | .deadlineMissed ctx => Sys2Proof.Machine.execDeadlineMissed ctx s
  | .stragglerEvent => Sys2Proof.Machine.execStragglerEvent s
  | .stragglerDetach => Sys2Proof.Machine.execStragglerDetach s
  | .queueEnable q v => Sys2Proof.Machine.execQueueEnable q v s
  | .widxWrite q v => Sys2Proof.Machine.execWidxWrite q v s
  | .explimWrite v => Sys2Proof.Machine.execExplimWrite v s
  | .ringEnableWrite v => Sys2Proof.Machine.execRingEnableWrite v s
  | .registerWrite off v => Sys2Proof.Machine.execRegisterWrite off v s
  | .ringArrive node => Sys2Proof.Machine.execRingArrive node s
  | .ringRelease => Sys2Proof.Machine.execRingRelease s
  | .ringTimeout => Sys2Proof.Machine.execRingTimeout s
  | .ringDrop => Sys2Proof.Machine.execRingDrop s
  | .fabricAccess a => Sys2Proof.Machine.execFabricAccess a s
  | .powerOnReset b => Sys2Proof.Machine.execPowerOnReset b s
  | .attestationRequest nonce => Sys2Proof.Machine.execAttestationRequest nonce s
  | .supplyDroopEvent core => Sys2Proof.Machine.execSupplyDroopEvent core s

end Sys2Proof.Machine
end

