-- ==== Sys2Proof/Machine/Fetch.lean ====
section
/-! DEFINITION. Fetching and running the next instruction of a thread (02 R25 to R27, R46; 17 R277, R280; 21 R302, R308). -/
namespace Sys2Proof.Machine

/-- What fetching comes to; bad is an error beyond correction at an offset (24 R349). -/
inductive Fetched where
  | words (s : State) (ws : List Word)
  | bad (s : State) (off : Nat)
  | wait (s : State)
  | trap (s : State) (cause : Nat)
  deriving DecidableEq, Repr

/-- The words of the firmware store from a byte offset on, at most four (21 R302). An instruction that does not lie wholly
within the 64 KiB of the store has too few words, which is the illegal encoding of step 1 (log 94: DEDUCED). -/
def firmwareWords (m : Memory) (off : Nat) : List Word :=
  (List.range 4).filterMap fun i =>
    if off + 4 * i + 4 ≤ 65536 then some (BitVec.ofNat 32 (m.readLE (off + 4 * i) 4)) else none

/-- The words of an image's code region from a byte offset on, at most four (17 R276, R277). -/
def Image.codeWords (i : Image) (off : Nat) : List Word := ((i.words.take (i.codeLen / 4)).drop (off / 4)).take 4

/-- Bytes of the instruction that begins with given words at an offset (02 R25, R27). -/
def wordsLen (off : Nat) (ws : List Word) : Nat :=
  match ws with
  | [] => 4
  | w :: _ => if off % 32 = 0x1C ∧ w = 0#32 then 4 else match bits w 0 2 with | 0 => 8 | 1 => 12 | 2 => 16 | _ => 4

/-- The lowest byte offset of an instruction at which a store's 8-byte words are in error (24 R348, R349). -/
def badFetch (bad : List Nat) (off len : Nat) : Option Nat :=
  (least (bad.filter fun w => decide (8 * w < off + len ∧ off < 8 * w + 8))).map fun w => max off (8 * w)

/-- The words fetched at an offset of a store that has words in error (17 R277, 24 R349). -/
def fetchedWords (s : State) (bad : List Nat) (off : Nat) (ws : List Word) : Fetched :=
  match badFetch bad off (wordsLen off ws) with | some e => .bad s e | none => .words s ws

/-- Fetches at the PC of a thread: a group or a user CT resolves its token first (17 R280). -/
def State.fetch (s : State) (x : Iss) : Fetched :=
  let off := x.pc.off.toNat
  if x.sup then
    match s.core? x.core with
    | some c => fetchedWords s c.fwErr off (firmwareWords c.firmware off)
    | none => .words s []
  else match s.resolve x x.pc.token true with
    | .trap s' c => .trap s' c
    | .wait s' => .wait s'
    | .code s' i => fetchedWords s' i.bad off (i.codeWords off)

/-- The first word has an OPC of row 0xF. -/
def privileged (ws : List Word) : Bool := match ws with | w :: _ => opcF w / 16 == 15 | [] => false

/-- Steps 1 to 3 of Table 2.16 for words that are no instruction (02 R46). -/
def decodeCause (x : Iss) (ws : List Word) (e : DecodeErr) : Nat :=
  if !e.stepOne && privileged ws && !x.sup then 0x17 else 0x01

/-- A register of a supervisor state that an instruction of it with a given first word reads, beside its s registers: its guard
and its mask source; of the instructions that a control thread can execute none reads FMT (24 R348, R349). -/
def supReads (w : Word) (i : Instr) (r : SupReg) : Bool :=
  r == .mask (guardF w).reg.toNat || match i with
  | .ssel o => r == .mask (bits o.c.reg 0 4)
  | _ => false
/-- A register of a supervisor state that an instruction of it writes, beside its s registers. -/
def supWrites (i : Instr) (r : SupReg) : Bool :=
  match i with
  | .scmp o => r == .mask (bits o.d 0 4)
  | .fmtset _ => r == .fmt
  | _ => false
/-- Every instruction reads its PC, and the loops that may end at it (04 R80, log 138: DEDUCED). -/
def SupReg.always (r : SupReg) : Bool := match r with | .pc => true | .loop _ => true | _ => false
/-- A register of a kind of an issuer's supervisor state is in error (24 R348). -/
def State.supBad (s : State) (x : Iss) (p : SupReg → Bool) : Bool :=
  x.sup && match s.cctx? x.core x.ctx with | some c => c.supErr.any p | none => false
/-- What an instruction of firmware that has gone on writes is in error no more (24 R350). -/
def healSup (x : Iss) (w : Word) (i : Instr) (r : Res) : Res :=
  match r with
  | .next u =>
    if x.sup && guardSel (guardF w) x.uni x.exec != 0 then
      .next (u.modCctx x.core x.ctx fun c =>
        if c.sup.flow = x.flow then c else { c with supErr := c.supErr.filter fun r => !supWrites i r })
    else r
  | o => o

/-- Runs the next instruction of a thread that can issue. Firmware that reads a register of its state in error is halted (24
R349). -/
def State.runIss (s : State) (x : Iss) : Res :=
  if s.supBad x SupReg.always then eccR x s 5 0
  else match s.fetch x with
  | .trap s' c => trapR x s' c
  | .wait s' => .next s'
  | .bad s' e => eccR x s' 4 e
  | .words s' ws =>
    match decode (x.pc.off.toNat % 32) ws with
    | .ok i => if s'.supBad x (supReads (ws.headD 0) i) then eccR x s' 5 0 else healSup x (ws.headD 0) i (exec i s')
    | .error e => trapR x s' (decodeCause x ws e)

/-- The start of a user CT: its token is resolved as in 17 R280, and it goes to entry 0; an image without entries gives
the trap of a call into it (04 R84). -/
def State.enter (s : State) (x : Iss) (t : BitVec 12) : Res :=
  let g : Going := { dest := .entry 0, sel := x.sel }
  match s.resolve x t true (some g) with
  | .trap s' c => trapR x (s'.setWait x .none) c
  | .wait s' => .next s'
  | .code s' i => .next ((s'.setWait x .none).land x t g i)

/-- The claim of a split has ended while it could not go on (03 R61). -/
def Iss.claimed (x : Iss) : Bool :=
  match x.grp.bind fun g => g.split? x.entry with | some sp => sp.wait == .claimed | none => false

/-- Looks at a thread: it runs its next instruction, goes on behind an rclm whose claim has ended, or starts, or cannot do
anything. -/
def State.run (s : State) (t : Thread) : Res :=
  let s1 := { s with cur := t }
  match s1.iss? t with
  | some x => if x.claimed then .next (s1.advance x 8) else s1.runIss x
  | none => match s1.entering t with
    | some (x, tok) => s1.enter x tok
    | none => .next s1

end Sys2Proof.Machine
end

