-- ==== Sys2Proof/Machine/Order.lean ====
section
/-! DEFINITION. The order of the accesses to a core's slice (07 R156 to R163; 18 R291 to R297; log 5). A meaning performs its
access when it issues. The agenda may say instead that an access issues and is performed later, lane by lane or byte by byte.
While one is still to be performed, `Core.nodes` and `Core.trail` keep what has issued since and when each byte was performed;
this file says what happens before what among them, when an order of performing is consistent, and how accesses are
performed. -/
namespace Sys2Proof.Machine

/-! What an instruction accesses. -/

/-- The thread with the lanes that a guard selects. -/
def Iss.guarded (x : Iss) (g : Guard) : Iss := { x with sel := guardSel g x.uni x.exec }

/-- The tainted ones of registers that an instruction reads (03 R56). -/
def Iss.taintsOf (x : Iss) (l : List Opnd) : List Nat := (l.filter fun r => x.taint r.reg).map fun r => r.reg.toNat

/-- The access of an M64 instruction of row 0x7 to n bytes a lane. -/
def Iss.laneAccess (x : Iss) (o : M64) (kind : AccessKind) (row : Bool) (n : Nat) : Access :=
  { kind := kind, taints := x.taintsOf (addrReads o .any)
    elems := (if kind = .load then x.sel else x.active).toList.map fun i =>
      let off := aliasOff (laneAddr x o row n i)
      ⟨i, off, n, if kind = .atomic then some off else none⟩ }

/-- The access of sld or sst to n bytes, by the lanes that make it (03 R66, R67). -/
def Iss.oneAccess (x : Iss) (o : M64) (kind : AccessKind) (lanes : LaneSet) (n : Nat) : Access :=
  { kind := kind, taints := x.taintsOf (addrReads o .s)
    elems := if lanes = 0 then [] else [⟨0, aliasOff (x.addr o 0), n, none⟩] }

/-- The access of an atomic with its order and scope (07 R163). -/
def Iss.atomAccess (x : Iss) (o : M64) (n : Nat) : Access :=
  { x.laneAccess o .atomic false n with
    acquire := o.fn.getLsbD 5, release := o.fn.getLsbD 6, core := o.fn.getLsbD 7 }

/-- The access of ldb or stb; what an ldb fetches as one is a block, or the elements of a bank word (07 R152). -/
def State.recordAccess (s : State) (x : Iss) (o : Op) (kind : AccessKind) (lanes : LaneSet) : Access :=
  let r := s.recordOf x (recNum o)
  { kind := kind
    elems := lanes.toList.filterMap fun i => (recCoords r (x.coords o i)).map fun c =>
      let off := aliasOff (recAddr r (s.allocBase x) c)
      ⟨i, off, recSize r, if kind = .load then some (if recCmp r = 0 then off / 16 else off) else none⟩ }

/-- The thread with its selected lanes, and the slice access that an instruction makes, if it makes one. -/
def State.accessOf (s : State) (x : Iss) (i : Instr) : Option (Iss × Access) :=
  let m := fun (o : M64) (f : Iss → Access) => some (x.guarded o.g, f (x.guarded o.g))
  match i with
  | .sld o => m o fun y => y.oneAccess o .load y.sel (sldBytes (bits o.fn 0 3))
  | .sst o => m o fun y => y.oneAccess o .store y.active (2 ^ bits o.fn 0 2)
  | .ld o => m o fun y => y.laneAccess o .load false (ldBytes (bits o.fn 0 3))
  | .st o => m o fun y => y.laneAccess o .store false (2 ^ bits o.fn 0 3)
  | .ldw o => m o fun y => y.laneAccess o .load true (2 ^ bits o.fn 0 2)
  | .stw o => m o fun y => y.laneAccess o .store true (2 ^ bits o.fn 0 2)
  | .ldc o => m o fun y => { y.laneAccess o .load false (ldBytes (bits o.fn 0 3)) with ldc := true }
  | .lda o => m o fun y =>
      { y.laneAccess o .load false (ldBytes (bits o.fn 0 3)) with acquire := true, core := o.fn.getLsbD 3 }
  | .stl o => m o fun y =>
      { y.laneAccess o .store false (2 ^ bits o.fn 0 3) with release := true, core := o.fn.getLsbD 3 }
  | .atom o => m o fun y => y.atomAccess o (atomBytes o)
  | .acas o => m o fun y => y.atomAccess o (atomBytes o)
  | .afadd o => m o fun y => y.atomAccess o 4
  | .ldb o => some (x.guarded o.g, s.recordAccess (x.guarded o.g) o .load (x.guarded o.g).sel)
  | .stb o => some (x.guarded o.g, s.recordAccess (x.guarded o.g) o .store (x.guarded o.g).active)
  | _ => none

/-- The bytes that a store writes for the element of a lane. -/
def State.storeBytes (s : State) (x : Iss) (i : Instr) (lane n : Nat) : List Byte :=
  match i with
  | .sst o => toLE n (x.s o.d).toNat
  | .st o => toLE n (x.laneBytes o.d n lane)
  | .stw o => toLE n (x.laneBytes o.d n lane)
  | .stl o => toLE n (x.laneBytes o.d n lane)
  | .stb o =>
    let r := s.recordOf x (recNum o)
    toLE n (recStore r (x.lane o.d lane) (if recRnd r = 4 then x.lane o.c.reg lane else 0)).code
  | _ => []

/-- No access. -/
def Access.none : Access := { kind := .load, elems := [] }
/-- The bytes of an element. -/
def LaneElem.bytes (e : LaneElem) : List Nat := (List.range e.size).map fun j => e.off + j
/-- Two elements share a byte. -/
def LaneElem.meets (e f : LaneElem) : Bool := decide (e.off < f.off + f.size ∧ f.off < e.off + e.size)
/-- The bytes of an access, each with its part. -/
def Access.bytes (a : Access) : List (Nat × Nat) := a.elems.zipIdx.flatMap fun p => p.1.bytes.map fun o => (p.2, o)
/-- Two lists have an entry in common. -/
def meets (a b : List Nat) : Bool := a.any fun o => b.contains o

/-! Nodes and their parts. -/

/-- The node is an access of an instruction. -/
def Node.isAccess (n : Node) : Bool := match n.kind with | .access _ _ _ => true | _ => false
/-- The node is writes of an engine, or others that no access makes. -/
def Node.isEngine (n : Node) : Bool := match n.kind with | .engine _ _ => true | _ => false
/-- It writes. -/
def Node.writes (n : Node) : Bool := n.isEngine || (n.isAccess && n.acc.kind != .load)
/-- It reads. -/
def Node.reads (n : Node) : Bool := n.isAccess && n.acc.kind != .store
/-- Bytes of it are still to be performed. -/
def Node.pending (n : Node) : Bool := !n.left.isEmpty
/-- The number of its parts. -/
def Node.parts (n : Node) : Nat := if n.isEngine then 1 else n.acc.elems.length
/-- The bytes of a part. -/
def Node.part (n : Node) (j : Nat) : List Nat :=
  if n.isEngine then n.data.map fun d => d.1.2 else match n.acc.elems[j]? with | some e => e.bytes | none => []
/-- The bytes of a part that are still to be performed. -/
def Node.leftOf (n : Node) (j : Nat) : List Nat := (n.left.filter fun p => p.1 == j).map Prod.snd
/-- The bytes that two parts share. -/
def Node.shared (a : Node) (i : Nat) (b : Node) (j : Nat) : List Nat :=
  match a.acc.elems[i]?, b.acc.elems[j]? with
  | some e, some f => if e.meets f then e.bytes.filter fun o => f.bytes.contains o else []
  | _, _ => (a.part i).filter fun o => (b.part j).contains o
/-- What a byte of a part is performed with as one: see `LaneElem`; the 8 bytes of an engine's write outside the slice, which may
be a table entry (25 R357). -/
def Node.unit (n : Node) (p : Nat × Nat) : Option Nat :=
  if n.isEngine then (if 2 ^ 26 ≤ p.2 then some (p.2 / 8) else none) else (n.acc.elems[p.1]?).bind LaneElem.unit
/-- The bytes still to be performed that are performed with those of a list: their units, and the same bytes of lower lanes of
a store (07 R143, 28 O14). -/
def Node.along (n : Node) (l : List (Nat × Nat)) : List (Nat × Nat) :=
  n.left.filter fun p => l.any fun q => p == q || ((n.unit p).isSome && n.unit p == n.unit q)
    || (n.acc.kind == .store && p.2 == q.2 && decide (p.1 ≤ q.1))
/-- The parts that are performed with a part. -/
def Node.group (n : Node) (j : Nat) : List Nat :=
  ((n.along (n.left.filter fun p => p.1 == j)).map Prod.fst ++ [j]).eraseDups

/-- The scope of a fence: true is .core. -/
def Node.fence? (n : Node) : Option Bool := match n.kind with | .fence c => some c | _ => none
/-- The node is in the program order of a split or a control thread (07 R156): the split has lanes in common with those in
whose order the node stands, or both are of one CT context. -/
def Node.by (n : Node) (x : Iss) (owned : LaneSet) : Bool :=
  n.ctx == x.ctx && n.slot == (if x.isCt then none else some x.slot) && n.owned &&& owned != 0
/-- Two parties are within a scope of one another (07 R157, 18 Table 18.1). -/
def inScope (core : Bool) (a b : Node) : Bool := a.ctx == b.ctx && (core || (a.slot.isSome && a.slot == b.slot))

/-- A node of a core by its number. -/
def Core.node? (c : Core) (id : Nat) : Option Node := c.nodes.find? fun n => n.id == id
/-- When a byte of a part was performed: its place in the trail, or the end of it for one that has not been. -/
def Core.timeOf (c : Core) (id j o : Nat) : Nat := c.trail.findIdx fun p => p.off == o && p.id == id && p.part == j

/-- A dq.pop that has no value yet (04 R92). -/
def Core.unserved (c : Core) (n : Node) : Bool :=
  match n.kind with
  | .pop _ false _ => (match c.cctx? n.ctx with | some cc => !cc.pops.isEmpty | none => false)
  | _ => false

/-! Happens-before (07 R157, 18 Table 18.2). It is a relation between vertices: of a node its begin (0), its end (1), and its
parts (j + 2). -/

/-- A node and which of its vertices. -/
abbrev Vertex := Nat × Nat

/-- The writes of a byte, from a trail with its newest entry first, that a read reads from: the last one, and where that is
an atomic's, those of the chain that it continues (07 R157). -/
def lastWrites (ns : List Node) (o : Nat) : List Done → List Done
  | [] => []
  | p :: r =>
    if p.off ≠ o ∨ p.wrote = false then lastWrites ns o r
    else match ns.find? fun n => n.id == p.id with
      | some w => if w.acc.kind = .atomic then p :: lastWrites ns o r else [p]
      | none => lastWrites ns o r
/-- The writes that a part of a node has read from, directly or through atomics. -/
def Core.sources (c : Core) (b : Node) (j : Nat) : List Done :=
  if !b.reads then []
  else (((b.part j).filter fun o => !(b.leftOf j).contains o).flatMap fun o =>
    lastWrites c.nodes o (c.trail.take (c.timeOf b.id j o)).reverse).filter fun p => p.id != b.id

/-- The fences, of a scope that contains a party, that a list of nodes holds. -/
def Core.fencesIn (c : Core) (l : List Nat) (other : Node) : List Nat :=
  c.nodes.filterMap fun f => f.fence?.bind fun core => if l.contains f.id && inScope core f other then some f.id else none
/-- What a write is a release by, for the party of a reader: itself, or the fences before it (07 R157). -/
def Core.releases (c : Core) (w : Node) (part : Nat) (b : Node) : List Vertex :=
  (if w.acc.release && inScope w.acc.core w b then [(w.id, part + 2)] else []) ++ (c.fencesIn w.before b).map fun f => (f, 1)
/-- What a read of a write is an acquire by: itself, or the fences after it; and where it is an ldc, the accesses that carry
its taint (07 R157, R161). -/
def Core.acquires (c : Core) (w b : Node) (j : Nat) : List Vertex :=
  (if b.acc.acquire && inScope b.acc.core b w then [(b.id, j + 2)] else [])
    ++ (c.nodes.filterMap fun f => f.fence?.bind fun core =>
      if f.before.contains b.id && inScope core f w then some (f.id, 0) else none)
    ++ (if b.acc.ldc then (c.nodes.filter fun t => t.taintedBy.contains b.id).map fun t => (t.id, 0) else [])
/-- The edges of synchronisation that end at a read. -/
def Core.syncs (c : Core) (b : Node) : List (Vertex × Vertex) :=
  (List.range b.parts).flatMap fun j => (c.sources b j).flatMap fun p => match c.node? p.id with
    | none => []
    | some w => (c.releases w p.part b).flatMap fun r => (c.acquires w b j).map fun t => (r, t)

/-- Everything that follows it in program order is ordered after it: a fence (07 R160), a dq.pop (04 R92), a bwt (09 R201), a
wait (08 R183), the return of a bwt on another core. -/
def Node.opens (n : Node) : Bool :=
  match n.kind with | .fence _ => true | .pop _ _ _ => true | .await _ _ => true | .wait _ => true | .relay _ _ _ => true | _ => false
/-- All of a, which precedes b in program order, is ordered before all of b: R156 for accesses, but for those that only share
bytes; accesses and a fence (R160); a control thread's stores and engine writes that it has waited for, and its dq.push (04
R92); accesses and an arrival (09 R200); stores, atomics and acquires, and the issue of an operation, whose reads come after
them (08 R182, 18 R298). -/
def ordered (a b : Node) : Bool :=
  match b.kind with
  | .access _ _ _ => a.opens || (a.isAccess && (a.acc.acquire || b.acc.release))
  | .fence _ => a.opens || a.isAccess
  | .arrive _ _ _ => a.opens || a.isAccess
  | .issued _ => a.opens || (a.isAccess && (a.writes || a.acc.acquire))
  | .push _ => (a.isAccess && a.writes) || (match a.kind with | .wait _ => true | _ => false)
  | _ => false
/-- Object k of a context was made or freed between two nodes. -/
def Core.renewed (c : Core) (k : Nat) (a b : Node) : Bool :=
  c.nodes.any fun n => n.kind == .object k && n.ctx == a.ctx && decide (a.id < n.id ∧ n.id < b.id)
/-- Edges that neither program order nor a read makes: fences of one order, in the order of their issue (18 R293); a push and
the pop that its value has gone to; an arrival, and the bwt that return for the generation that it counts toward; engine
writes, and the wait that reports them with the operations that their party issues later (08 R183); an ldc, and what carries
its taint. Core k is the one that keeps the order. -/
def Core.handover (c : Core) (k : Nat) (a b : Node) : Bool :=
  a.ctx == b.ctx && (match a.kind, b.kind with
    | .fence true, .fence true => decide (a.id < b.id)
    | .fence false, .fence false => a.slot == b.slot && decide (a.id < b.id)
    | .push _, .pop _ _ g => g == some a.id
    | .arrive n _ counted, .await m h => n == m && counted.contains (k, h) && decide (a.id < b.id) && !c.renewed n a b
    | .arrive n _ counted, .relay j m h => n == m && counted.contains (j, h) && decide (a.id < b.id)
    | .engine _ _, .wait l => l.contains a.id
    | .wait _, .issued _ => a.slot == b.slot && decide (a.id < b.id)
    | .access _ _ _, .access _ _ _ => b.taintedBy.contains a.id
    | _, _ => false)
/-- Edges of happens-before between whole nodes. -/
def Core.strong (c : Core) (k : Nat) (a b : Node) : Bool := (b.before.contains a.id && ordered a b) || c.handover k a b

/-- The edges of happens-before but for those that a common byte makes. -/
def Core.edges (c : Core) (k : Nat) : List (Vertex × Vertex) :=
  (c.nodes.flatMap fun b => (c.nodes.filter fun a => c.strong k a b).map fun a => ((a.id, 1), (b.id, 0)))
    ++ c.nodes.flatMap c.syncs
/-- The parts that precede a part in program order and share a byte with it (07 R156). -/
def Core.commonBytes (c : Core) (b : Node) (j : Nat) : List Vertex :=
  if !b.isAccess then []
  else (c.nodes.filter fun a => a.isAccess && b.before.contains a.id).flatMap fun a =>
    (List.range a.parts).filterMap fun i => if (a.shared i b j).isEmpty then none else some (a.id, i + 2)
/-- What comes immediately before a vertex. -/
def Core.predsOf (c : Core) (es : List (Vertex × Vertex)) (v : Vertex) : List Vertex :=
  (es.filterMap fun e => if e.2 == v then some e.1 else none)
    ++ match c.node? v.1, v.2 with
      | none, _ => []
      | some _, 0 => []
      | some b, 1 => (v.1, 0) :: (List.range b.parts).map fun j => (v.1, j + 2)
      | some b, j + 2 => (v.1, 0) :: c.commonBytes b j
/-- What comes before the vertices of a list, step by step, with what has been found so far. -/
def backFrom (preds : Vertex → List Vertex) : Nat → List Vertex → List Vertex → List Vertex
  | 0, seen, _ => seen
  | n + 1, seen, front =>
    let next := ((front.flatMap preds).filter fun v => !seen.contains v).eraseDups
    if next.isEmpty then seen else backFrom preds n (seen ++ next) next
/-- The vertices that happen before those of a list, with them. -/
def Core.past (c : Core) (es : List (Vertex × Vertex)) (l : List Vertex) : List Vertex :=
  backFrom (c.predsOf es) (3 * c.nodes.length + 3) l l
/-- Operations of one class issued by one party (08 R182). -/
def sameQueue (l m : List OpRef) : Bool := l.any fun r => m.any fun q => r.party == q.party && r.cls == q.cls
/-- The earlier engine writes of the same queue as an operation (08 R182). -/
def Core.queuedBefore (c : Core) (refs : List OpRef) (id : Nat) : List Vertex :=
  c.nodes.filterMap fun a => match a.kind with
    | .engine (some _) l => if sameQueue l refs && decide (a.id < id) then some (a.id, 2) else none
    | _ => none
/-- What happens before the issue of an operation. -/
def Core.beforeOp (c : Core) (es : List (Vertex × Vertex)) (op : Nat) : List Vertex :=
  c.past es ((c.nodes.filter fun n => n.kind == .issued op).map fun n => (n.id, 0))
/-- What stands before a part in the order of every byte that they share: what happens before it; for an operation's writes,
what happens before its issue, and the writes of its queue (08 R182). -/
def Core.earlier (c : Core) (es : List (Vertex × Vertex)) (b : Node) (j : Nat) : List Vertex :=
  match b.kind with
  | .engine (some op) refs => c.beforeOp es op ++ c.queuedBefore refs b.id
  | .engine none _ => []
  | _ => c.past es [(b.id, j + 2)]

/-! Consistency. -/

/-- A fence of a scope lies between two nodes. -/
def Core.fenced (c : Core) (core : Bool) (a b : Node) : Bool :=
  c.nodes.any fun f => f.fence? == some core && f.before.contains a.id && b.before.contains f.id
/-- Part j of b follows part i of a as a whole: two reads of one party that R156 orders observe the single order of writes (18
R294), and what is tainted is performed after its ldc (07 R161). A fence.grp orders reads only for the writes of its group (28
R380). Of two loads of one byte the second reads no older value than the first also where only the first is tainted, though an
outcome printed under 07 R162 says otherwise (log 104: DESIGN CHOICE). -/
def Core.follows (c : Core) (a : Node) (i : Nat) (b : Node) (j : Nat) : Bool :=
  b.taintedBy.contains a.id || (a.reads && b.reads && b.before.contains a.id
    && (a.acc.acquire || b.acc.release || !(a.shared i b j).isEmpty || c.fenced true a b))
/-- Nothing of part j of b has been performed before something of part i of a. -/
def Core.wholeAfter (c : Core) (a : Node) (i : Nat) (b : Node) (j : Nat) : Bool :=
  (b.part j).all fun o => (a.part i).all fun p => decide (c.timeOf a.id i p ≤ c.timeOf b.id j o)
/-- Neither of two parts may split the other: they are accesses to one element, or one of them is an atomic (07 R143, 18
R297). -/
def Node.bound (a : Node) (i : Nat) (b : Node) (j : Nat) : Bool :=
  (a.writes || b.writes) && match a.acc.elems[i]?, b.acc.elems[j]? with
    | some e, some f => e.meets f && ((e.off == f.off && e.size == f.size) || a.acc.kind == .atomic || b.acc.kind == .atomic)
    | _, _ => false
/-- A part was performed before another at a byte. -/
def Core.first (c : Core) (a : Node) (i : Nat) (b : Node) (j o : Nat) : Bool :=
  decide (c.timeOf a.id i o < c.timeOf b.id j o)
/-- Two parts of which neither may split the other have been performed one after the other. -/
def Core.unsplit (c : Core) (a : Node) (i : Nat) (b : Node) (j : Nat) : Bool :=
  !a.bound i b j || (a.shared i b j).all (fun o => !c.first b j a i o) || (a.shared i b j).all fun o => !c.first a i b j o
/-- Two reads with a fence.grp between them agree with the order of their group's writes: if the first has seen one at a byte,
the second has not missed one that came no later (18 R293, R294). -/
def Core.groupReads (c : Core) (a : Node) (i : Nat) (b : Node) (j : Nat) : Bool :=
  let ours := fun (o i : Nat) => match c.trail[i]? with
    | some p => p.off == o && p.wrote && (match c.node? p.id with | some w => inScope false w a | none => false)
    | none => false
  !(a.reads && b.reads && c.fenced false a b) || (a.part i).all fun p => (b.part j).all fun o =>
    (List.range (c.timeOf a.id i p)).all fun t => !ours p t ||
      (List.range (t + 1)).all fun u => !(ours o u && decide (c.timeOf b.id j o < u))

/-- Two parts have been performed in an order that happens-before allows at the bytes that they share. -/
def Core.inOrder (c : Core) (es : List (Vertex × Vertex)) (a : Node) (i : Nat) (b : Node) (j : Nat) : Bool :=
  !(if b.isEngine then a.writes else a.writes || b.writes) || (a.shared i b j).all (fun o => !c.first b j a i o)
    || !(c.earlier es b j).contains (a.id, i + 2)
/-- The order in which the accesses of a core have been performed agrees with happens-before byte by byte (07 R158), what
follows another as a whole has been performed after it, and no element is torn. -/
def Core.consistent (c : Core) (k : Nat) : Bool :=
  let es := c.edges k
  let l := (c.nodes.filter fun n => n.isAccess || n.isEngine).flatMap fun n => (List.range n.parts).map fun j => (n, j)
  l.all fun q => l.all fun p => p.1.id == q.1.id ||
    (c.inOrder es p.1 p.2 q.1 q.2 && (!c.follows p.1 p.2 q.1 q.2 || c.wholeAfter p.1 p.2 q.1 q.2)
      && c.unsplit p.1 p.2 q.1 q.2 && c.groupReads p.1 p.2 q.1 q.2)

/-! Performing. -/

/-- The value that an access has read for a lane. -/
def Node.read (n : Node) (lane : Nat) : Nat :=
  match n.acc.elems.findIdx? fun e => e.lane == lane with
  | none => 0
  | some j => ofLE ((n.part j).map fun o => ((n.data.find? fun d => d.1 == (j, o)).map Prod.snd).getD 0)
/-- The word of an atomic, the register that it starts at, and what it makes of a lane's word. -/
def Iss.atomOf (x : Iss) (i : Instr) : Option (M64 × Nat × AtomFn) :=
  match i with
  | .atom o => some (o, atomBytes o, atomFn o x)
  | .acas o => some (o, atomBytes o, acasFn o x)
  | .afadd o => some (o, 4, afaddFn o x)
  | _ => none
/-- The vector registers from d on that a load of n bytes fills. -/
def loadedRegs (read : Nat → Nat) (lanes : LaneSet) (n : Nat) (signed : Bool) (d : Nat) : List (Nat × List Word) :=
  let vals := (List.range 128).map fun i => if lanes.getLsbD i then read i else 0
  (List.range (accRegs n)).map fun j => (d + j, vals.map fun v => loadWord n signed v j)

/-- What an access that has read all its bytes lands in registers, and its flags. -/
def State.loaded (s : State) (x : Iss) (i : Instr) (n : Node) : List (Nat × List Word) × List (Nat × DWord) × FFlags :=
  let lanes := fun (o : M64) (size : Nat) (signed : Bool) =>
    (loadedRegs n.read x.sel size signed o.d.toNat, ([] : List (Nat × DWord)), fNone)
  match i with
  | .sld o => ([], [(sNum o.d, sldExtend (bits o.fn 0 3) (n.read 0))], fNone)
  | .ld o => lanes o (ldBytes (bits o.fn 0 3)) (bits o.fn 0 3 == 0 || bits o.fn 0 3 == 2)
  | .ldc o => lanes o (ldBytes (bits o.fn 0 3)) (bits o.fn 0 3 == 0 || bits o.fn 0 3 == 2)
  | .lda o => lanes o (ldBytes (bits o.fn 0 3)) false
  | .ldw o => lanes o (2 ^ bits o.fn 0 2) (o.fn.getLsbD 2)
  | .ldb o =>
    let r := s.recordOf x (recNum o)
    let l := x.laneRes fun j => match recCoords r (x.coords o j) with
      | none => ⟨(recFill r).toNat, fNone⟩
      | some c => recLoad r (toLE (recSize r) (n.read j)) (c.getD 0 0 % 32)
    ([(o.d.toNat, l.map fun y => BitVec.ofNat 32 y.code)], [], flagsOf x.active l)
  | _ => match x.atomOf i with
    | none => ([], [], fNone)
    | some (o, w, f) =>
      let old := n.acc.elems.map fun e => (e.lane, n.read e.lane)
      (AtomRun.regs ⟨s, old, fNone⟩ w o.d.toNat, [], old.foldl (fun fl p => fl ||| (f p.1 p.2).2) fNone)

/-- The registers of a result still to land. -/
def State.setResult (s : State) (k : Nat) (id : Option Nat) (v : List (Nat × List Word)) (u : List (Nat × DWord)) : State :=
  let f := fun (r : Result) => if some r.id = id then { r with vregs := v, sregs := u } else r
  s.modCore k fun c => { c with results := c.results.map f }

/-- A node with what is left of it; the bytes performed now join the trail. -/
def State.keepNode (s : State) (k : Nat) (n : Node) (now : List Done) : State :=
  s.modCore k fun c => { c with
    nodes := c.nodes.map fun m => if m.id = n.id then n else m
    trail := c.trail ++ now }

/-- The place outside the slice that a byte stands for. -/
def placeOf (key : Nat) : Phys := if 2 ^ 48 ≤ key then ⟨true, key - 2 ^ 48⟩ else ⟨false, key⟩
/-- Writes a byte of a node: of the slice, or for an engine outside it. -/
def State.putByte (s : State) (k o : Nat) (b : Byte) : State :=
  if o < 2 ^ 26 then s.sliceWrite k o [b] else s.physWriteBy k (placeOf (o - 2 ^ 26)) [b]

/-- The bank words that a store has now written whole are no longer in error (24 R350): those that one element covers, or all
writes of an engine together. -/
def Core.heal (c : Core) (n : Node) : Core :=
  let word := fun (w : Nat) => (List.range 16).map fun j => 16 * w + j
  let covered := fun (w : Nat) => (List.range n.parts).any fun j =>
    ((word w).all fun o => (n.part j).contains o) && !meets (n.leftOf j) (word w)
  { c with poison := c.poison.filter fun w => !covered w }

/-- Bytes of a store or of engine writes are written. -/
def State.performStore (s : State) (k : Nat) (n : Node) (now : List (Nat × Nat)) : State :=
  let byte := fun (p : Nat × Nat) => ((n.data.find? fun d => d.1 == p).map Prod.snd).getD 0
  let m := { n with left := n.left.filter fun p => !now.contains p }
  ((now.foldl (fun s p => s.putByte k p.2 (byte p)) s).modCore k fun c => c.heal m).keepNode k m
    (now.map fun p => ⟨p.2, n.id, p.1, true⟩)

/-- With its last byte the result of an access is known, and its flags are ORed (05 R106). -/
def State.finish (s : State) (k : Nat) (x : Iss) (i : Instr) (r : Option Nat) (n : Node) : State :=
  if n.left.isEmpty then
    let v := s.loaded x i n
    (s.setResult k r v.1 v.2.1).orFlags x v.2.2
  else s

/-- Bytes of a load are read. -/
def State.performLoad (s : State) (k : Nat) (n : Node) (x : Iss) (i : Instr) (r : Option Nat) (now : List (Nat × Nat)) :
    State :=
  let m := { n with
    left := n.left.filter fun p => !now.contains p
    data := n.data ++ now.map fun p => (p, (s.sliceRead k p.2 1).getD 0 0) }
  (s.finish k x i r m).keepNode k m (now.map fun p => ⟨p.2, n.id, p.1, false⟩)

/-- One lane of an atomic is performed (07 R163). -/
def State.performLane (s : State) (k : Nat) (n : Node) (f : AtomFn) (j : Nat) : State × Node :=
  match n.acc.elems[j]? with
  | none => (s, n)
  | some e =>
    let old := s.sliceLE k e.off e.size
    let new := (f e.lane old).1
    let m := { n with
      left := n.left.filter fun p => p.1 != j
      data := n.data ++ e.bytes.zipWith (fun o b => ((j, o), b)) (toLE e.size old) }
    let t := match new with | some v => s.sliceWrite k e.off (toLE e.size v) | none => s
    (t.keepNode k m (e.bytes.map fun o => ⟨o, n.id, j, new.isSome⟩), m)
/-- Lanes of an atomic are performed, in turn. -/
def State.performAtomic (s : State) (k : Nat) (n : Node) (x : Iss) (i : Instr) (r : Option Nat) (now : List (Nat × Nat)) :
    State :=
  match x.atomOf i with
  | none => s
  | some (_, _, f) =>
    let t := ((now.map Prod.fst).eraseDups).foldl (fun (t : State × Node) j => t.1.performLane k t.2 f j) (s, n)
    t.1.finish k x i r t.2

/-- Bytes of a node that are still to be performed are performed, with what goes along with them. -/
def State.performBytes (s : State) (k : Nat) (n : Node) (l : List (Nat × Nat)) : State :=
  let now := n.along l
  match n.kind with
  | .engine _ _ => s.performStore k n now
  | .access x i r => (match n.acc.kind with
    | .store => s.performStore k n now
    | .load => s.performLoad k n x i r now
    | .atomic => s.performAtomic k n x i r now)
  | _ => s
/-- Performs bytes of the node of a number. -/
def State.performPart (s : State) (k id : Nat) (l : List (Nat × Nat)) : State :=
  match (s.core? k).bind fun c => c.node? id with
  | none => s
  | some n => s.performBytes k n l

/-- The node stands behind a dq.pop that has no value yet: it waits for the push (04 R92). Nothing of a detached context waits
so (log 121: DESIGN CHOICE). -/
def State.heldBack (s : State) (c : Core) (n : Node) : Bool :=
  (c.nodes.any fun p => n.before.contains p.id && c.unserved p)
    && (match s.ctx? n.ctx with | some d => !d.detached | none => false)
/-- What is left of part i of p has to be performed before what is left of part j of n. -/
def Core.precedes (c : Core) (es : List (Vertex × Vertex)) (p : Node) (i : Nat) (n : Node) (j : Nat) : Bool :=
  let left := (p.leftOf i).filter fun o => (n.part j).contains o
  p.id != n.id && !(p.leftOf i).isEmpty && (c.follows p i n j
    || (p.bound i n j && !left.isEmpty && (p.shared i n j).any fun o => c.first p i n j o)
    || ((if n.isEngine then p.writes else p.writes || n.writes) && left.any (fun o => (n.leftOf j).contains o)
      && (c.earlier es n j).contains (p.id, i + 2)))
/-- The parts that have to be performed before a part. -/
def Core.blockers (c : Core) (es : List (Vertex × Vertex)) (q : Nat × Nat) : List (Nat × Nat) :=
  match c.node? q.1 with
  | none => []
  | some n => (c.nodes.filter Node.pending).flatMap fun p => (List.range p.parts).filterMap fun i =>
      if (n.group q.2).any fun j => c.precedes es p i n j then some (p.id, i) else none
/-- The parts that have to be performed before those of a list, with them; the first argument bounds how far that goes back. -/
def Core.needs (c : Core) (es : List (Vertex × Vertex)) (l : List (Nat × Nat)) : List (Nat × Nat) :=
  backFrom (c.blockers es) ((c.nodes.flatMap Node.left).length + 1) l l
/-- The parts of a core with bytes still to be performed that pass a test. -/
def State.pendingOn (s : State) (k : Nat) (p : Node → Nat × Nat → Bool) : List (Nat × Nat) :=
  match s.core? k with
  | none => []
  | some c => c.nodes.flatMap fun n => ((n.left.filter (p n)).map fun q => (n.id, q.1)).eraseDups
/-- All parts of a core with bytes still to be performed. -/
def State.allPending (s : State) (k : Nat) : List (Nat × Nat) := s.pendingOn k fun _ _ => true
/-- The next part of a list to perform: one of a load first, and none before what precedes it. -/
def State.nextPending (s : State) (k : Nat) (l : List (Nat × Nat)) : Option (Nat × Nat) :=
  match s.core? k with
  | none => none
  | some c =>
    let es := c.edges k
    let is := fun (q : Nat × Nat) (p : Node → Bool) => match c.node? q.1 with | some n => p n | none => false
    let ok := ((s.allPending k).filter fun q => l.contains q).filter fun q =>
      is q (fun n => !s.heldBack c n) && (c.blockers es q).isEmpty
    (ok.find? fun q => is q fun n => n.acc.kind == .load).orElse fun _ => ok.head?
/-- All bytes of a part. -/
def State.bytesOf (s : State) (k : Nat) (q : Nat × Nat) : List (Nat × Nat) :=
  match (s.core? k).bind fun c => c.node? q.1 with
  | some n => n.left.filter fun p => p.1 == q.2
  | none => []
/-- Performs parts of a list, at most so many. -/
def State.performList (k : Nat) (l : List (Nat × Nat)) : Nat → State → State
  | 0, s => s
  | n + 1, s => match s.nextPending k l with
    | none => s
    | some q => State.performList k l n (s.performPart k q.1 (s.bytesOf k q))
/-- Performs parts, and what comes before them. -/
def State.performUpTo (s : State) (k : Nat) (l : List (Nat × Nat)) : State :=
  match s.core? k with
  | none => s
  | some c => if l.isEmpty then s else State.performList k (c.needs (c.edges k) l) (s.allPending k).length s
/-- Performs all that can be performed on a core. -/
def State.settle (s : State) (k : Nat) : State := s.performUpTo k (s.allPending k)
/-- All that is still to be performed on a core can be performed consistently; only what stands behind a dq.pop waits. -/
def State.good (s : State) (k : Nat) : Bool :=
  let t := s.settle k
  match t.core? k with
  | none => true
  | some c =>
    let es := c.edges k
    c.consistent k && (t.allPending k).all fun q =>
      (c.needs es [q]).any fun r => match c.node? r.1 with | some n => t.heldBack c n | none => false

/-- The order is kept only as long as something is to be performed, or a pop has no value yet: then of what has been performed
nothing matters. -/
def Core.prune (c : Core) : Core :=
  if c.nodes.any Node.pending then c
  else { c with
    nodes := c.nodes.filter fun n => c.unserved n || (c.nodes.any fun p => n.before.contains p.id && c.unserved p)
    trail := [] }
/-- Performs bytes of an access early, if the order allows it. -/
def State.perform (s : State) (k id : Nat) (l : List (Nat × Nat)) : State :=
  let held := match s.core? k with
    | some c => (match c.node? id with | some n => s.heldBack c n | none => true)
    | none => true
  let t := s.performPart k id l
  if !held && t.good k then t.modCore k Core.prune else s
/-- The first part that is still to be performed and can be, by core, node and part. -/
def State.firstPending (s : State) : Option (Nat × Nat × Nat) :=
  (List.range 64).findSome? fun k => match s.allPending k with
    | [] => none
    | l => (s.nextPending k l).map fun q => (k, q)
/-- Performs one part whole. -/
def State.performNext (s : State) (k : Nat) (q : Nat × Nat) : State :=
  (s.performPart k q.1 (s.bytesOf k q)).modCore k Core.prune

end Sys2Proof.Machine
end

