-- ==== Sys2Proof/Machine/Issue.lean ====
section
/-! DEFINITION. Issuing instructions, and letting events happen, where accesses of a core are still to be performed
(Machine/Order.lean; log 5): what joins the order, what has to be performed first, and writes of engine operations that are
performed later than the operation runs (08 R183). -/
namespace Sys2Proof.Machine

/-! Nodes that join. -/

/-- No access of a core is still to be performed. -/
def State.quiet (s : State) (k : Nat) : Bool := match s.core? k with | some c => c.nodes.isEmpty | none => true
/-- The lanes that the issuer's split owns. -/
def State.ownedBy (s : State) (x : Iss) : LaneSet :=
  if x.isCt then LaneSet.all
  else match ((s.core? x.core).bind fun c => c.group? x.slot).bind fun g => g.split? x.entry with
    | some sp => sp.owned | none => 0

/-- The slot of an issuer's group, none for a control thread. -/
def Iss.slot? (x : Iss) : Option Nat := if x.isCt then none else some x.slot
/-- The node comes before what an issuer does next: it stands in its program order; or it is a dq.pop of another split of the
group which has its value, and is an acquire for the accesses of the group (04 R92). -/
def Core.precedesNext (c : Core) (n : Node) (x : Iss) (owned : LaneSet) : Bool :=
  n.by x owned || ((match n.kind with | .pop _ _ _ => true | _ => false) && !c.unserved n && n.ctx == x.ctx && n.slot == x.slot?)
/-- A node of an issuer, with what precedes it in program order. -/
def Core.node (c : Core) (x : Iss) (owned : LaneSet) (kind : NodeKind) (a : Access) (id : Nat) : Node :=
  { id := id, kind := kind, ctx := x.ctx, slot := x.slot?, owned := owned, via := [], acc := a
    before := (c.nodes.filter fun n => c.precedesNext n x owned).map Node.id
    taintedBy := (c.nodes.filter fun n => n.acc.ldc && n.carriers.any fun p => p.1 == x.slot && a.taints.contains p.2).map Node.id
    carriers := [], left := [], data := [] }
/-- A node joins the order of a core, with the bytes that it has performed. -/
def State.addNode (s : State) (k : Nat) (f : Core → Nat → Node) (l : List (Nat × Byte)) : State :=
  s.fresh.2.modCore k fun c =>
    let n := f c s.nextId
    { c with
      nodes := c.nodes ++ [{ n with data := n.data ++ l.map fun p => ((0, p.1), p.2) }]
      trail := c.trail ++ l.map fun p => ⟨p.1, s.nextId, 0, true⟩ }
/-- A node that is no access joins the order. -/
def State.mark (s : State) (x : Iss) (owned : LaneSet) (kind : NodeKind) : State :=
  s.addNode x.core (fun c => c.node x owned kind Access.none) []
/-- A node of no party of the core joins the order. -/
def bareNode (kind : NodeKind) (ctx : Nat) (before : List Nat) (id : Nat) : Node :=
  ⟨id, kind, ctx, none, 0, [], { Access.none with kind := .store }, before, [], [], [], []⟩

/-- The bytes of the slice that the nodes of a core touch. -/
def Core.tracked (c : Core) : List Nat :=
  ((c.nodes.flatMap fun n => (List.range n.parts).flatMap n.part).filter fun o => decide (o < 2 ^ 26)).eraseDups
/-- Writes to a slice that no access makes join the order, as far as anything kept there touches them: nobody reads past them
what stood there before. Those of an operation carry its number and what it completes; bytes of halves that have changed places
count as written (09 R192). -/
def State.noteWrites (s t : State) (k : Nat) (op : Option Nat) (refs : List OpRef) (flipped : List Wing) : State :=
  match s.core? k, t.core? k with
  | some c, some d =>
    let l := c.tracked.filter fun o => c.slice.read o != d.slice.read o
      || flipped.any fun w => decide (w.base ≤ o ∧ o < w.base + 2 * w.size)
    if l.isEmpty then t
    else t.addNode k (fun _ id => bareNode (.engine op refs) 0 [] id) (l.map fun o => (o, d.slice.read o))
  | _, _ => t

/-- The registers that a result fills, of a group in a slot. -/
def Result.fills (r : Result) (slot : Nat) : List (Nat × Nat) :=
  (r.vregs.map Prod.fst ++ r.sregs.map fun (p : Nat × DWord) => 384 + p.1).map fun n => (slot, n)
/-- The last result that a core has been given. -/
def State.lastResult (s : State) (k : Nat) : Option Result := (s.core? k).bind fun c => c.results.getLast?

/-- The instruction ORs flags of what it reads into %fflags (05 R106). -/
def setsFlags : Instr → Bool
  | .ldb _ => true
  | .afadd _ => true
  | _ => false

/-- The access of an instruction that has issued from s to t is taken back, and is still to be performed. -/
def State.withhold (s t : State) (x : Iss) (i : Instr) (a : Access) : State :=
  let r := if a.kind = .store then none else t.lastResult x.core
  let data := if a.kind = .store then a.elems.zipIdx.flatMap fun p =>
      p.1.bytes.zipWith (fun o b => ((p.2, o), b)) (s.storeBytes x i p.1.lane p.1.size) else []
  let t1 := match x.grp with
    | some g => if setsFlags i then t.modGroup x.core x.slot fun h => { h with fflags := g.fflags } else t
    | none => t
  match s.core? x.core with
  | none => t
  | some c => (t1.modCore x.core fun d => { d with slice := c.slice, poison := c.poison }).addNode x.core (fun c id =>
      { c.node x (s.ownedBy x) (.access x i (r.map Result.id)) a id with
        carriers := if a.ldc then ((r.map fun r => r.fills x.slot).getD []) else [], left := a.bytes, data := data }) []
/-- An access that is performed as its instruction issues from s to t joins the order. -/
def State.performed (s t : State) (x : Iss) (i : Instr) (a : Access) : State :=
  (s.withhold t x i a).performPart x.core t.nextId a.bytes

/-! What a change of splits does to the order (07 R156). -/

/-- Lanes of a node's order: those that a split has which continues from them or has diverged from them; and where lanes of it
exit, those that meet at the records which expected them, once the record is gone. -/
def Node.grow (n : Node) (g h : Group) : Node :=
  let gone := h.exited &&& ~~~g.exited
  let via := n.via ++ (if n.owned &&& gone = 0 then [] else (List.range g.recs.length).filterMap fun r =>
    (g.recs.getD r none).bind fun q => if q.expected &&& gone = 0 then none else some (r, q.expected))
  let met := via.filter fun p => (h.recs.getD p.1 none).isNone
  let owned := met.foldl (fun m p => m ||| p.2) n.owned
  { n with
    owned := (h.splits.filterMap fun sp => sp).foldl (fun m sp => if sp.owned &&& owned = 0 then m else m ||| sp.owned) owned
    via := via.filter fun p => (h.recs.getD p.1 none).isSome }
/-- The order of a core after its groups have changed from those of c to those of d. -/
def Core.grow (c d : Core) : Core :=
  { d with nodes := d.nodes.map fun n => match n.slot with
      | none => n
      | some t => match c.group? t, d.group? t with
        | some g, some h => if g.splits = h.splits ∧ g.recs = h.recs ∧ g.exited = h.exited then n else n.grow g h
        | _, _ => n }

/-- The taint bits of the groups of a core are those of a list of registers. -/
def State.withTaint (s : State) (k : Nat) (l : List (Nat × Nat)) : State :=
  s.modCore k fun c => { c with groups := c.groups.zipIdx.map fun p => p.1.map fun g =>
    let mine := (l.filter fun q => q.1 == p.2).map Prod.snd
    { g with
      vTaint := BitVec.ofNat 384 ((mine.filter fun r => decide (r < 384)).foldl (fun m r => m ||| 2 ^ r) 0)
      uni := { g.uni with sTaint := BitVec.ofNat 128 ((mine.filter fun r => decide (384 ≤ r)).foldl (fun m r => m ||| 2 ^ (r - 384)) 0) } } }
/-- The taint bits of the groups of a core, as registers. -/
def Core.taintBits (c : Core) : List (Nat × Nat) :=
  c.groups.zipIdx.flatMap fun p => match p.1 with
    | none => []
    | some g => ((List.range 512).filter fun r =>
        if r < 384 then g.vTaint.getLsbD r else g.uni.sTaint.getLsbD (r - 384)).map fun r => (p.2, r)
/-- A register of a group of a core is empty. -/
def Core.emptyReg (c : Core) (p : Nat × Nat) : Bool :=
  match c.group? p.1 with
  | none => false
  | some g => if p.2 < 384 then g.vEmpty.getLsbD p.2 else g.uni.sEmpty.getLsbD (p.2 - 384)
/-- Where the taint of one ldc stands after what f does to a state in which no other taint is (03 R56): in the registers that
are tainted then, but for those that have been emptied, and in those that a new tainted result will fill. -/
def State.carried (s : State) (k : Nat) (f : State → Res) (l : List (Nat × Nat)) : List (Nat × Nat) :=
  let s1 := s.withTaint k l
  match s1.core? k, f s1 with
  | some c, .next t => (match t.core? k with
    | none => l
    | some d =>
      let fills := (d.results.filter fun r => r.taint && !c.results.any fun q => q.id == r.id).flatMap fun r =>
        match r.party with | .group slot => r.fills slot | .ct _ _ => []
      (d.taintBits.filter fun p => c.emptyReg p || !d.emptyReg p) ++ fills)
  | _, _ => l
/-- The taint of each ldc of a core goes where an instruction or an event that has led from s to t takes it (03 R56). -/
def State.carry (s t : State) (k : Nat) (f : State → Res) : State :=
  let old := match s.core? k with | some c => c.nodes.map Node.id | none => []
  t.modCore k fun c => { c with nodes := c.nodes.map fun n =>
    if n.carriers.isEmpty || !old.contains n.id then n else { n with carriers := s.carried k f n.carriers } }

/-! Issuing. -/

/-- PC, loops and format of a thread now. -/
def State.flowOf (s : State) (x : Iss) : Option Flow :=
  if x.isCt then (s.cctx? x.core x.ctx).map fun c => if x.sup then c.sup.flow else c.user.flow
  else (((s.core? x.core).bind fun c => c.group? x.slot).bind fun g => g.split? x.entry).map Split.flow
/-- The instruction of a thread has issued between two states: the thread has gone on. -/
def State.hasIssued (s : State) (x : Iss) : Bool := s.flowOf x != some x.flow

/-- The instruction that a thread would run next, with its words. -/
def State.peek (s : State) (x : Iss) : Option (Instr × List Word) :=
  match s.fetch x with
  | .words _ ws => match decode (x.pc.off.toNat % 32) ws with | .ok i => some (i, ws) | .error _ => none
  | _ => none

/-- What every instruction that has issued from s to t leaves to be done to the order. -/
def State.tidy (s t : State) (th : Thread) (x : Iss) : State :=
  match s.core? x.core with
  | some c => (s.carry t x.core fun u => u.run th).modCore x.core fun d => (c.grow d).prune
  | none => t

/-- Runs an instruction that makes an access, now or to be performed later; y is the thread with its lanes. It is performed
at once where that is consistent, else after everything else, else later. Behind a dq.pop without a value it is performed
later (04 R92). -/
def State.issueAccess (s : State) (t : Thread) (x : Iss) (i : Instr) (y : Iss) (a : Access) (late : Bool) : Res :=
  let k := x.core
  let held := match s.core? k with | some c => s.heldBack c (c.node x (s.ownedBy x) (.fence false) a 0) | none => false
  let one := fun (s : State) (late : Bool) => match s.run t with
    | .next u => .next (if u.hasIssued x then (if late then s.withhold u y i a else s.performed u y i a) else u)
    | o => (o : Res)
  let good := fun (r : Res) => match r with | .next u => u.good k | _ => true
  let l := if held then [one s true]
    else if late then [one s true, one (s.settle k) true]
    else if (s.allPending k).isEmpty then [one s false]
    else [one s false, one (s.settle k) false, one s true, one (s.settle k) true]
  let r := match l with | [r] => r | _ => (l.find? good).getD (one s true)
  match r with
  | .next u => .next (if u.hasIssued x then s.tidy u t x else u)
  | o => o

/-- The engine operations of a core, with what each completes: those of its engines, and those of the matrix engine. -/
def Core.allOps (c : Core) : List (Nat × List OpRef) :=
  (c.ops.map fun o => (o.id, o.ref.toList))
    ++ ((c.mat.owner.toList ++ c.mat.susp).flatMap fun o => o.ops.map fun p => (p.id, p.refs))
/-- The operations that a core has been given between two states. -/
def State.newOps (s t : State) (k : Nat) : List Nat :=
  match s.core? k, t.core? k with
  | some c, some d => (d.allOps.filter fun o => !c.allOps.any fun p => p.1 == o.1).map Prod.fst
  | _, _ => []

/-- Bytes still to be performed on a core that an instruction which makes no access has written, or has bound as a wing (09 R192,
R199). -/
def State.disturbs (s t : State) (k : Nat) (o : Nat) : Bool :=
  match s.core? k, t.core? k with
  | some c, some d => c.slice.read o != d.slice.read o
      || (List.range 16).any fun n => match c.cctx? n, d.cctx? n with
        | some p, some q => q.wings.any fun w => !p.wings.contains w && decide (w.base ≤ o ∧ o < w.base + 2 * w.size)
        | _, _ => false
  | _, _ => false
/-- Groups of a core have gone between two states. -/
def State.frees (s t : State) (k : Nat) : Bool :=
  match s.core? k, t.core? k with
  | some c, some d => (List.range 96).any fun n => (c.group? n).isSome && (d.group? n).isNone
  | _, _ => false
/-- Fills of a core have started between two states. -/
def State.fillsMore (s t : State) (k : Nat) : Bool :=
  match s.core? k, t.core? k with | some c, some d => decide (c.fills.length < d.fills.length) | _, _ => false

/-- What is performed before an instruction that makes no access issues: for a read or write of %fflags, the accesses of its
group that OR flags (05 R106, log 119: DEDUCED). -/
def State.firstFor (s : State) (x : Iss) (i : Instr) : List (Nat × Nat) :=
  let flags := if x.isCt then [] else s.pendingOn x.core fun n _ => n.ctx == x.ctx && n.slot == some x.slot
    && match n.kind with | .access _ j _ => setsFlags j | _ => false
  match i with
  | .sprd o => if bits o.imm 0 8 = 5 then flags else []
  | .spwr o => if bits o.imm 0 8 = 5 then flags else []
  | _ => []
/-- What happens before whatever an issuer does next. -/
def Core.pastNext (c : Core) (x : Iss) (owned : LaneSet) : List Vertex :=
  let id := (c.nodes.map Node.id).foldl max 0 + 1
  let d := { c with nodes := c.nodes ++ [c.node x owned (.issued 0) Access.none id] }
  d.past (d.edges x.core) [(id, 0)]

/-- What an instruction that has run from s to t turns out to need performed before it: everything, where groups go; what
touches bytes that it writes or binds; engine writes that happen before it, where a fill starts (17 R284). -/
def State.firstSeen (s t : State) (x : Iss) : List (Nat × Nat) :=
  if s.frees t x.core then s.allPending x.core
  else
    (s.pendingOn x.core fun _ p => s.disturbs t x.core p.2)
      ++ (if s.fillsMore t x.core then match s.core? x.core with
        | some c => let past := c.pastNext x (s.ownedBy x)
          s.pendingOn x.core fun n _ => n.isEngine && past.contains (n.id, 2)
        | none => []
      else [])

/-- A value of the decision queue goes to the oldest pending pop, as an instruction that has issued from s to t has had it do
(04 R91, R92): the pop's node is served by the push's. What stood in the queue or waited before the order began has no node. -/
def State.pairQueue (s t : State) (x : Iss) (i : Instr) (owned : LaneSet) : State :=
  match s.core? x.core, s.cctx? x.core x.ctx with
  | some c, some q =>
    let pushes := (c.nodes.filter fun n => n.ctx == x.ctx && n.kind == .push false).map Node.id
    let pops := (c.nodes.filter fun n => n.ctx == x.ctx && c.unserved n).map Node.id
    let change := fun (t : State) (id : Nat) (f : NodeKind → NodeKind) => t.modCore x.core fun c =>
      { c with nodes := c.nodes.map fun n => if n.id = id then { n with kind := f n.kind } else n }
    let serve := fun (g : Option Nat) (k : NodeKind) => match k with | .pop r _ _ => NodeKind.pop r true g | k => k
    match i with
    | .dqPush _ =>
      let given := !q.pops.isEmpty
      let t1 := t.mark x owned (.push given)
      match (if given && q.pops.length == pops.length then pops.head? else none) with
      | some id => change t1 id (serve (some t.nextId))
      | none => t1
    | .dqPop o =>
      let giver := if q.dq.length = pushes.length then pushes.head? else none
      if q.dq.isEmpty then t.mark x owned (.pop o.d.toNat false none)
      else
        let t1 := t.mark x owned (.pop o.d.toNat true giver)
        (match giver with | some id => change t1 id fun _ => .push true | none => t1)
    | _ => t
  | _, _ => t

/-- The engine writes of a core that a wait of an issuer for a class reports (08 R183). -/
def Core.reported (c : Core) (x : Iss) (cls : Nat) : List Nat :=
  c.nodes.filterMap fun n => match n.kind with
    | .engine (some _) l => if l.any fun r => r.party == x.party && r.cls == cls then some n.id else none
    | _ => none
/-- The cores of the cluster of an initialised object, where it has one (09 R199). -/
def State.objCluster (s : State) (k ctx n : Nat) : List Nat :=
  match s.core? k, s.objVal? k ctx n with
  | some c, some (o, v) => (match v.scope, o.owner with
    | true, .wg i => (match c.wgs.get? i with | some w => w.cluster k | none => [])
    | _, _ => [])
  | _, _ => []
/-- The arrivals that an instruction of a core which has issued from s to t has sent, as target and number. -/
def State.newArrivals (s t : State) : List (Nat × Nat) :=
  (t.arrivals.filter fun a => decide (s.nextId ≤ a.id)).map fun a => (a.target, a.id)
/-- The orders of the other cores of a cluster learn of an arrival that has been sent from s to t, and of a return from bwt. On
the core of their issuer every return comes before every later arrival (log 122: DESIGN CHOICE). -/
def State.tellOthers (s t : State) (x : Iss) (i : Instr) : State :=
  let others := fun (n : Nat) => (s.objCluster x.core x.ctx n).filter fun k => k != x.core && !t.quiet k
  let relays := fun (c : Core) => (c.nodes.filter fun n => n.ctx == x.ctx
    && match n.kind with | .relay j _ _ => j == x.core | _ => false).map Node.id
  match i with
  | .barv o =>
    let n := bits (x.s o.a.reg) 0 8
    if (s.newArrivals t).isEmpty then t
    else (others n).foldl (fun t k => t.addNode k (fun c id => bareNode (.arrive n (s.newArrivals t) []) x.ctx (relays c) id) []) t
  | .bwt o =>
    let n := bits (x.s o.a.reg) 0 8
    if (x.guarded o.g).sel = 0 then t
    else (others n).foldl (fun t k => t.addNode k (fun _ id => bareNode (.relay x.core n (x.s o.b.reg).lo) x.ctx [] id) []) t
  | _ => t

/-- What an instruction that makes no access and has issued from s to t adds to the order of its core. -/
def State.noteIssue (s t : State) (x : Iss) (i : Instr) : State :=
  let owned := s.ownedBy x
  let acts := fun (g : Guard) => (x.guarded g).sel != 0
  let t1 := s.noteWrites t x.core none [] []
  let t2 := match i with
    | .fence o => if acts o.g then t1.mark x owned (.fence (o.fn.getLsbD 0)) else t1
    | .dqPush o => if acts o.g then s.pairQueue t1 x i owned else t1
    | .dqPop o => if acts o.g then s.pairQueue t1 x i owned else t1
    | .barv o => if (s.newArrivals t).isEmpty then t1 else t1.mark x owned (.arrive (bits (x.s o.a.reg) 0 8) (s.newArrivals t) [])
    | .bwt o => if acts o.g then t1.mark x owned (.await (bits (x.s o.a.reg) 0 8) (x.s o.b.reg).lo) else t1
    | .bini o => if acts o.g then t1.mark x owned (.object (bits (x.s o.b.reg) 0 8)) else t1
    | .wait o =>
      let l := match s.core? x.core with | some c => c.reported x (bits o.fn 0 3) | none => []
      if acts o.g && !l.isEmpty then t1.mark x owned (.wait l) else t1
    | _ => t1
  (s.newOps t x.core).foldl (fun t id => t.mark x owned (.issued id)) t2

/-- Runs an instruction that makes no access. -/
def State.issueOther (s : State) (t : Thread) (x : Iss) (i : Instr) : Res :=
  let s1 := s.performUpTo x.core (s.firstFor x i)
  if !(s1.firstFor x i).isEmpty then .next { s1 with cur := t }
  else match s1.run t with
  | .next u =>
    if !u.hasIssued x then .next u
    else
      let s2 := s1.performUpTo x.core (s1.firstSeen u x)
      match s2.run t with
      | .next v => .next (if v.hasIssued x then s2.tellOthers (s2.tidy (s2.noteIssue v x i) t x) x i else v)
      | o => o
  | o => o

/-- Runs an instruction of a thread of a core whose order of accesses is kept, or one whose access is to be performed later. -/
def State.runInOrder (s : State) (t : Thread) (x : Iss) (i : Instr) (late : Bool) : Res :=
  match s.accessOf x i with
  | some (y, a) => if a.elems.isEmpty then s.issueOther t x i else s.issueAccess t x i y a late
  | none => s.issueOther t x i

/-- What an instruction that a thread has issued from s to t on a core without an order leaves to be done: a dq.pop that has found
no value starts the order of its core (04 R92), and the orders of other cores learn what concerns them. -/
def State.startOrder (s t : State) (x : Iss) : State :=
  let t1 := match s.cctx? x.core x.ctx, t.cctx? x.core x.ctx with
    | some c, some d =>
      if c.pops.length < d.pops.length then t.mark x (s.ownedBy x) (.pop ((d.pops.getLast?).elim 0 fun p => 384 + p.reg) false none)
      else t
    | _, _ => t
  if (List.range 64).all s.quiet || !t.hasIssued x then t1
  else match s.peek x with
    | some (i, _) => s.tellOthers t1 x i
    | none => t1

/-- Looks at a thread, as `State.run` does, in the order of accesses of its core. -/
def State.runAs (s : State) (late : Bool) (t : Thread) : Res :=
  match { s with cur := t }.iss? t with
  | none => s.run t
  | some x =>
    if !late && s.quiet x.core then
      match s.run t with | .next u => .next (s.startOrder u x) | o => o
    else match (if x.claimed then none else { s with cur := t }.peek x) with
      | none => s.run t
      | some (i, _) => { s with cur := t }.runInOrder t x i late

/-! Events. -/

/-- The core and the number of the engine operation that an event runs. -/
def State.opOf (s : State) (e : Instr) : Option (Nat × Nat) :=
  let head := fun (k : Nat) => (((s.core? k).bind fun c => c.mat.owner).bind fun o => o.ops.head?).map fun q => (k, q.id)
  match e with
  | .sweepExecute k id => some (k, id)
  | .copyExecute k id => some (k, id)
  | .exchangeTransferExecute k id => some (k, id)
  | .twbComplete k id => some (k, id)
  | .sceneBuildComplete k id => some (k, id)
  | .planeLoad k => head k
  | .accumulationStep k => head k
  | .accumulatorOutput k => head k
  | _ => none

/-- The parts of memory, as nodes number bytes, that n bytes at an address of an operation of core k come to: their start and
length. -/
def State.extent (s : State) (k ctx : Nat) (sp : Span) : List (Nat × Nat) :=
  if isVirtual sp.a then (chunks sp.a sp.n).filterMap fun c => (s.translate ctx c.1 sp.write).map fun p => (2 ^ 26 + p.key, c.2)
  else match rangeOf k sp.a with | .slice j off => if j = k then [(off, sp.n)] else [] | _ => []
/-- The operands of a scene build in memory (15 R258). -/
def State.buildSpans (s : State) (op : EngineOp) : List Span :=
  let a := wrap48 (op.val 0).toNat
  let n := (op.val 2).toNat
  let d := s.operandBytes op 0 a 64
  let place := fun (v : Nat) => if (wordAt d 5).getLsbD 0 then (a + v) % 2 ^ 48 else v % 2 ^ 48
  [⟨a, 64, false, true, 1⟩, ⟨place (ofLE ((d.drop 8).take 8)), 64 * n, false, true, 1⟩,
    ⟨place (ofLE (d.take 8)), if (wordAt d 4).toNat ≤ 2 ^ 25 then 40 * (wordAt d 4).toNat else 0, false, true, 1⟩,
    ⟨(a + 0x38) % 2 ^ 48, 4, true, true, 1⟩]
/-- The operands of an operation in memory. -/
def State.opSpans (s : State) (op : EngineOp) : List Span :=
  let at_ := fun (j : Nat) => wrap48 (op.val j).toNat
  let two := fun (n m : Nat) => [(⟨at_ 1, n, false, true, 1⟩ : Span), ⟨at_ 0, m, true, true, 1⟩]
  let n := (op.val 2).toNat
  match op.instr, sweepPlan op with
  | .cpy o, _ => two n (if ebWV o then 0 else n)
  | .cpyx o, _ =>
    let slot := match op.party with | .group n => n | .ct _ _ => 0
    (match s.workgroup? op.who.core slot with
    | none => []
    | some wg =>
      let r := recordBits wg.records (ebRec o).toNat
      let st := o.fn.getLsbD 0
      (cpyxElems r (o.fn.getLsbD 2) wg.base (op.val 0).toNat).flatMap fun e =>
        [⟨e.recA, recSize r, st, true, 1⟩, ⟨e.plainA, codeBits (recView r) / 8, !st, true, 1⟩])
  | .twb o, _ =>
    let w := if o.fn.getLsbD 0 then 8 else 4
    [⟨at_ 0, 1024 * w, false, true, 1⟩, ⟨at_ 3, 8, false, false, 1⟩, ⟨at_ 3, 8, true, false, 1⟩]
      ++ (List.range 32).map fun r => ⟨(at_ 1 + r * n) % 2 ^ 48, 32 * w, true, true, 1⟩
  | .scnb _, _ => s.buildSpans op
  | .xmov _, _ => two n n
  | .xgm _, _ => two n n
  | .xput _, _ => two 0 n
  | .xmc _, _ => two n 0
  | .xadd o, _ => two (n * xaddBytes (bits o.fn 0 2)) 0
  | .swred o, _ => ⟨at_ 0, swWidth (swType o), true, false, 1⟩ :: swSpans op o 1 (swWidth (swType o))
  | _, some (o, p) => swSpans op o 0 p.wD ++ (if p.useA then swSpans op o 1 p.wA else [])
      ++ (if p.useB then swSpans op o 2 p.wB else [])
  | _, none => []
/-- The operands of an operation of the matrix engine in memory (11 R218). -/
def MatOp.spans (q : MatOp) : List Span :=
  let f := matFields q.instr
  let rows := fun (a n : Nat) (w : Bool) => (List.range q.count).map fun i => (⟨q.rowAddr a i, n, w, true, 1⟩ : Span)
  match q.instr with
  | .mlds _ => rows 0 (planeRowBytes q.cfg) false
  | .mstr _ => if f.fn.getLsbD 6 then [] else rows 0 256 false
  | .mout _ => if f.fn.getLsbD 6 then [] else rows 3 (128 * (codeBits (ebRec f) / 8)) true
  | _ => []
/-- What operation id of core k reads, or writes, as parts of memory. -/
def State.footprint (s : State) (k id : Nat) (write : Bool) : List (Nat × Nat) :=
  match s.core? k with
  | none => []
  | some c =>
    let mats := (c.mat.owner.toList ++ c.mat.susp).flatMap fun o => (o.ops.filter fun q => q.id == id).flatMap fun q =>
      q.spans.map fun sp => (o.ctx, sp)
    let ops := (c.ops.filter fun o => o.id == id).flatMap fun o => (s.opSpans o).map fun sp => (o.who.ctx, sp)
    (mats ++ ops).flatMap fun p => if p.2.write == write then s.extent k p.1 p.2 else []
/-- A byte lies in parts of memory. -/
def inExtents (l : List (Nat × Nat)) (o : Nat) : Bool := l.any fun e => decide (e.1 ≤ o ∧ o < e.1 + e.2)

/-- What operation id of a core completes. -/
def Core.refsOf (c : Core) (id : Nat) : List OpRef := ((c.allOps.find? fun o => o.1 == id).map Prod.snd).getD []
/-- What is performed before an operation of a core touches parts of memory: the stores and atomics that touch them and precede
its issue, or happen before that, and the writes of earlier operations of its queue (08 R182, 18 R298). -/
def State.firstForOp (s : State) (k id : Nat) (l : List (Nat × Nat)) : List (Nat × Nat) :=
  match s.core? k with
  | none => []
  | some c =>
    let past := c.beforeOp (c.edges k) id ++ c.queuedBefore (c.refsOf id) s.nextId
    s.pendingOn k fun n p => n.writes && inExtents l p.2 && past.contains (n.id, p.1 + 2)
/-- The issue of an operation stands behind a dq.pop that has no value yet (04 R92). -/
def State.opWaits (s : State) (k id : Nat) : Bool :=
  match s.core? k with
  | none => false
  | some c => c.nodes.any fun n => n.kind == .issued id && s.heldBack c n
/-- The state in which an operation can touch what f gives; none as long as it has to wait. What a scene build touches depends
on what it reads first. -/
def State.readyOp (s : State) (k id : Nat) (f : State → List (Nat × Nat)) : Option State :=
  let go := fun (s : State) => s.performUpTo k (s.firstForOp k id (f s))
  let t := go (go s)
  if s.opWaits k id || !(t.firstForOp k id (f t)).isEmpty then none else some t
/-- What operation id of core k reads and writes. -/
def State.touched (s : State) (k id : Nat) : List (Nat × Nat) := s.footprint k id false ++ s.footprint k id true

/-- The object that an event counts an arrival or a deposit at, as core, context and number, its generation, what its fields
become before generations complete, and the number of the arrival. -/
def State.countedAt (s : State) (e : Instr) : Option ((Nat × Nat × Nat) × Word × ObjVal × Option Nat) :=
  let arrival := fun (id : Nat) => (s.arrivals.find? fun a => a.id == id).bind fun a =>
    (s.objVal? a.target a.ctx a.k).bind fun o => (o.2.arrive a.gen a.flip).map fun v =>
      ((a.target, a.ctx, a.k), o.2.gen, v, some id)
  match e with
  | .barrierArrival id => arrival id
  | .heldArrivalRelease id => arrival id
  | .depositArrival id => (s.deposits.find? fun d => d.id == id).bind fun d => d.bar.bind fun b =>
      (s.objVal? d.target d.who.ctx b.1).map fun o =>
        ((d.target, d.who.ctx, b.1), o.2.gen, o.2.countBytes b.2 d.count, none)
  | _ => none
/-- The wings that an event which has happened from s to t has flipped, with their core (09 R201). -/
def State.flipped (s t : State) (e : Instr) : Option (Nat × List Wing) :=
  (s.countedAt e).bind fun q =>
    if (q.2.2.1.settle (q.2.2.1.narr + 2)).2 = 0 ∨ s.objGen q.1.1 q.1.2.1 q.1.2.2 = t.objGen q.1.1 q.1.2.1 q.1.2.2 then none
    else (s.cctx? q.1.1 q.1.2.1).map fun c => (q.1.1, c.wings.filter fun w => w.bar == some q.1.2.2)
/-- Part of an access has been performed in part. -/
def Node.torn (n : Node) (j : Nat) : Bool := let l := n.leftOf j; !l.isEmpty && decide (l.length < (n.part j).length)
/-- Before an event that leads from s to t flips wings, what touches them is completed if it has begun (09 R192), and performed
if it precedes an arrival that counts toward a generation which completes (R200, log 120: DEDUCED). -/
def State.beforeFlip (s t : State) (e : Instr) : State :=
  match s.countedAt e, s.flipped t e with
  | some q, some (k, ws) => (match s.core? k with
    | none => s
    | some c =>
      let done := match t.objGen k q.1.2.1 q.1.2.2 with | some g => (g - q.2.1).toNat | none => 0
      let mine := fun (n : Node) => n.ctx == q.1.2.1 && match n.kind with
        | .arrive m sent counted => m == q.1.2.2 && ((match q.2.2.2 with | some id => sent.any fun p => p.2 == id | none => false)
            || counted.any fun p => p.1 == k && decide ((p.2 - q.2.1).toNat < done))
        | _ => false
      let past := c.past (c.edges k) ((c.nodes.filter mine).map fun n => (n.id, 0))
      s.performUpTo k (s.pendingOn k fun n p => (ws.any fun w => decide (w.base ≤ p.2 ∧ p.2 < w.base + 2 * w.size))
        && (n.torn p.1 || past.contains (n.id, p.1 + 2))))
  | _, _ => s

/-- The issues of operations that an event has queued for groups that waited in a latch (11 R224). -/
def State.noteJoint (s t : State) (k : Nat) : State :=
  (s.newOps t k).foldl (fun t id =>
    let parties := (((t.core? k).bind fun c => c.allOps.find? fun o => o.1 == id).map fun o => o.2.map OpRef.party).getD []
    let xs := parties.filterMap fun p => match p with
      | .group slot => ((s.group? k slot).bind fun g => g.held Wait.isJoint).bind fun e => s.issAt k slot e
      | .ct _ _ => none
    match xs with
    | [] => t
    | x :: _ => t.addNode k (fun c n => { c.node x 0 (.issued id) Access.none n with
        before := (c.nodes.filter fun m => xs.any fun y => m.by y (s.ownedBy y)).map Node.id }) []) t

/-- The slots whose groups a repack step of a core moves, with the others of their workgroup left alone (15 R266). -/
def State.repacked (s : State) (e : Instr) (k : Nat) : List Nat :=
  match e with
  | .repackStep j wg => if j != k then [] else
      (s.wgSlots k wg).filter fun t => match (s.group? k t).bind fun g => (g.held Wait.isRpak).bind g.split? with
        | some sp => (match sp.wait with
          | .rpak o => (s.maskSlots k wg (rpakMask o)).contains t
          | _ => false)
        | none => false
  | _ => []
/-- The generation that an arrival has been counted toward joins its node, where an event that has happened from s to t has
counted it. -/
def State.noteCounted (s t : State) (e : Instr) (c : Core) : Core :=
  match (s.countedAt e), (match e with | .barrierArrival id => some id | .heldArrivalRelease id => some id | _ => none) with
  | some q, some id =>
    let g := match s.arrivals.find? fun a => a.id == id, s.objVal? q.1.1 q.1.2.1 q.1.2.2 with
      | some a, some o => if t.arrivals.any fun b => b.id == id then none else some (o.2.countsFor a.gen)
      | _, _ => none
    let add := fun (n : Node) => match n.kind, g with
      | .arrive m sent l, some g => if sent.any fun p => p.2 == id then { n with kind := .arrive m sent (l ++ [(q.1.1, g)]) } else n
      | _, _ => n
    { c with nodes := c.nodes.map add }
  | _, _ => c

/-- What an event that has happened from s to t leaves to be done to the order of a core. -/
def State.noteEvent (s t : State) (e : Instr) (k : Nat) : State :=
  if s.quiet k then t
  else match s.core? k with
  | none => t
  | some c =>
    let op := (s.opOf e).filter fun p => p.1 == k
    let refs := match op with | some p => c.refsOf p.2 | none => []
    let ws := match s.flipped t e with | some p => if p.1 = k then p.2 else [] | none => []
    let t1 := s.noteJoint (s.noteWrites t k (op.map Prod.snd) refs ws) k
    let moved := s.repacked e k
    let t2 := if moved.isEmpty && !(match e with | .fillComplete _ _ => true | _ => false) then t1 else s.carry t1 k (exec e)
    t2.modCore k fun d =>
      let g := s.noteCounted t e (c.grow d)
      Core.prune { g with nodes := g.nodes.map fun n => match n.slot with
        | some slot => if moved.contains slot then { n with owned := LaneSet.all } else n
        | none => n }

/-- An event happens, in the order of accesses of the cores. -/
def State.happen (s : State) (e : Instr) : Res :=
  if (List.range 64).all s.quiet then exec e s
  else match (match s.opOf e with | some (k, id) => s.readyOp k id fun s => s.touched k id | none => some s) with
  | none => .fault (.notEnabled "ORDER")
  | some s1 => match exec e s1 with
    | .next t =>
      let s2 := s1.beforeFlip t e
      (match exec e s2 with
       | .next u => .next ((List.range 64).foldl (fun u k => s2.noteEvent u e k) u)
       | o => o)
    | o => o

/-! Operations that read early and write late (08 R182, R183). -/

/-- The context of an operation. -/
def Core.opCtx (c : Core) (id : Nat) : Nat :=
  ((c.ops.find? fun o => o.id == id).map fun o => o.who.ctx).getD
    (((c.mat.owner.toList ++ c.mat.susp).find? fun o => o.ops.any fun p => p.id == id).elim 0 MatOwner.ctx)
/-- An operation that has run from s to t has written what it can write: a twb has found another hash, or writes in any case
(15 R271). -/
def State.hasWritten (s t : State) (k id : Nat) : Bool :=
  match s.core? k with
  | none => false
  | some c => c.ops.all fun op => op.id != id || match op.instr with
    | .twb o => (match (t.core? k).bind fun c => c.party? op.party with | some u => u.get (sNum o.d + 1) == 1 | none => false)
    | _ => true

/-- An operation runs and counts complete, and what it writes is still to be performed (08 R183). One that records a fault, or
writes to another core's slice or beyond the device, writes at once: a write to a fabric window completes when the target has
acknowledged it (26 R367). -/
def State.slow (s : State) (e : Instr) : State :=
  match s.opOf e with
  | none => s
  | some (k, id) =>
    let now := match s.happen e with | .next t => t | _ => s
    match s.readyOp k id fun s => s.footprint k id false with
    | none => s
    | some s1 => match s1.core? k, exec e s1 with
      | some c, .next t =>
        let probe := exec e (s1.modCtx (c.opCtx id) fun d => { d with fq := 0 })
        let faulted := match probe with | .next p => p.loss != s1.loss | _ => true
        let elsewhere := (List.range 64).any fun j => j != k && ((s1.core? j).map Core.slice != (t.core? j).map Core.slice)
        let keys := (s1.footprint k id true).flatMap fun w => (List.range w.2).map fun j => w.1 + j
        let byte := fun (o : Nat) => if o < 2 ^ 26 then (t.sliceRead k o 1).getD 0 0 else (t.physRead (placeOf (o - 2 ^ 26)) 1).getD 0 0
        let l := keys.map fun o => ((0, o), byte o)
        if faulted || elsewhere || l.isEmpty || (c.refsOf id).isEmpty || keys.any (fun o => decide (2 ^ 26 + 2 ^ 48 ≤ o))
            || !s1.hasWritten t k id then now
        else
          ({ t with gddr := s1.gddr, gddrErr := s1.gddrErr }.modCore k fun d =>
              { d with slice := c.slice, poison := c.poison, wrote := c.wrote }).addNode k (fun _ n =>
            { bareNode (.engine (some id) (c.refsOf id)) (c.opCtx id) [] n with left := l.map Prod.fst, data := l }) []
      | _, _ => now

/-- An operation reads a byte of its source before it runs (08 R182): after the stores and atomics that precede its issue, and
after the earlier operations of its party and class. -/
def State.sample (s : State) (k id read a : Nat) : State :=
  let ctx := match s.core? k with | some c => c.opCtx id | none => 0
  match s.readyOp k id fun s => s.extent k ctx ⟨a, 1, false, true, 1⟩ with
  | none => s
  | some s1 => match s1.core? k with
    | none => s
    | some c =>
      let refs := c.refsOf id
      let behind := c.allOps.any fun o => decide (o.1 < id) && sameQueue o.2 refs
      let at_ := if isVirtual a then a else aliasOff a
      let byte := if isVirtual a then (match s1.virtRead ctx a 1 with | .ok bs => bs.head? | .error _ => none)
        else (s1.sliceRead k at_ 1).head?
      let add := fun (l : List Sample) => match byte with
        | some b => if l.any fun q => q.read == read && q.at_ == at_ then l else l ++ [⟨read, at_, b⟩]
        | none => l
      let own := fun (o : MatOwner) => { o with ops := o.ops.map fun p => if p.id = id then { p with early := add p.early } else p }
      if behind || refs.isEmpty then s
      else s1.modCore k fun c => Core.prune { c with
        ops := c.ops.map fun o => if o.id = id then { o with early := add o.early } else o
        mat := { c.mat with owner := c.mat.owner.map own, susp := c.mat.susp.map own } }

end Sys2Proof.Machine
end

