-- ==== Sys2Proof/Machine/Sched.lean ====
section
/-! DEFINITION. What happens next (log 4). The agenda says it where it holds anything; with an empty agenda, an event
that can happen happens, and otherwise a thread issues, chosen as 22 R326 says. Soft errors happen where the agenda says
so (24 R348). -/
namespace Sys2Proof.Machine

/-! Threads (22 R326). -/

/-- Every thread of a core, groups first. -/
def Core.threads (c : Core) (k : Nat) : List Thread :=
  (c.groups.zipIdx.flatMap fun p =>
    match p.1 with
    | none => []
    | some g => (List.range 16).filterMap fun e => (g.split? e).map fun _ => Thread.group k p.2 e)
  ++ (c.residents.map fun ctx => Thread.ct k ctx)
/-- The place that issues a thread, in the fixed order: partitions 0 to 15 of a core, then its scalar pipe. -/
def Thread.pipe : Thread → Nat
  | .group k slot _ => k * 17 + slot / 6
  | .ct k _ => k * 17 + 16
/-- Every thread, in the fixed order. -/
def State.threads (s : State) : List Thread := s.cores.zipIdx.flatMap fun p => p.1.threads p.2
/-- The threads that could issue as things stand, in the fixed order. -/
def State.ready (s : State) : List Thread := s.threads.filter fun t => (s.iss? t).isSome || (s.entering t).isSome

/-- The split that a thread is. -/
def State.split? (s : State) (t : Thread) : Option Split :=
  match t with
  | .group k slot e => ((s.core? k).bind fun c => c.group? slot).bind fun g => g.split? e
  | .ct _ _ => none
/-- The instruction of a thread could issue now, or looking at it starts a fill: what running it comes to says so. -/
def State.couldIssue (s : State) (t : Thread) : Bool :=
  match s.runAs false t with
  | .next u =>
    let fills := fun (k : Nat) => match s.core? k, u.core? k with
      | some c, some d => c.fills.length != d.fills.length | _, _ => false
    (match t with
    | .group k slot _ =>
      (match s.split? t, u.split? t with
        | some sp, some sp' => sp'.flow != sp.flow || sp'.wait != sp.wait
        | _, _ => true)
      || (match u.group? k slot with | some g => g.frozen | none => true) || fills k
    | .ct k ctx =>
      (match s.cctx? k ctx, u.cctx? k ctx with
        | some c, some d => c.user.flow != d.user.flow || c.sup.flow != d.sup.flow || c.wait != d.wait
            || c.handling.isSome != d.handling.isSome || c.deliveries.length != d.deliveries.length
        | _, _ => true) || fills k)
  | _ => false
/-- Since when each split of the groups has been ready (22 R326); one that cannot issue, as it waits, is frozen or detached, is
not. -/
def State.watch (s : State) : State :=
  s.threads.foldl (fun (u : State) t =>
    match t with
    | .ct _ _ => u
    | .group k slot e => u.modGroup k slot fun g => g.modSplit e fun sp =>
        { sp with since := if (s.iss? t).isSome && s.couldIssue t then sp.since.orElse fun _ => some s.clock else none }) s

/-- Where a split stands in the choice of its partition: one that has given way comes after the others that are ready (04 R90);
urgent ones by when they became urgent, then the others by when they became ready (22 R326). -/
def Split.rank (sp : Split) (now : DWord) : Nat :=
  let age := fun (t : DWord) => 2 ^ 64 - 1 - (now - t).toNat
  (if sp.yielded then 2 ^ 66 else 0) + (if sp.urgent then age sp.urgentAt else 2 ^ 65 + sp.since.elim (2 ^ 64) age)
/-- The first thread of a list with the lowest rank. -/
def lowest (f : Thread → Nat) : List Thread → Option Thread
  | [] => none
  | t :: r => match lowest f r with
    | none => some t
    | some u => some (if f t ≤ f u then t else u)
/-- The threads of a place that issues: the splits of a partition, or the control threads of a core, in the fixed order. -/
def State.pipeThreads (s : State) (t : Thread) : List Thread :=
  match t with
  | .group k slot _ => (List.range 6).flatMap fun j =>
      match s.group? k (slot / 6 * 6 + j) with
      | none => []
      | some g => (List.range 16).filterMap fun e => (g.split? e).map fun _ => Thread.group k (slot / 6 * 6 + j) e
  | .ct k _ => match s.core? k with | some c => c.residents.map fun n => Thread.ct k n | none => []
/-- Among threads of one place, where one stands: R326 for splits; the control threads of a core in turn. -/
def State.rankOf (s : State) (t : Thread) : Nat :=
  match t with
  | .group _ _ _ => match s.split? t with | some sp => sp.rank s.clock | none => 2 ^ 67
  | .ct k ctx => match s.core? k with | some c => (ctx + 15 - c.lastCt) % 16 | none => 0
/-- A thread is ready: a split since a clock that has been noted, a control thread as it stands (22 R326). -/
def State.isReady (s : State) (t : Thread) : Bool :=
  match t with
  | .group _ _ _ => match s.split? t with | some sp => sp.since.isSome | none => false
  | .ct _ _ => ((s.iss? t).isSome || (s.entering t).isSome) && s.couldIssue t
/-- Of a thread and those of its place that are ready and pass a test, the one that its place chooses first (22 R326). -/
def State.firstOf (s : State) (t : Thread) (p : Thread → Bool) : Option Thread :=
  lowest s.rankOf ((s.pipeThreads t).filter fun u => u == t || (p u && s.isReady u))
/-- Where a split stands among those of its partition: by group slot, then entry. -/
def Thread.place : Thread → Nat
  | .group _ slot e => 16 * slot + e
  | .ct _ _ => 0
/-- A partition issues two instructions in a clock (22 R326), of which the one of the lower group slot, then the lower entry,
takes effect first (04 R89, 08 R168; log 123: DEDUCED): the split t that is chosen after u may so come before it, once. -/
def State.mayPrecede (s : State) (t u : Thread) : Bool :=
  s.firstOf t (fun v => v != u) == some t && match s.split? t, s.split? u with
    | some a, some b => !a.yielded && !b.passed && decide (t.place < u.place)
    | _, _ => false
/-- The choice of its partition or scalar pipe does not stand against a thread: no other that is ready comes before it (22
R326), but for one that issues in the same clock. -/
def State.mayIssue (s : State) (t : Thread) : Bool :=
  match s.firstOf t fun _ => true with
  | none => true
  | some u => u == t || s.mayPrecede t u
/-- The thread that issues next: partitions and scalar pipes in turn, those first that have something ready. -/
def State.nextThread (s : State) : Option Thread :=
  let ready := s.ready
  let ts := if ready.any s.isReady then ready.filter s.isReady else ready
  let p := ((ts.find? fun t => decide (s.cur.pipe < t.pipe)).orElse fun _ => ts.head?).map Thread.pipe
  lowest s.rankOf (ts.filter fun t => some t.pipe == p)
/-- What the issue of a thread that was chosen after another, if it was, changes for the choices to come: the control thread that
issued last on its core; the split is not urgent any more (22 R326); the splits that have given way to it (04 R90); and the one
that has let it pass. -/
def State.took (s : State) (first : Option Thread) (t : Thread) : State :=
  match t with
  | .group k slot _ => (s.pipeThreads (.group k slot 0)).foldl (fun s u => match u with
      | .group k slot e => s.modGroup k slot fun g => g.modSplit e fun sp =>
          if u = t then { sp with urgent := false, since := none, passed := false }
          else { sp with yielded := false, passed := sp.passed || first == some u }
      | .ct _ _ => s) s
  | .ct k ctx => s.modCore k fun c => { c with lastCt := ctx }
/-- What follows a look at a thread that has led from s to u: it has issued where it has gone on, or where its instruction has
trapped or joined a queue or a rendezvous. -/
def State.taken (s u : State) (t : Thread) (x : Iss) : State :=
  if u.hasIssued x || (u.iss? t).isNone then u.took (s.firstOf t fun _ => true) t else u
/-- Looks at a thread that issues now. -/
def State.issueThread (s : State) (late : Bool) (t : Thread) : Res :=
  match s.runAs late t with
  | .next u => .next (match s.iss? t with
      | some x => s.taken u t x
      | none => u)
  | o => o

/-! Soft errors (24 R348 to R350). -/

/-- A soft error. What names nothing that exists is no error. -/
def State.upset (s : State) (u : Upset) : State :=
  let put := fun (n : Nat) (l : List Nat) => if l.contains n then l else n :: l
  match u with
  | .corrected k j => if j < 3 then s.modCore k fun c => c.bumpEcc j else s
  | .slice k w => if w < 0x3C0000 then s.modCore k fun c => { c with poison := put w c.poison } else s
  | .vReg k slot r i => s.modGroup k slot fun g =>
      if r < 8 * g.blocks ∧ i < 128 then { g with vErr := AMap.set g.vErr r (g.laneErr r ||| (1#128 <<< i)) } else g
  | .sReg k p r => s.modParty k p fun u => { u with sErr := u.sErr ||| (1#128 <<< r) }
  | .supReg k n r =>
    let exists_ := match r with | .mask j => decide (1 ≤ j ∧ j < 16) | .loop j => decide (j < 4) | _ => true
    if exists_ then s.modCctx k n fun c => { c with supErr := if c.supErr.contains r then c.supErr else r :: c.supErr } else s
  | .store k id w =>
    let hit := fun (i : Image) => if i.id = id ∧ i.ready = true then { i with bad := put w i.bad } else i
    s.modCore k fun c => { c with images := c.images.map hit }
  | .firmware k w => if w < 8192 then s.modCore k fun c => { c with fwErr := put w c.fwErr } else s
  | .gddr a => { s with gddrErr := put a s.gddrErr }
  | .pool n slot => s.modCtx n fun d => match AMap.get? d.pool slot with
      | some v => { d with pool := AMap.set d.pool slot { v with err := true } }
      | none => d
  | .scene n slot => s.modCtx n fun d => match AMap.get? d.scenes slot with
      | some v => { d with scenes := AMap.set d.scenes slot { v with err := v.published.isSome } }
      | none => d

/-! Events that can happen by themselves. -/

/-- Events of what is in flight on a core. -/
def Core.flightEvents (c : Core) (k : Nat) : List Instr :=
  (c.ops.flatMap fun o => [.sweepExecute k o.id, .copyExecute k o.id, .exchangeTransferExecute k o.id,
      .rastComplete k o.id, .twbComplete k o.id, .sceneBuildComplete k o.id])
  ++ (c.results.flatMap fun r => [.vtosResult k r.id, .loadDataReturn k r.id, .atomicResultReturn k r.id,
      .graphResult k r.id, .traceResult k r.id])
  ++ (c.fills.map fun f => .fillComplete k f.id)
  ++ (if c.fills.isEmpty then [] else [.fillQueueServe k])
  ++ (if c.claims.isEmpty then [] else [.rclmClaimServed k, .rclmClaimFail k])

/-- Events of a core's matrix engine. -/
def Core.matrixEvents (c : Core) (k : Nat) : List Instr :=
  (if c.mat.owner.isSome || !c.mat.susp.isEmpty || !c.mat.queue.isEmpty || c.mat.releasing then
    [.preemption k, .planeLoad k, .planeFlip k, .accumulationStep k, .accumulatorOutput k, .bankClear k, .engineRelease k,
     .macqGrant k]
   else [])
  ++ c.wgs.flatMap fun p => [.gangRendezvous k p.1, .jointInstructionRelease k p.1, .repackStep k p.1]

/-- Events of a core's parties. -/
def Core.partyEvents (c : Core) (k : Nat) : List Instr :=
  ((List.range 96).filterMap fun t => match c.group? t with | some _ => some (.groupPark k t) | none => none)
  ++ (c.residents.flatMap fun n => [.trapDelivery k n, .ctArrive k n])

/-- Splits of a core that become urgent (22 R326). -/
def Core.urgentEvents (c : Core) (k : Nat) (now : DWord) : List Instr :=
  (c.threads k).filterMap fun t => match t with
    | .group _ slot e => (((c.group? slot).bind fun g => g.split? e).filter fun sp => !sp.urgent && sp.overdue now).map
        fun _ => .splitUrgent k slot e
    | .ct _ _ => none

/-- Events of the whole device. -/
def State.deviceEvents (s : State) : List Instr :=
  (s.deposits.flatMap fun d => [.depositArrival d.id, .depositAck d.id])
  ++ (s.arrivals.flatMap fun a => [.barrierArrival a.id, .heldArrivalRelease a.id])
  ++ ((List.range 16).flatMap fun n => match s.reqs[n]? with
      | some r => if r.busy then [.deadlineMissed n, .contextReset n, .contextSave n, .contextRestore n] else []
      | none => [])
  ++ (s.members.map fun n => .xsyncStageEnd n)
  ++ (if s.straggle.isSome then [.stragglerEvent, .stragglerDetach] else [])
  ++ (if s.ring.since.isSome then [.ringTimeout] else [])
  ++ [.cToXBoundary, .xToCBoundary]

/-- Everything that may be able to happen by itself, in the order in which it is tried. -/
def State.candidates (s : State) : List Instr :=
  ((List.range 64).flatMap fun k => match s.core? k with
    | some c => c.flightEvents k ++ c.matrixEvents k ++ c.partyEvents k ++ c.urgentEvents k s.clock
    | none => []) ++ s.deviceEvents

/-- The state after the first event that can happen. -/
def State.firstEvent (s : State) : List Instr → Option State
  | [] => none
  | e :: r => match s.happen e with
    | .next s' => some s'
    | _ => s.firstEvent r

/-! One step. -/

/-- An empty image with a good signature. -/
def BootImage.good : BootImage :=
  { version := 1, bytes := []
    keyX := 0x18597a481996c9c1fac13b23f2c351110a877bd4a1af3aadde35d3780c039257254cb5c29889faf19ae9db1c12f6c5c44a79c83de2d4e94481512112c589b405274
    keyY := 0x10c69ca595a767506dd07cfcf6bf5949d17365006ead283f75f48ed3520a3de67d8d7e0c745b83ac39787249d6e20a146e1d2a3918dbffc27815336f3f22cfe3cef
    sigR := 0x68efd4be6bd117893617acde8541f2d0a0e056c392f6548c70fc7306c258fbf7d6dd959e2136b77414a51ed8ea570be925d703df4f1f18969838f06870f0360de9
    sigS := 0xc102583e681f035b9ed88ffe0d4b8e11cc9d59a6cc89280502e8b9e703ef01f14f7df3f7fcda8797100a25b76a8f191b515b758fa26d21b3d7e8b874a14abc58c1 }

/-- What the management core finds at power-on when the agenda does not say: nothing is off, nothing fails (log 63). -/
def BootInputs.good : BootInputs :=
  { romOk := true
    keyDigest :=
    [0x88#8, 0x0b#8, 0xe6#8, 0xf8#8, 0x76#8, 0xd1#8, 0x73#8, 0xe6#8, 0x46#8, 0xec#8, 0xe5#8, 0x36#8, 0x1d#8, 0xb7#8, 0x63#8, 0x63#8] ++
    [0x2e#8, 0x49#8, 0xcd#8, 0xc1#8, 0x1a#8, 0x7f#8, 0x6a#8, 0xd8#8, 0xef#8, 0x17#8, 0x48#8, 0xde#8, 0xb2#8, 0x14#8, 0xff#8, 0xda#8] ++
    [0x44#8, 0x84#8, 0xa2#8, 0xe2#8, 0x70#8, 0xd5#8, 0xe0#8, 0x8c#8, 0xc0#8, 0x2b#8, 0xa4#8, 0x4f#8, 0x21#8, 0x06#8, 0x30#8, 0xc4#8] ++
    [0x63#8, 0x89#8, 0xa9#8, 0x05#8, 0xde#8, 0x44#8, 0x76#8, 0x32#8, 0x48#8, 0x70#8, 0xdb#8, 0xf4#8, 0xd5#8, 0x24#8, 0x11#8, 0xae#8]
    management := BootImage.good, core := BootImage.good, config := BootImage.good, configOk := true, cfgCoresOff := 0,
    cfgStationsOff := 0, cfgPortLimit := 0x8888888888888888#64, lsizeGiB := 64, testCoresOff := 0, testSlicesOff := 0,
    testStationsOff := 0, linksFailed := 0, portWidth := 0x8888888888888888#64, finishOk := true, firmware := [],
    vec := 0, certificate := [] }

/-- With an empty agenda: power-on first; then what is to be performed; then what can happen; then the next thread. -/
def State.free (s : State) : Res :=
  if s.boot = 0 then exec (.powerOnReset BootInputs.good) s
  else match s.firstPending with
  | some p => .next (s.performNext p.1 p.2)
  | none =>
    match s.firstEvent s.candidates with
    | some s' => .next s'
    | none => match s.nextThread with
      | some t => s.issueThread false t
      | none => .next s

/-- One entry of the agenda; an event that cannot happen now does not happen, and a thread that another comes before does not
issue (22 R326). A soft error of a slice finds every access performed. -/
def State.act (s : State) (a : Action) : Res :=
  match a with
  | .issue t => if s.mayIssue t then s.issueThread false t else .next s
  | .late t => if s.mayIssue t then s.issueThread true t else .next s
  | .perform k id l => .next (s.perform k id l)
  | .slow e => .next (s.slow e)
  | .sample k id read a => .next (s.sample k id read a)
  | .clocks n => .next { s with clock := s.clock + BitVec.ofNat 64 n }
  | .cache ctx va => .next (s.cacheAt ctx va)
  | .forget ctx va => .next (s.forgetAt ctx va)
  | .port n => .next { s with port := n }
  | .evict k ctx t => .next (s.forceEvict k ctx t)
  | .upset u => .next (match u with | .slice k _ => ((s.settle k).modCore k Core.prune).upset u | _ => s.upset u)
  | .event e =>
    match e.raw with
    | some _ => .next s
    | none => match s.happen e with
      | .next s' => .next s'
      | _ => .next s

/-- What every step ends with: the count of stragglers starts if a core has arrived first (23 R332), clocks pass, and what is
ready is noted (22 R326). -/
def State.after (s : State) : State :=
  State.watch { s.startCount with
    clock := s.clock + BitVec.ofNat 64 (Config.stepClocks s.ticks), ticks := s.ticks + 1 }

/-- The outcome of a step with what every step ends with. -/
def ended (r : Res) : Res := match r with | .next s => .next s.after | o => o

end Sys2Proof.Machine
end

