-- ==== Sys2Proof/Machine/Start.lean ====
section
/-! DEFINITION. Placing one instruction where the next step fetches (log 64): the machine selects its programs itself, so
a thread of the kind that the instruction is for stands at it. -/
namespace Sys2Proof.Machine

/-- The kinds of threads and of supersteps in which an instruction is at home. -/
inductive Home where
  | group | ct | exchange | firmware
  deriving DecidableEq, Repr

/-- The home of an instruction by its first word (02 Table 2.14). -/
def homeOf (w : Word) : Home :=
  let opc := opcF w
  if opc / 16 = 15 then .firmware
  else if opc / 16 = 10 ∧ opc ≠ 0xA0 ∧ opc ≠ 0xA7 then .exchange
  else if opc = 0xC8 ∨ opc = 0xD6 ∨ opc = 0xD7 ∨ opc = 0xE6 ∨ (opc = 0x0D ∧ w.getLsbD 24 = false) then .ct
  else .group

/-- An image of two fetch blocks with words at an offset of its code region, and with entry 0 at offset 0. -/
def placedImage (id off : Nat) (ws : List Word) : Image :=
  { id := id, shr := false, digest := [], len := 64, ecnt := 1, slots := 1, ready := true, bad := [],
    words := ((List.replicate (off / 4) 0#32 ++ ws ++ List.replicate 15 0#32).take 15) ++ [0#32] }

/-- A delivery that the firmware is handling. -/
def placedDelivery : Delivery := ⟨.userCt, 0x16, 0, ⟨0, 0⟩, ⟨0, 0⟩, 0, 0⟩

/-- Context 0 on core 0 with its user CT, or its firmware, at the instruction. -/
def CoreCtx.placed (c : CoreCtx) (id : Nat) (off : Nat) (h : Home) : CoreCtx :=
  { c with
    resident := true, held := false, deliveries := [], stopped := false, wait := .none,
    tokens := AMap.set c.tokens 0 ⟨.resident, false, 0, 1, some id, [], []⟩
    running := h != .group
    user := ⟨Uni.zero, Flow.start ⟨0, BitVec.ofNat 32 off⟩⟩
    sup := { c.sup with flow := Flow.start ⟨0, BitVec.ofNat 32 off⟩ }
    handling := if h = .firmware then some placedDelivery else none }

/-- Core 0 with the instruction: a group of one register block in slot 0, with an allocation of 4 KiB. -/
def Core.placed (c : Core) (id off : Nat) (ws : List Word) (h : Home) : Core :=
  let c1 := { c with
    on := true
    nodes := []
    trail := []
    fwErr := []
    images := placedImage id off ws :: c.images
    firmware := if h = Home.firmware then c.firmware.writeBytes off (ws.flatMap fun (w : Word) => toLE 4 w.toNat) else c.firmware
    wgs := if h = Home.group then AMap.set c.wgs id ⟨0, 0, 4096, [], 0, 0, 0, 0, 0, 1, [0]⟩ else c.wgs
    groups := if h = Home.group then c.groups.set 0
        (some (startGroup 0 id 0 1 ⟨0, BitVec.ofNat 32 off⟩ [0, 4096, 0, 0, 0, 0])) else c.groups }
  c1.modCctx 0 fun cc => cc.placed id off h

/-- s with words placed at an offset of a fetch block, and the next step looking at the thread that stands there. -/
def State.place0 (s : State) (off : Nat) (ws : List Word) : State :=
  let h := homeOf (ws.headD 0)
  let t : Thread := if h = .group then .group 0 0 0 else .ct 0 0
  let s1 := (s.modCore 0 fun c => c.placed s.nextId off ws h).modCtx 0 fun d => { d with member := true, detached := false }
  { s1 with
    cur := t, agenda := [.issue t], boot := 6, window := .closed, nextId := s.nextId + 1
    phase := if h = .exchange then s.phase ||| 1#64 else s.phase &&& ~~~1#64 }

end Sys2Proof.Machine
end

