-- ==== Sys2Proof/Machine/Step.lean ====
section
/-! DEFINITION. One step of the machine, and the place where the next step fetches (log 64). -/
namespace Sys2Proof.Machine

/-- One step: the head of the agenda, or what happens by itself. -/
def step (s : State) : Host.Outcome State Fault Refusal :=
  match s.agenda with
  | a :: r => ended ({ s with agenda := r }.act a)
  | [] => ended s.free

/-- s with an instruction placed where the next step fetches. The machine selects its program itself (launches, the
start of a control program, firmware): the instruction is the first of a group, of a user CT or of a handler of context 0
on core 0, whichever its encoding names (log 64). -/
def State.withFetchWord (s : State) (nbits w : Nat) : State := s.place0 (tableOffset nbits w) (tableWords w)

end Sys2Proof.Machine
end

