-- ==== Sys2Proof/Safety.lean ====
section
/-! DEFINITION. What counts as a safe state and a safe run, in the terms that claims use. -/
namespace Sys2Proof.Machine

/-- Every byte memory of a core is in canonical form: slice, firmware store, matrix planes, record stores. -/
def Core.memoryOk (c : Core) : Bool :=
  c.slice.wf && c.firmware.wf && c.mat.active.wf && c.mat.shadow.wf && c.wgs.all fun p => p.2.records.wf

/-- Every byte memory that a saved image holds is in canonical form. -/
def SavedCtx.memoryOk (v : SavedCtx) : Bool := v.bytes.wf && v.wgs.all fun p => p.2.records.wf

/-- The byte memories of the device are in canonical form: GDDR 7 and the fabric, now and as they stood at the last boundary
(17 R284), those of the cores, and those of saved images. -/
def State.memoryOk (s : State) : Bool :=
  s.gddr.wf && s.gddrStart.wf && s.remote.wf && s.remoteStart.wf && s.cores.all Core.memoryOk && s.saves.all fun p => p.2.memoryOk

/-- The registers of the phase controller, the distributor and the ring hold values in their ranges (22 R323; 23 Table
23.1; 26 Table 26.3). -/
def State.registersOk (s : State) : Bool :=
  decide (2 ^ 10 ≤ s.psto1 ∧ s.psto1 ≤ 2 ^ 40) && decide (2 ^ 10 ≤ s.psto2 ∧ s.psto2 ≤ 2 ^ 40)
    && decide (2 ^ 10 ≤ s.ring.rto ∧ s.ring.rto ≤ 2 ^ 40)
    && decide (1 ≤ bits s.distributor 0 4 ∧ bits s.distributor 0 4 ≤ 8)

/-- A boundary window is open only in an exchange superstep (09 R191). -/
def State.windowOk (s : State) : Bool := s.window == .closed || s.phase.getLsbD 0

/-- What no instruction of a thread changes: the state with memory, cores, contexts and everything in flight left out.
PHASE, the registers of the phase controller, of the distributor, of the ring and of the fabric, the boundary window, the
boot state, the requests on contexts and the clock remain. -/
def State.fixed (s : State) : State :=
  { s with
    gddr := [], gddrStart := [], gddrErr := [], remote := [], remoteStart := [], tlb := [], cores := [], ctxs := []
    deposits := [], arrivals := [], nextId := 0, queues := [], launches := [], loss := [], outbox := [], saves := [] }

/-- The run does not stop within n steps. -/
def State.runs (n : Nat) (s : State) : Prop := ∃ t, Host.Core.run core n s = .next t

/-! What an instruction leaves unchanged. -/

/-- A part of the state that an instruction of a thread may change. Of the issuing thread: a register (value, empty,
taint and error mark), flags, format, active lanes, engine counters and pending bits, open traces, register blocks, the program
(splits, records and exited lanes of a group; whether a control thread runs). Of the issuing context on the issuing core:
decision queue, wing pairs and barrier objects, free list of the graph pool. Of the issuing core: slice, pending results,
engine operations, claims, matrix engine, workgroups, instruction store with every context's tokens. Of the device: the
issuing context's device-wide state, deposits and arrivals in flight, launch queues, the cached translations, the numbering
of what is in flight. -/
inductive Part where
  | s (r : Nat)
  | v (r : Nat)
  | m (r : Nat)
  | flags
  | fmt
  | lanes
  | counts
  | traces
  | blocks
  | program
  | queue
  | wings
  | pool
  | slice
  | results
  | operations
  | claims
  | matrix
  | workgroups
  | store
  | context
  | flight
  | launches
  | translations
  | ids
  deriving DecidableEq, Repr

/-- The state with a part blanked; x is the issuing thread. -/
def State.blank (s : State) (x : Iss) : Part → State
  | .s r => s.modUni x fun u => { u with
      s := u.s.set r 0, sEmpty := u.sEmpty &&& ~~~(1#128 <<< r), sTaint := u.sTaint &&& ~~~(1#128 <<< r)
      sErr := u.sErr &&& ~~~(1#128 <<< r) }
  | .v r => if x.isCt then s else s.modIssGroup x fun g => { g with
      v := g.v.set r [], vEmpty := g.vEmpty &&& ~~~(1#384 <<< r), vTaint := g.vTaint &&& ~~~(1#384 <<< r)
      vErr := AMap.erase g.vErr r }
  | .m r => s.modUni x fun u => { u with m := u.m.set r 0 }
  | .flags => if x.isCt then s else s.modIssGroup x fun g => { g with fflags := 0 }
  | .fmt => s.modFlow x fun f => { f with fmt := 0 }
  | .lanes => if x.isCt then s else s.modIssGroup x fun g => g.modSplit x.entry fun sp => { sp with exec := 0 }
  | .counts => s.modUni x fun u => { u with counts := [], pend := 0 }
  | .traces => s.modUni x fun u => { u with traces := [] }
  | .blocks => if x.isCt then s else s.modIssGroup x fun g => { g with
      blocks := 0, v := [], vEmpty := 0, vTaint := 0, vErr := [] }
  | .program =>
    if x.isCt then s.modCctx x.core x.ctx fun c => { c with running := false, exited := false }
    else s.modIssGroup x fun g => { g with splits := [], recs := [], exited := 0 }
  | .queue => s.modCctx x.core x.ctx fun c => { c with dq := [], pops := [] }
  | .wings => s.modCctx x.core x.ctx fun c => { c with wings := [], objs := [] }
  | .pool => s.modCctx x.core x.ctx fun c => { c with freeNext := 0, freeTail := [] }
  | .slice => s.modCore x.core fun c => { c with slice := [], poison := [] }
  | .results => s.modCore x.core fun c => { c with results := [] }
  | .operations => s.modCore x.core fun c => { c with ops := [] }
  | .claims => s.modCore x.core fun c => { c with claims := [] }
  | .matrix => s.modCore x.core fun c => { c with mat := Matrix.reset }
  | .workgroups => s.modCore x.core fun c => { c with wgs := [] }
  | .store => s.modCore x.core fun c =>
      { c with images := [], fills := [], cctx := c.cctx.map fun (d : CoreCtx) => { d with tokens := [] } }
  | .context => s.modCtx x.ctx fun _ => Ctx.reset
  | .flight => { s with deposits := [], arrivals := [] }
  | .launches => { s with queues := [] }
  | .translations => { s with tlb := [] }
  | .ids => { s with nextId := 0 }

/-- The state with the parts listed blanked, and with the issuing thread's program counter, loops and wait. -/
def State.outside (s : State) (x : Iss) (ps : List Part) : State :=
  ps.foldl (fun s p => s.blank x p) (s.modFlow x fun f => { f with pc := ⟨0, 0⟩, loops := [] })

/-- FRAME. From s to t the issuing thread x changes its program counter, its loops and what it waits for, and the parts
listed; everything else, memory, registers, cores and contexts, is the same. -/
def Unchanged (s t : State) (x : Iss) (ps : List Part) : Prop := t.outside x ps = s.outside x ps

/-! What an instruction does once its shared checks are passed. -/

/-- The course of an instruction: what its shared checks need, its own condition on the state and operands, the next state,
and the parts that change. -/
structure Course where
  req : Req
  own : Prop := True
  next : State
  parts : List Part := []

/-- COMPLETION AND FRAME. For every state and issuing thread x that pass the shared checks of the instruction (`Ready`) and
its own condition, the instruction answers the next state of its course, which differs from the state before in the parts
that the course lists and in nothing else. -/
def Runs (i : Instr) (c : State → Iss → Course) : Prop :=
  ∀ s x, Ready (c s x).req s x → (c s x).own → exec i s = .next (c s x).next ∧ Unchanged s (c s x).next x (c s x).parts

/-- COMPLETION alone, for an instruction whose effect reaches other threads: the next state is given whole. -/
def Answers (i : Instr) (c : State → Iss → Course) : Prop :=
  ∀ s x, Ready (c s x).req s x → (c s x).own → exec i s = .next (c s x).next

/-- COMPLETION of an event: in every state that meets a condition it answers the state given. -/
def Happens (e : Instr) (own : State → Prop) (next : State → State) : Prop :=
  ∀ s, own s → exec e s = .next (next s)

/-- What fetching asks of a token that is there: its image, with tokens settled (17 R279, R280). -/
def State.residentImage (s : State) (x : Iss) (t : BitVec 12) : Option Image :=
  let s := s.settleTokens x.core
  match (s.token x.core x.ctx t).state with
  | .resident => s.codeImage x.core x.ctx t
  | .evictPending => s.codeImage x.core x.ctx t
  | _ => none

/-- No group of core k is held in a joint or a repack latch. -/
def State.noLatch (s : State) (k : Nat) : Prop :=
  ∀ c g, s.core? k = some c → some g ∈ c.groups → g.held Wait.isJoint = none ∧ g.held Wait.isRpak = none

end Sys2Proof.Machine
end

