-- ==== Sys2Proof/Certificates/Slice0/Obligations.lean ====
section
/-! DEFINITION. The statements for the provers, and the terms they are written in. -/
namespace Sys2Proof.Machine

/-! Courses that many instructions share. -/

/-- The instruction only goes on. -/
def goesOn (r : Req) (len : Nat) (s : State) (x : Iss) : Course := { req := r, next := s.advance x len }
/-- It writes s[D]. -/
def writesS (r : Req) (len : Nat) (d : BitVec 9) (v : DWord) (s : State) (x : Iss) : Course :=
  { req := r, next := (s.setS x d v).advance x len, parts := [.s (sNum d)] }
/-- It writes the whole mask m[D]. -/
def writesM (r : Req) (len : Nat) (d : BitVec 9) (m : LaneSet) (s : State) (x : Iss) : Course :=
  { req := r, next := (s.setM x d m).advance x len, parts := [.m (bits d 0 4)] }
/-- It writes the selected lanes of the mask m[D]. -/
def writesLanes (r : Req) (len : Nat) (d : BitVec 9) (m : LaneSet) (s : State) (x : Iss) : Course :=
  writesM r len d ((x.uni.mask (bits d 0 4) &&& ~~~x.sel) ||| (m &&& x.sel)) s x
/-- It writes the selected lanes of v[D]. -/
def writesV (r : Req) (len : Nat) (d : BitVec 9) (f : Nat → Word) (taint : Bool) (s : State) (x : Iss) : Course :=
  { req := r, next := (s.setV x d.toNat f taint).advance x len, parts := [.v d.toNat] }
/-- It writes float results to the selected lanes of v[D], and ORs the flags of lanes that are no helper lanes. -/
def writesF (r : Req) (len : Nat) (d : BitVec 9) (f : Nat → FRes) (taint : Bool) (s : State) (x : Iss) : Course :=
  { req := r, parts := [.v d.toNat, .flags]
    next := ((s.setV x d.toNat (fun i => BitVec.ofNat 32 (if x.sel.getLsbD i then (f i).code else 0)) taint).orFlags x
      (flagsOf x.active (x.laneRes f))).advance x len }

/-! The integer results of rows 0x1 and 0x3 (03 Table 3.4, R63; 06 Table 6.2, R119), on bit vectors. -/

/-- Ext. -/
def extOf {n : Nat} (u : Bool) (a : BitVec n) : Int := if u then (a.toNat : Int) else a.toInt
/-- The mask of len bits at pos, within n bits. -/
def fieldMask (n pos len : Nat) : BitVec n := (BitVec.allOnes n >>> (n - len)) <<< pos

/-- The exact result r of an operation on N-bit operands; choose is the choice of a select. -/
def exactInt {n : Nat} (op : IntOp) (u : Bool) (sub : Nat) (choose : Bool) (a b c : BitVec n) : Int :=
  let x := extOf u a
  let y := extOf u b
  let pos := b.toNat % 64 % n
  let len := min (b.toNat / 256 % 128) n
  match op with
  | .add => x + y
  | .sub => x - y
  | .mul => if sub = 0 then x * y else x * y / 2 ^ n
  | .div =>
    if b = 0 then (if sub = 0 then (BitVec.allOnes n).toNat else x)
    else if sub = 0 then x.tdiv y else x.tmod y
  | .and => (a &&& b).toNat
  | .or => (a ||| b).toNat
  | .xor => (a ^^^ b).toNat
  | .shl => (a <<< (b.toNat % n)).toNat
  | .shr => if u then (a >>> (b.toNat % n)).toNat else (a.sshiftRight (b.toNat % n)).toInt
  | .min => if x ≤ y then x else y
  | .max => if x ≤ y then y else x
  | .cmp => if (match sub with
      | 0 => a == b | 1 => a != b | 2 => decide (x < y) | 3 => decide (x ≤ y) | 4 => decide (y < x) | _ => decide (y ≤ x))
    then 1 else 0
  | .sel => if choose then x else y
  | .bfx => if len = 0 then 0 else extOf u ((a >>> pos).setWidth len)
  | .bfi => ((a &&& ~~~(fieldMask n pos len)) ||| ((c <<< pos) &&& fieldMask n pos len)).toNat
  | .bit => match sub with
    | 0 => (List.range n).countP fun i => a.getLsbD i
    | 1 => (List.range n).countP fun i => decide (a.toNat < 2 ^ i)
    | 2 => (List.range n).countP fun i => decide (a.toNat % 2 ^ (i + 1) = 0)
    | _ => a.reverse.toNat
  | .mad => x * y + extOf u c

/-- The N-bit result: clamped to MinOf and MaxOf with SAT, and truncated. -/
def intValue {n : Nat} (op : IntOp) (u sat : Bool) (sub : Nat) (choose : Bool) (a b c : BitVec n) : BitVec n :=
  let r := exactInt op u sub choose a b c
  let lo : Int := if u then 0 else (BitVec.intMin n).toInt
  let hi : Int := if u then (BitVec.allOnes n).toNat else (BitVec.intMax n).toInt
  BitVec.ofInt n (if sat then max lo (min r hi) else r)

/-- What a row 0x1 instruction writes to s[D] (03 R63): with W = 1 it works on the low words and extends the result. -/
def uniValue (op : IntOp) (o : Op) (x : Iss) : DWord :=
  let choose := (x.uni.mask (bits o.c.reg 0 4) &&& x.sel) != 0
  let a := x.s o.a.reg
  let b := x.uniB o
  let c := x.s o.c.reg
  if w32F o then
    let r : Word := intValue op (unsF o) (satF o) (subF o) choose a.lo b.lo c.lo
    if unsF o then r.setWidth 64 else r.signExtend 64
  else intValue op (unsF o) (satF o) (subF o) choose a b c

/-- Lane i of a row 0x3 result (06 R119): A and B with the cross-lane block applied, C without. -/
def laneValue (op : IntOp) (o : Op) (x : Iss) (i : Nat) : Word :=
  intValue op (unsF o) (satF o) (subF o) ((x.uni.mask (bits o.c.reg 0 4)).getLsbD i) (x.val o false i) (x.valB o i)
    (x.lane o.c.reg i)

/-- What a scalar special register of Table 3.2 holds for a thread, register by register. A group slot is one of six behind
its partition: slot = 6 %part + %gslot. -/
def State.special (s : State) (x : Iss) (n : Nat) : DWord :=
  let wg := fun (f : Workgroup → DWord) => match x.grp, s.core? x.core with
    | some g, some c => (match c.wgs.get? g.wg with | some w => f w | none => 0)
    | _, _ => 0
  let iterations := fun (k : Nat) => let l := x.flow.loops.getD k LoopReg.zero; if l.active then l.remaining.setWidth 64 else 0
  match n, x.grp with
  | 0x04, _ => 0#32 ++ x.flow.fmt
  | 0x05, some g => 0#59 ++ g.fflags
  | 0x06, some g => 0#48 ++ g.gang
  | 0x07, some g => BitVec.ofNat 64 ((if g.recs.any fun r => r.any fun r => r.deferred != 0 then 2 ^ 9 else 0)
      + 2 ^ 4 * (g.splits.countP Option.isSome) + x.entry)
  | 0x08, some g => BitVec.ofNat 64 g.blocks
  | 0x0C, _ => iterations 0
  | 0x0D, _ => iterations 1
  | 0x0E, _ => iterations 2
  | 0x0F, _ => iterations 3
  | 0x10, _ => BitVec.ofNat 64 x.core
  | 0x11, _ => BitVec.ofNat 64 (x.slot / 6)
  | 0x12, _ => BitVec.ofNat 64 (x.slot % 6)
  | 0x13, _ => BitVec.ofNat 64 x.ctx
  | 0x14, _ => wg fun w => BitVec.ofNat 64 w.wgid
  | 0x15, some g => BitVec.ofNat 64 g.gidx
  | 0x16, _ => wg fun w => w.cpos
  | 0x17, _ => wg fun w => w.launch
  | _, _ => 0

/-- The byte that read number `read` of an operation takes at an address: one that it has taken before its other bytes (08
R182), or the one that is there now. -/
def taken (early : List Sample) (read at_ : Nat) (now : Byte) : Byte :=
  ((early.find? fun e => e.read == read && e.at_ == at_).map Sample.byte).getD now

/-- The course of a row 0x1 instruction that writes an s register. -/
def uniRow (op : IntOp) (readsB readsC : Bool) (o : Op) (s : State) (x : Iss) : Course :=
  writesS (uReq o readsB readsC false) (opLen o) o.d (uniValue op o x) s x
/-- The course of a row 0x3 instruction that writes a v register. -/
def intRow (op : IntOp) (readsB readsC : Bool) (o : Op) (s : State) (x : Iss) : Course :=
  writesV (lReq o readsB readsC false) (opLen o) o.d (laneValue op o x) (x.anyTaint (laneReads o readsB readsC)) s x
/-- The course of a row 0x4 instruction that writes a v register. -/
def floatRow (op : FloatOp) (readsB readsC : Bool) (o : Op) (s : State) (x : Iss) : Course :=
  writesF (lReq o readsB readsC false) (opLen o) o.d (fLane op o x) (x.anyTaint (laneReads o readsB readsC)) s x

end Sys2Proof.Machine

open Sys2Proof Sys2Proof.Machine

/-! Registers: rows 0x1 to 0x6. -/

/-- 03 R63: what each row 0x1 instruction writes to s[D], and that it changes nothing else. -/
def Sys2Proof.Machine.Claims.UniformIntegerResults : Prop := ∀ o : Op,
  Runs (.sadd o) (uniRow .add true false o) ∧ Runs (.ssub o) (uniRow .sub true false o)
    ∧ Runs (.smul o) (uniRow .mul true false o) ∧ Runs (.sdiv o) (uniRow .div true false o)
    ∧ Runs (.sand o) (uniRow .and true false o) ∧ Runs (.sor o) (uniRow .or true false o)
    ∧ Runs (.sxor o) (uniRow .xor true false o) ∧ Runs (.sshl o) (uniRow .shl true false o)
    ∧ Runs (.sshr o) (uniRow .shr true false o) ∧ Runs (.smin o) (uniRow .min true false o)
    ∧ Runs (.smax o) (uniRow .max true false o) ∧ Runs (.ssel o) (uniRow .sel true false o)
    ∧ Runs (.sbfx o) (uniRow .bfx true false o) ∧ Runs (.sbfi o) (uniRow .bfi true true o)
    ∧ Runs (.sbit o) (uniRow .bit false false o)
    ∧ Runs (.scmp o) fun s x => writesM (uReq o true false true) (opLen o) o.d
        (if uniValue .cmp o x = 1 then LaneSet.all else 0) s x

/-- 03 R64, R65, R69, R70; 08 R169; 09 R189: moves, the address of an operand, halves of masks, the clock, identity, engine
counters and PHASE. -/
def Sys2Proof.Machine.Claims.UniformMoveResults : Prop :=
  (∀ o : Op,
    Runs (.smov o) (fun s x => writesS
      { Req.plain o.g with reads := if immBit o then [] else [rdS o.a], writes := [atS o.d] } (opLen o) o.d
      (if immBit o then x.uniB o else x.s o.a.reg) s x)
    ∧ Runs (.mtos o) (fun s x => writesS
        { g := o.g, phase := .C, who := .group, reads := [], writes := [atS o.d] } 8 o.d
        ((x.uni.mask (bits o.a.reg 0 4)).extractLsb' (if o.fn.getLsbD 0 then 64 else 0) 64) s x)
    ∧ Runs (.stom o) (fun s x => writesM
        { g := o.g, phase := .C, who := .group, reads := [rdS o.a, rdS o.b], writes := [], md := some o.d } 8 o.d
        (x.s o.b.reg ++ x.s o.a.reg) s x)
    ∧ Runs (.sclk o) (fun s x => writesS { Req.plain o.g with writes := [atS o.d] } 8 o.d s.clock s x)
    ∧ Runs (.sid o) (fun s x => writesS
        { Req.plain o.g with writes := [atS o.d], extra := s.sprAllowed (0x10 + o.fn.toNat) } 8 o.d
        (s.special x (0x10 + o.fn.toNat)) s x)
    ∧ Runs (.wcnt o) (fun s x => writesS { Req.plain o.g with writes := [atS o.d] } 8 o.d
        (BitVec.ofNat 64 (x.uni.count (bits o.fn 0 3)).val) s x)
    ∧ Runs (.pcnt o) (fun s x => writesS { Req.plain o.g with writes := [atS o.d] } 8 o.d s.phase s x))
  ∧ ∀ o : M64, Runs (.slea o) fun s x => writesS
      { Req.plain o.g with reads := addrReads o .s, writes := [atS o.d] } 8 o.d
      (BitVec.ofInt 64 (((x.uni.get o.base.toNat).toNat
        + (if o.x = 0x3FF#10 then 0 else ((x.s (o.x.extractLsb' 0 9)).toNat : Int)) + o.off.toInt) % 2 ^ 48)) s x

/-- 03 R63: what each row 0x1 instruction writes to s[D], and that it changes nothing else. 03 R64, R65, R69, R70; 08
R169; 09 R189: moves, the address of an operand, halves of masks, the clock, identity (Table 3.2 from 0x10 on, register
by register), engine counters and PHASE. The model's own here: which agent moves next, and how long everything takes
(log 4, DESIGN CHOICE). -/
def Obligations.UniformResults : Prop :=
  Claims.UniformIntegerResults ∧ Claims.UniformMoveResults

/-- 06 R119: what each row 0x3 instruction writes to the selected lanes of v[D] or of m[D], and that it changes nothing
else. -/
def Obligations.VectorIntegerResults : Prop := ∀ o : Op,
  Runs (.iadd o) (intRow .add true false o) ∧ Runs (.isub o) (intRow .sub true false o)
    ∧ Runs (.imul o) (intRow .mul true false o) ∧ Runs (.imad o) (intRow .mad true true o)
    ∧ Runs (.iand o) (intRow .and true false o) ∧ Runs (.ior o) (intRow .or true false o)
    ∧ Runs (.ixor o) (intRow .xor true false o) ∧ Runs (.ishl o) (intRow .shl true false o)
    ∧ Runs (.ishr o) (intRow .shr true false o) ∧ Runs (.imin o) (intRow .min true false o)
    ∧ Runs (.imax o) (intRow .max true false o) ∧ Runs (.isel o) (intRow .sel true false o)
    ∧ Runs (.ibfx o) (intRow .bfx true false o) ∧ Runs (.ibfi o) (intRow .bfi true true o)
    ∧ Runs (.ibit o) (intRow .bit false false o)
    ∧ Runs (.icmp o) fun s x => writesLanes (lReq o true false true) (opLen o) o.d
        (LaneSet.ofTest fun i => laneValue .cmp o x i == 1) s x

namespace Sys2Proof.Machine

/-- The number that a finite value is. -/
def FV.rat : FV → Rat
  | .fin neg m e => (if neg then -1 else 1) * (m : Rat) * (2 : Rat) ^ e
  | _ => 0
/-- The value is no NaN and no infinity. -/
def FV.finite : FV → Bool | .nan _ => false | .inf _ => false | _ => true
/-- The order of values that are not NaN, with the infinities at its ends. -/
def FV.below : FV → FV → Prop
  | .inf a, .inf b => a = true ∧ b = false
  | .inf a, _ => a = true
  | _, .inf b => b = false
  | x, y => x.rat < y.rat

/-- Table 6.5 in FP32, but for the numbers that its entries "1 / a", "2^a" and "value" stand for: function, SUB, input,
result, flags. -/
def specialInputs : List (FloatOp × Nat × FV × Nat × FFlags) :=
  let nan := 0x7FC00000
  [(.rcp, 0, .inf true, 0x80000000, fNone), (.rcp, 0, .zero true, 0xFF800000, fDZ), (.rcp, 0, .zero false, 0x7F800000, fDZ),
   (.rcp, 0, .inf false, 0, fNone)]
  ++ [(.rsq, 0, .inf true, nan, fNV), (.rsq, 0, .zero true, 0xFF800000, fDZ), (.rsq, 0, .zero false, 0x7F800000, fDZ),
   (.rsq, 0, .inf false, 0, fNone)]
  ++ [(.sqrt, 0, .inf true, nan, fNV), (.sqrt, 0, .zero true, 0x80000000, fNone), (.sqrt, 0, .zero false, 0, fNone),
   (.sqrt, 0, .inf false, 0x7F800000, fNone)]
  ++ [(.ex2, 0, .inf true, 0, fNone), (.ex2, 0, .zero true, 0x3F800000, fNone), (.ex2, 0, .zero false, 0x3F800000, fNone),
   (.ex2, 0, .inf false, 0x7F800000, fNone)]
  ++ [(.lg2, 0, .inf true, nan, fNV), (.lg2, 0, .zero true, 0xFF800000, fDZ), (.lg2, 0, .zero false, 0xFF800000, fDZ),
   (.lg2, 0, .inf false, 0x7F800000, fNone)]
  ++ [(.sincos, 0, .inf true, nan, fNV), (.sincos, 0, .zero true, 0x80000000, fNone), (.sincos, 0, .zero false, 0, fNone),
   (.sincos, 0, .inf false, nan, fNV)]
  ++ [(.sincos, 1, .inf true, nan, fNV), (.sincos, 1, .zero true, 0x3F800000, fNone),
   (.sincos, 1, .zero false, 0x3F800000, fNone), (.sincos, 1, .inf false, nan, fNV)]

end Sys2Proof.Machine

/-- 06 R121 to R126: what each instruction of row 0x4 writes, and the flags that it ORs. -/
def Sys2Proof.Machine.Claims.FloatCourses : Prop := ∀ o : Op,
  Runs (.fadd o) (floatRow .add true false o) ∧ Runs (.fsub o) (floatRow .sub true false o)
    ∧ Runs (.fmul o) (floatRow .mul true false o) ∧ Runs (.fma o) (floatRow .fma true true o)
    ∧ Runs (.fmin o) (floatRow .min true false o) ∧ Runs (.fmax o) (floatRow .max true false o)
    ∧ Runs (.fdiv o) (floatRow .div true false o) ∧ Runs (.frcp o) (floatRow .rcp false false o)
    ∧ Runs (.frsq o) (floatRow .rsq false false o) ∧ Runs (.fsqrt o) (floatRow .sqrt false false o)
    ∧ Runs (.fex2 o) (floatRow .ex2 false false o) ∧ Runs (.flg2 o) (floatRow .lg2 false false o)
    ∧ Runs (.fsin o) (floatRow .sincos false false o) ∧ Runs (.frnd o) (floatRow .rnd false false o)
    ∧ Runs (.fdp3 o) (fun s x => writesF
        { g := o.g, phase := .C, who := .group, reads := triple o.a ++ triple o.b, writes := [atV o.d],
          extra := tripleOk o.a && tripleOk o.b } 8 o.d
        (fun i => (sumFV ((x.tripleLane o.a o.na i).zipWith FV.mul (x.tripleLane o.b false i)) (x.rm == .rd)).round .f32
          (RCtl.plain x.rm)) (x.anyTaint (triple o.a ++ triple o.b)) s x)
    ∧ Runs (.fcmp o) fun s x =>
        let r := fun i => fcmpFV (fsubF o) (decodeFloat .f32 (flipSign .f32 o.na (x.val o false i).toNat)) (fv32 (x.valB o i))
        { req := lReq o true false true, parts := [.m (bits o.d 0 4), .flags]
          next := ((s.setM x o.d ((x.uni.mask (bits o.d 0 4) &&& ~~~x.sel)
              ||| (LaneSet.ofTest (fun i => (r i).1) &&& x.sel))).orFlags x
            (flagsOf x.active (x.laneRes fun i => ⟨if (r i).1 then 1 else 0, (r i).2⟩))).advance x (opLen o) }

/-- 06 R120 to R122, 05 R102, R103, R107: the elements of row 0x4 as exact sums, products and quotients of what the codes
mean, rounded once; rounding a number that the format holds gives its code and no flag; a minimum and a maximum are one of
their operands, and no number lies beyond them. -/
def Sys2Proof.Machine.Claims.FloatValues : Prop :=
  (∀ (o : Op) (x : Iss) (i : Nat), typeF o = 0 →
    let a := decodeFloat .f32 (if o.na then (x.val o false i).toNat ^^^ 0x80000000 else (x.val o false i).toNat)
    let b := decodeFloat .f32 (x.valB o i).toNat
    let c := decodeFloat .f32 (if o.nc then (x.lane o.c.reg i).toNat ^^^ 0x80000000 else (x.lane o.c.reg i).toNat)
    let rounded := fun (e : Exact) => e.round .f32 (RCtl.plain x.rm)
    fLane .add o x i = rounded (sumFV [a, b] (x.rm == .rd))
    ∧ fLane .sub o x i = rounded (sumFV [a, b.neg] (x.rm == .rd))
    ∧ fLane .mul o x i = rounded (a.mul b).toExact
    ∧ fLane .fma o x i = rounded (sumFV [a.mul b, c] (x.rm == .rd))
    ∧ fLane .div o x i = rounded (divFV a b))
  ∧ (∀ (op : FloatOp) (o : Op) (x : Iss) (i : Nat), typeF o = 1 ∨ typeF o = 2 →
    let f := if typeF o = 1 then FloatFmt.f16 else .bf16
    let elem := fun (v : Word) (neg : Bool) (e : Nat) => if neg then (v.toNat / 65536 ^ e % 65536) ^^^ 0x8000 else v.toNat / 65536 ^ e % 65536
    let one := fun (e : Nat) => floatOp op f x.rm (fsubF o) (elem (x.val o false i) o.na e) (elem (x.valB o i) false e)
      (elem (x.lane o.c.reg i) o.nc e)
    (fLane op o x i).code = (one 0).code + 65536 * (one 1).code ∧ (fLane op o x i).flags = (one 0).flags ||| (one 1).flags)
  ∧ (∀ (f : FloatFmt) (c : RCtl) (code : Nat), f ∈ [FloatFmt.f32, .f16, .bf16] → code < 2 ^ f.width →
    (∀ s, decodeFloat f code ≠ .nan s) → (∀ s, c.sat = true → decodeFloat f code ≠ .inf s) →
    roundFV f c (decodeFloat f code) = ⟨code, fNone⟩)
  ∧ ∀ (f : FloatFmt) (max : Bool) (a b : Nat), (∀ s, decodeFloat f a ≠ .nan s) → (∀ s, decodeFloat f b ≠ .nan s) →
    let r := minMax f max a b
    r.flags = fNone ∧ (r.code = a ∨ r.code = b)
    ∧ (if max then 0 ≤ cmpFV (decodeFloat f r.code) (decodeFloat f a) ∧ 0 ≤ cmpFV (decodeFloat f r.code) (decodeFloat f b)
      else cmpFV (decodeFloat f r.code) (decodeFloat f a) ≤ 0 ∧ cmpFV (decodeFloat f r.code) (decodeFloat f b) ≤ 0)

/-- 06 R124 and Table 6.5: the one-operand functions at special inputs, a NaN and negative numbers included; the reciprocal is
the quotient 1 / a; a power of two with an integral exponent, and its logarithm, are exact; sines and cosines of quarter
turns. -/
def Sys2Proof.Machine.Claims.SpecialInputs : Prop := ∀ (o : Op) (x : Iss) (i : Nat), typeF o = 0 →
  let a := decodeFloat .f32 (if o.na then (x.val o false i).toNat ^^^ 0x80000000 else (x.val o false i).toNat)
  let one := FV.fin false 1 0
  (∀ r ∈ specialInputs, (r.1 = .sincos → fsubF o = r.2.1) → a = r.2.2.1 → fLane r.1 o x i = ⟨r.2.2.2.1, r.2.2.2.2⟩)
  ∧ (∀ f ∈ [FloatOp.rcp, .rsq, .sqrt, .ex2, .lg2, .sincos, .rnd], ∀ s, a = .nan s →
      fLane f o x i = ⟨0x7FC00000, if s then fNV else fNone⟩)
  ∧ (∀ f ∈ [FloatOp.rsq, .sqrt, .lg2], ∀ m e, a = .fin true m e → fLane f o x i = ⟨0x7FC00000, fNV⟩)
  ∧ (∀ s m e, a = .fin s m e → fLane .rcp o x i = (divFV one a).round .f32 (RCtl.plain x.rm))
  ∧ (∀ n : Int, -126 ≤ n → n ≤ 127 → a.finite = true → a.rat = n → fLane .ex2 o x i = ⟨(n + 127).toNat * 2 ^ 23, fNone⟩)
  ∧ (∀ n : Int, a.finite = true → a.rat = (2 : Rat) ^ n →
      (fLane .lg2 o x i).flags = fNone ∧ (decodeFloat .f32 (fLane .lg2 o x i).code).rat = n)
  ∧ ∀ k : Int, a.finite = true → a.rat = (k : Rat) / 4 → k ≠ 0 →
      (fsubF o = 0 → fLane .sincos o x i = ⟨if k % 2 = 0 then (if k < 0 then 0x80000000 else 0)
          else if k % 4 = 1 then 0x3F800000 else 0xBF800000, fNone⟩)
      ∧ (fsubF o = 1 → fLane .sincos o x i = ⟨if k % 2 = 1 then 0 else if k % 4 = 0 then 0x3F800000 else 0xBF800000, fNone⟩)

/-- 06 R123: what fcmp says of two numbers, unordered ones among them, and when it sets NV. -/
def Sys2Proof.Machine.Claims.FloatComparisons : Prop := ∀ (p q : Word),
  let a := fv32 p
  let b := fv32 q
  let un := a.isNan = true ∨ b.isNan = true
  let tells := fun (cond : Nat) (w : Prop) => (fcmpFV cond a b).1 = true ↔ w
  let equal := ¬ un ∧ ¬ a.below b ∧ ¬ b.below a
  tells 0 equal ∧ tells 1 (¬ equal) ∧ tells 2 (¬ un ∧ a.below b) ∧ tells 3 (¬ un ∧ ¬ b.below a)
  ∧ tells 4 (¬ un ∧ b.below a) ∧ tells 5 (¬ un ∧ ¬ a.below b) ∧ tells 6 un ∧ tells 7 (¬ un)
  ∧ ∀ cond < 8, (fcmpFV cond a b).2
      = if (2 ≤ cond ∧ cond ≤ 5 ∧ (a.isNan || b.isNan) = true) ∨ a = .nan true ∨ b = .nan true then fNV else fNone

/-- 06 R125: frnd gives the integral number that its mode selects, exactly and without NX: a SUB of 0 to 3 is RNE, RZ, RD and
RU, and 4 the mode of FMT; a result of magnitude 0 keeps the sign, and an infinity stays. -/
def Sys2Proof.Machine.Claims.IntegralValues : Prop := ∀ (o : Op) (x : Iss) (i : Nat), typeF o = 0 → fsubF o ≤ 4 →
  let a := decodeFloat .f32 (if o.na then (x.val o false i).toNat ^^^ 0x80000000 else (x.val o false i).toNat)
  let mode := if fsubF o = 4 then x.rm else [RMode.rne, .rz, .rd, .ru].getD (fsubF o) .rne
  let r := fLane .rnd o x i
  let down : Int := a.rat.floor
  let up : Int := -(-a.rat).floor
  let tie := a.rat - down = 1 / 2
  let n : Int := match mode with
    | .rz => if a.rat < 0 then up else down
    | .rd => down
    | .ru => up
    | _ => if tie then (if down % 2 = 0 then down else up) else (a.rat + 1 / 2).floor
  (a.finite = true → r.flags = fNone ∧ (decodeFloat .f32 r.code).finite = true ∧ (decodeFloat .f32 r.code).rat = n)
  ∧ (∀ s m e, a = .fin s m e → n = 0 → r.code = if s then 0x80000000 else 0)
  ∧ (∀ s, a = .zero s → r = ⟨if s then 0x80000000 else 0, fNone⟩)
  ∧ ∀ s, a = .inf s → r = ⟨if s then 0xFF800000 else 0x7F800000, fNone⟩

/-- 05 R102: a number that does not overflow rounds to itself, without NX, or to a neighbour in the format, with NX: the nearest,
and of two equally near ones the one whose last bit is 0, under RNE; the one toward zero, below or above under RZ, RD and
RU. -/
def Sys2Proof.Machine.Claims.RoundsToANeighbour : Prop := ∀ (f : FloatFmt) (mode : RMode) (neg : Bool) (m : Nat) (e : Int),
  f ∈ [FloatFmt.f32, .f16, .bf16] → 0 < m →
  let a := (FV.fin neg m e).rat
  let r := roundFV f (RCtl.plain mode) (.fin neg m e)
  let b := (decodeFloat f r.code).rat
  let other := fun (P : Rat → Prop) => ∀ c < 2 ^ f.width, (decodeFloat f c).finite = true → P (decodeFloat f c).rat
  r.flags &&& fOF = 0 →
  (decodeFloat f r.code).finite = true ∧ (r.flags &&& fNX = 0 ↔ b = a)
  ∧ (mode = .rne → other fun d => (b - a).abs ≤ (d - a).abs ∧ ((b - a).abs = (d - a).abs → d ≠ b → r.code % 2 = 0))
  ∧ (mode = .rz → b.abs ≤ a.abs ∧ other fun d => 0 ≤ d * a → d.abs ≤ a.abs → d.abs ≤ b.abs)
  ∧ (mode = .rd → b ≤ a ∧ other fun d => d ≤ a → d ≤ b)
  ∧ (mode = .ru → a ≤ b ∧ other fun d => a ≤ d → b ≤ d)

/-- 06 R121 to R126: the float instructions of row 0x4, with Table 6.5, the conditions of fcmp, the integral values of
frnd, and what a number that the format does not hold rounds to (05 R102). The model's own here: frcp, frsq, fex2, flg2
and fsin (log 14, DEDUCED), the sign of an exact zero sum (log 20, DEDUCED), a quiet NaN beside infinities in fdp3 (log
91, DESIGN CHOICE), the zero of flg2 (log 92, DESIGN CHOICE). -/
def Obligations.VectorFloatResults : Prop :=
  Claims.FloatCourses ∧ Claims.FloatValues ∧ Claims.SpecialInputs ∧ Claims.FloatComparisons ∧ Claims.IntegralValues
    ∧ Claims.RoundsToANeighbour

/-- 05 R110 to R115, 02 R388: what conversions, packing, scaling, classes and parts write. -/
def Sys2Proof.Machine.Claims.ConversionCourses : Prop := ∀ o : Op,
  Runs (.cvt o) (fun s x =>
    let l := x.laneRes (x.cvtLane o)
    let t := x.anyTaint (cvtReads o x.flow.fmt)
    let s1 := (s.setV x o.d.toNat (fun i => BitVec.ofNat 32 (l.getD i ⟨0, fNone⟩).code) t).orFlags x (flagsOf x.active l)
    { req := { g := o.g, phase := .C, who := .group, reads := cvtReads o s.curFmt, writes := cvtWrites o, extra := cvtPairs o }
      own := cwSr (word2 o) x.flow.fmt = true ∨ o.b = Src.zero
      next := (if isU64 (cwDC (word2 o)) then
          s1.setV x (o.d.toNat + 1) (fun i => BitVec.ofNat 32 ((l.getD i ⟨0, fNone⟩).code / 2 ^ 32)) t
        else s1).advance x 12
      parts := [.v o.d.toNat, .v (o.d.toNat + 1), .flags] })
  ∧ Runs (.qpack o) (fun s x =>
    let src := regRange o.a.reg (packCount (cwDC (word2 o))) .v o.a.fe
    { writesF { g := o.g, phase := .C, who := .group, reads := src ++ rndReads o s.curFmt, writes := [atV o.d],
                extra := vecRangeOk o.a.reg (packCount (cwDC (word2 o))) } 12 o.d (x.qpackLane o)
        (x.anyTaint (src ++ rndReads o x.flow.fmt)) s x with
      own := cwSr (word2 o) x.flow.fmt = true ∨ o.b = Src.zero })
  ∧ Runs (.qunpk o) (fun s x =>
    let n := packCount (cwSC (word2 o))
    { req := { g := o.g, phase := .C, who := .group, reads := [rdV o.a], writes := regRange o.d n .v,
               extra := vecRangeOk o.d n }
      next := ((List.range n).foldl (fun s j =>
        s.setVF x (o.d.toNat + j) (x.laneRes (x.qunpkLane o j)) (x.taint o.a.reg)) s).advance x 12
      parts := .flags :: (List.range n).map fun j => .v (o.d.toNat + j) })
  ∧ Runs (.fscl o) (fun s x => writesF
      { g := o.g, phase := .C, who := .group, reads := [rdAny o.a, rdAny o.b], writes := [atV o.d] } 8 o.d
      (fun i => roundFV .f32 (RCtl.plain x.rm) ((fv32 (x.lane o.a.reg i)).scale (x.lane o.b.reg i).toInt))
      (x.taint o.a.reg || x.taint o.b.reg) s x)
  ∧ Runs (.fcls o) (fun s x => writesV
      { g := o.g, phase := .C, who := .group, reads := [rdAny o.a], writes := [atV o.d] } 8 o.d
      (fun i =>
        let f := match elemOf o.fn with | .float f => f | .int _ _ => .f32
        1#32 <<< classBit f (bits (x.lane o.a.reg i) 0 f.width)) (x.taint o.a.reg) s x)
  ∧ Runs (.ffrx o) fun s x => writesF
      { g := o.g, phase := .C, who := .group, reads := [rdAny o.a], writes := [atV o.d] } 8 o.d
      (fun i => splitFloat (o.fn.getLsbD 0) (x.lane o.a.reg i)) (x.taint o.a.reg) s x

/-- 05 R101, R105, R110 to R112, R115: a lane of cvt is the value of its source rounded into the destination; a code of a
16-bit format comes back from FP32; an integer in range becomes itself, and one out of range the nearest bound with NV, but
the low bits, or the bound, and no flag in a narrower integer; qpack puts the conversions of the registers from A on into
the fields of a lane, and qunpk takes them out again; fraction and exponent of ffrx make up the number. -/
def Sys2Proof.Machine.Claims.ConversionValues : Prop :=
  (∀ (o : Op) (x : Iss) (i : Nat) (src dst : FloatFmt),
    let w := word2 o
    elemOfCode (cwSC w) = some (.float src) → elemOfCode (cwDC w) = some (.float dst) → cwX w = false → cwF w = false →
    cwSR w = false → bits o.fn 0 5 = 0 →
    x.cvtLane o i = roundFV dst ⟨RMode.ofRM (cwRM w), cwSAT w, cwSRN w, (x.lane o.b.reg i).toNat⟩
      (decodeFloat src ((x.lane o.a.reg i).toNat % 2 ^ src.width)))
  ∧ (∀ (f : FloatFmt) (c : RCtl) (code : Nat), f ∈ [FloatFmt.f16, .bf16] → c.sat = false → code < 2 ^ 16 →
    (∀ s, decodeFloat f code ≠ .nan s) →
    (roundFV .f32 c (decodeFloat f code)).flags = fNone
    ∧ roundFV f c (decodeFloat .f32 (roundFV .f32 c (decodeFloat f code)).code) = ⟨code, fNone⟩)
  ∧ (∀ (signed : Bool) (n : Nat) (c : RCtl) (v : Int), n ∈ [8, 16, 32, 64] → v.natAbs < 2 ^ 64 →
    let e := Elem.int signed n
    let lo : Int := if signed then -2 ^ (n - 1) else 0
    let hi : Int := if signed then 2 ^ (n - 1) - 1 else 2 ^ n - 1
    let x := FV.mk (decide (v < 0)) v.natAbs 0
    (lo ≤ v → v ≤ hi → e.encode false c x = ⟨(BitVec.ofInt n v).toNat, fNone⟩ ∧ e.encode true c x = e.encode false c x)
    ∧ (v < lo → e.encode false c x = ⟨(BitVec.ofInt n lo).toNat, fNV⟩)
    ∧ (hi < v → e.encode false c x = ⟨(BitVec.ofInt n hi).toNat, fNV⟩)
    ∧ (c.sat = false → e.encode true c x = ⟨(BitVec.ofInt n v).toNat, fNone⟩)
    ∧ (c.sat = true → e.encode true c x = ⟨(BitVec.ofInt n (max lo (min v hi))).toNat, fNone⟩))
  ∧ (∀ (s d : Elem), narrows s d = true ↔ s.isFloat = false ∧ d.isFloat = false ∧ d.bits < s.bits)
  ∧ (∀ (o : Op) (x : Iss) (i j : Nat),
    let w := word2 o
    let n := 32 / codeBits (cwDC w)
    let one := fun (j : Nat) => cwConvert w x.flow.fmt (cwCtl w x.flow.fmt
        ((x.lane o.b.reg i).rotateRight (32 / n * j)).toNat) (x.lane (o.a.reg + BitVec.ofNat 9 j) i).toNat
    (codeBits (cwDC w) = 8 ∨ codeBits (cwDC w) = 16) → j < n → (∀ m < n, (one m).code < 2 ^ (32 / n)) →
    (x.qpackLane o i).code / 2 ^ (32 / n * j) % 2 ^ (32 / n) = (one j).code)
  ∧ (∀ (o : Op) (x : Iss) (i j : Nat),
    let w := word2 o
    let b := codeBits (cwSC w)
    let c : RCtl := if cwF w then ⟨x.rm, fmtSAT x.flow.fmt, 0, 0⟩ else ⟨RMode.ofRM (cwRM w), cwSAT w, 0, 0⟩
    x.qunpkLane o j i = cwConvert w x.flow.fmt c ((x.lane o.a.reg i).toNat / 2 ^ (b * j) % 2 ^ b))
  ∧ ∀ code : Word, (∃ neg m e, decodeFloat .f32 code.toNat = .fin neg m e) →
    let frac := (splitFloat false code).code
    roundFV .f32 RCtl.rne ((decodeFloat .f32 frac).scale (BitVec.ofNat 32 (splitFloat true code).code).toInt)
      = ⟨code.toNat, fNone⟩

/-- 05 R110 to R115, 02 R388: conversions, packing, scaling, classes and parts. The model's own here: conversion to an
integer from an integer (log 15, DEDUCED). -/
def Obligations.ConversionResults : Prop :=
  Claims.ConversionCourses ∧ Claims.ConversionValues

/-- 06 R128 to R130, R133, R137, R138: moves between lanes, derivatives, lane numbers and packing. The model's own here:
the sign of an exact zero sum (log 20, DEDUCED). -/
def Obligations.LaneMoveResults : Prop := ∀ o : Op,
  let moves := fun (i : Instr) (reads : List Opnd) (f : Iss → Nat → Word) =>
    Runs i fun s x => writesV (xlReq o.g reads [atV o.d]) 8 o.d (f x) (x.anyTaint reads) s x
  let amount := fun (x : Iss) => if immBit o then bits o.fn 0 7 else ((x.s o.b.reg).extractLsb' 0 7).toNat
  let derives := fun (i : Instr) (step : Nat) (base : Nat → Nat) =>
    Runs i fun s x => writesF (xlReq o.g [rdV o.a] [atV o.d]) 8 o.d
      (fun j => let b := if o.fn.getLsbD 0 then j - j % 4 else base j
        (sumFV [fv32 (x.lane o.a.reg (b + step)), (fv32 (x.lane o.a.reg b)).neg] (x.rm == .rd)).round .f32
          (RCtl.plain x.rm)) (x.taint o.a.reg) s x
  Runs (.shfl o) (fun s x => writesV { xlReq o.g (laneReads o false false) [atV o.d] with extra := crossOk o } (opLen o)
      o.d (fun i => x.val o false i) (x.anyTaint (laneReads o false false)) s x)
  ∧ moves (.lrot o) (amountReads o) (fun x i => x.lane o.a.reg ((i + amount x) % 128))
  ∧ moves (.lbc o) (amountReads o) (fun x _ => x.lane o.a.reg (amount x))
  ∧ moves (.qswp o) [rdV o.a] (fun x i => x.lane o.a.reg (i ^^^ bits o.fn 0 2))
  ∧ moves (.mget o) [] (fun x i => if (x.maskOf o.a).getLsbD i then (if o.fn.getLsbD 0 then BitVec.allOnes 32 else 1) else 0)
  ∧ moves (.lid o) [] (fun x i => BitVec.ofNat 32 (match bits o.fn 0 2 with
      | 0 => i | 1 => i / 4 | 2 => i % 4 | _ => (List.range i).countP fun j => x.sel.getLsbD j))
  ∧ moves (.lpak o) [rdV o.a] (fun x i =>
      match (((List.range 128).filter fun j => (x.maskOf o.b &&& x.sel).getLsbD j))[i]? with
      | some j => x.lane o.a.reg j
      | none => if o.fn.getLsbD 0 then x.lane o.a.reg i else 0)
  ∧ derives (.qddx o) 1 (fun j => j - j % 2)
  ∧ derives (.qddy o) 2 (fun j => j - j % 4 + j % 2)

/-- 06 R132 to R134: votes, mask logic, counts and places of mask bits. -/
def Sys2Proof.Machine.Claims.MaskResults : Prop := ∀ o : Op,
  Runs (.vote o) (fun s x =>
    let m := x.maskOf o.a
    let all := (List.range 128).all fun i => !x.active.getLsbD i || m.getLsbD i
    let any := (List.range 128).any fun i => x.active.getLsbD i && m.getLsbD i
    writesM (xlReq o.g [] [] (some o.d)) 8 o.d (match o.fn.toNat with
      | 0 => if all then BitVec.allOnes 128 else 0
      | 1 => if any then BitVec.allOnes 128 else 0
      | 2 => if all || !any then BitVec.allOnes 128 else 0
      | _ => m &&& x.active) s x)
  ∧ Runs (.mlog o) (fun s x =>
    let a := x.maskOf o.a
    let b := x.maskOf o.b
    writesLanes (xlReq o.g [] [] (some o.d)) 8 o.d (match o.fn.toNat with
      | 0 => a &&& b | 1 => a ||| b | 2 => a ^^^ b | 3 => a &&& ~~~b | 4 => ~~~a | _ => a) s x)
  ∧ Runs (.mset o) (fun s x => writesLanes (xlReq o.g [rdAny o.a] [] (some o.d)) 8 o.d
      (LaneSet.ofTest fun i => x.lane o.a.reg i != 0) s x)
  ∧ Runs (.mcnt o) (fun s x => writesS (xlReq o.g [] [atS o.d]) 8 o.d
      (BitVec.ofNat 64 ((List.range 128).countP fun i => (x.maskOf o.a &&& x.active).getLsbD i)) s x)
  ∧ Runs (.mfst o) fun s x =>
      let l := (List.range 128).filter fun i => (x.maskOf o.a &&& x.sel).getLsbD i
      writesS (xlReq o.g [] [atS o.d]) 8 o.d
        (BitVec.ofNat 64 ((if o.fn.getLsbD 0 then l.getLast? else l.head?).getD 128)) s x

/-- 06 R135, R136, 05 R108: reductions and prefixes over the lanes that are no helper lanes. -/
def Sys2Proof.Machine.Claims.ReductionResults : Prop := ∀ o : Op,
  let op := bits o.fn 0 3
  let leaves := fun (x : Iss) => (List.range 128).map (x.contribution op o.a.reg)
  Runs (.red o) (fun s x =>
    let r := pairTree (redNode op) 7 ((leaves x).map fun v => ⟨v, fNone⟩)
    { req := xlReq o.g [rdV o.a] [atS o.d], parts := [.s (sNum o.d), .flags]
      next := ((s.setS x o.d (redResult op r.code) (x.taint o.a.reg)).orFlags x r.flags).advance x 8 })
  ∧ Runs (.scan o) fun s x =>
    let run := fun (n : Nat) => ((leaves x).take n).foldl (fun (a : FRes) v =>
      let r := redNode op a.code v
      ⟨r.code, a.flags ||| r.flags⟩) ⟨redIdentity op, fNone⟩
    { req := xlReq o.g [rdV o.a] [atV o.d], parts := [.v o.d.toNat, .flags]
      next := ((s.setV x o.d.toNat (fun i => BitVec.ofNat 32 (run (if o.fn.getLsbD 3 then i else i + 1)).code)
        (x.taint o.a.reg)).orFlags x (run 128).flags).advance x 8 }

namespace Sys2Proof.Machine

/-- The pairwise sum of 2^n FP32 codes from place i 2^n on: each sum exact and rounded by RNE (05 R108). -/
def treeSum (f : Nat → Nat) : Nat → Nat → Nat
  | 0, i => f i
  | n + 1, i => ((sumFV [decodeFloat .f32 (treeSum f n (2 * i)), decodeFloat .f32 (treeSum f n (2 * i + 1))] false).round .f32
      RCtl.rne).code

end Sys2Proof.Machine

/-- 06 R135, R136, Table 6.7, 05 R108: what a reduction of the lanes that take part comes to: for fadd the pairwise sum; for
iadd the sum of the signed lanes; for the minima and maxima of integers the least and the greatest; for fmin and fmax the
least and the greatest lane that is a number, and the canonical NaN where none takes part; the prefixes of iadd, fmin and
fmax. -/
def Sys2Proof.Machine.Claims.ReductionValues : Prop := ∀ (x : Iss) (a : BitVec 9),
  let tree := fun (op : Nat) => (pairTree (redNode op) 7 ((List.range 128).map fun i => ⟨x.contribution op a i, fNone⟩)).code
  let part := (List.range 128).filter fun i => x.active.getLsbD i
  let signed := fun (i : Nat) => (x.lane a i).toInt
  tree 0 = treeSum (fun i => if x.active.getLsbD i then (x.lane a i).toNat else 0x80000000) 7 0
  ∧ redResult 3 (tree 3) = BitVec.ofInt 64 (part.map signed).sum
  ∧ (∀ i ∈ part, (redResult 4 (tree 4)).toInt ≤ signed i ∧ signed i ≤ (redResult 5 (tree 5)).toInt
      ∧ (redResult 6 (tree 6)).toNat ≤ (x.lane a i).toNat ∧ (x.lane a i).toNat ≤ (redResult 7 (tree 7)).toNat)
  ∧ (part ≠ [] → (∃ i ∈ part, (redResult 4 (tree 4)).toInt = signed i) ∧ (∃ i ∈ part, (redResult 5 (tree 5)).toInt = signed i)
      ∧ (∃ i ∈ part, redResult 6 (tree 6) = (x.lane a i).setWidth 64) ∧ ∃ i ∈ part, redResult 7 (tree 7) = (x.lane a i).setWidth 64)
  ∧ (let numbers := part.filter fun i => !(fv32 (x.lane a i)).isNan
    (part = [] → redResult 1 (tree 1) = 0x7FC00000 ∧ redResult 2 (tree 2) = 0x7FC00000)
    ∧ (numbers ≠ [] → (∃ i ∈ numbers, redResult 1 (tree 1) = (x.lane a i).setWidth 64)
        ∧ (∃ i ∈ numbers, redResult 2 (tree 2) = (x.lane a i).setWidth 64))
    ∧ ∀ i ∈ numbers, ¬ (fv32 (x.lane a i)).below (decodeFloat .f32 (tree 1))
        ∧ ¬ (decodeFloat .f32 (tree 2)).below (fv32 (x.lane a i)))
  ∧ (∀ (excl : Bool) (i : Nat), i < 128 →
    let at_ := fun (op : Nat) =>
      ((scanFrom op excl ((List.range 128).map (x.contribution op a)) (redIdentity op) fNone).getD i ⟨0, fNone⟩).code
    let before := part.filter fun j => decide (j < (if excl then i else i + 1)) && !(fv32 (x.lane a j)).isNan
    (before ≠ [] → (∃ j ∈ before, at_ 1 = (x.lane a j).toNat) ∧ (∃ j ∈ before, at_ 2 = (x.lane a j).toNat))
    ∧ ∀ j ∈ before, ¬ (fv32 (x.lane a j)).below (decodeFloat .f32 (at_ 1))
        ∧ ¬ (decodeFloat .f32 (at_ 2)).below (fv32 (x.lane a j)))
  ∧ ∀ (excl : Bool) (i : Nat), i < 128 →
    BitVec.ofNat 32 ((scanFrom 3 excl ((List.range 128).map (x.contribution 3 a)) (redIdentity 3) fNone).getD i ⟨0, fNone⟩).code
      = BitVec.ofInt 32 ((part.filter fun j => decide (j < (if excl then i else i + 1))).map signed).sum

/-- 06 R132 to R134: votes, mask logic, counts and places of mask bits. 06 R135, R136, 05 R108: reductions and prefixes
over the lanes that are no helper lanes. The model's own here: the sign of an exact zero sum (log 20, DEDUCED). -/
def Obligations.MaskAndReductionResults : Prop :=
  Claims.MaskResults ∧ Claims.ReductionResults ∧ Claims.ReductionValues

/-! Memory of the slice: rows 0x2 and 0x7. -/

/-- 03 R66 to R68: a load marks s[D] empty and leaves a result of the bytes at its address; a store writes them. -/
def Sys2Proof.Machine.Claims.UniformMemoryAccess : Prop :=
  (∀ o : M64,
    Runs (.sld o) (fun s x =>
      let n := match bits o.fn 0 3 with | 0 => 1 | 1 => 1 | 2 => 2 | 3 => 2 | 6 => 8 | _ => 4
      let v := ofLE (s.sliceRead x.core (aliasOff (x.addr o 0)) n)
      { req := { Req.plain o.g with reads := addrReads o .s, writes := [atS o.d] }
        own := s.accessCheck x [0] (fun _ => x.addr o 0) n n false = none
        next := (s.pendResult x .load 0 [] [(sNum o.d, match bits o.fn 0 3 with
            | 1 => (BitVec.ofNat 8 v).signExtend 64
            | 3 => (BitVec.ofNat 16 v).signExtend 64
            | 5 => (BitVec.ofNat 32 v).signExtend 64
            | _ => BitVec.ofNat 64 v)] false none).advance x 8
        parts := [.s (sNum o.d), .results, .ids] })
    ∧ Runs (.sst o) (fun s x =>
      let n := 2 ^ bits o.fn 0 2
      { req := { Req.plain o.g with reads := atS o.d :: addrReads o .s }
        own := x.active ≠ 0 ∧ s.accessCheck x [0] (fun _ => x.addr o 0) n n true = none
        next := (s.sliceWrite x.core (aliasOff (x.addr o 0)) (toLE n (x.s o.d).toNat)).advance x 8
        parts := [.slice] })
    ∧ Runs (.sst o) (fun s x =>
      { goesOn { Req.plain o.g with reads := atS o.d :: addrReads o .s } 8 s x with own := x.active = 0 }))
  ∧ ∀ o : Op,
    let lane := fun (x : Iss) => if immBit o then ((x.s o.b.reg).extractLsb' 0 7).toNat else bits o.fn 0 7
    let req : Req := { g := o.g, phase := .C, who := .group, reads := rdV o.a :: (if immBit o then [rdS o.b] else []),
                       writes := [atS o.d], own := true }
    let good := fun (x : Iss) => immBit o = false ∨ x.inError x.sel o.b.reg = 0
    let bad := fun (x : Iss) => x.inError (1#128 <<< lane x) o.a.reg
    Runs (.vtos o) (fun s x =>
      { req := req, own := good x ∧ bad x = 0
        next := (s.pendResult x .vtos 0 [] [(sNum o.d, (x.lane o.a.reg (lane x)).setWidth 64)] false none).advance x 8
        parts := [.s (sNum o.d), .results, .ids] })
    ∧ Answers (.vtos o) fun s x =>
      { req := req, own := isS o.a.reg = false ∧ good x ∧ bad x ≠ 0
        next := (s.countEcc x.core).raise x
          { cause := 0x1B, flanes := bad x, taddr := o.a.reg.toNat, detail := 0x200 } }

namespace Sys2Proof.Machine

/-- The course of a load of n bytes a lane (07 R144, R146): D and its register group become empty, and a result holds the
bytes at each selected lane's address. -/
def loadCourse (row : Bool) (n : Nat) (signed taint : Bool) (o : M64) (s : State) (x : Iss) : Course :=
  { req := mReq o (if row then .s else .any) 0 (accRegs n) (accRegs n)
    own := s.accessCheck x x.sel.toList (laneAddr x o row n) n n false = none
    next := (s.pendResult x .load x.sel ((List.range (accRegs n)).map fun j =>
      (o.d.toNat + j, (List.range 128).map fun i =>
        let v := if x.sel.getLsbD i then ofLE (s.sliceRead x.core (aliasOff (laneAddr x o row n i)) n) else 0
        if n < 4 ∧ signed = true then (if n = 1 then (BitVec.ofNat 8 v).signExtend 32 else (BitVec.ofNat 16 v).signExtend 32)
        else BitVec.ofNat 32 (v / 2 ^ (32 * j)))) [] taint none).advance x 8
    parts := (List.range (accRegs n)).map (fun j => .v (o.d.toNat + j)) ++ [.results, .ids] }

/-- The course of a store of n bytes a lane (07 R145, R146): the selected lanes that are no helper lanes store in ascending
order. -/
def storeCourse (row : Bool) (n : Nat) (o : M64) (s : State) (x : Iss) : Course :=
  { req := mReq o (if row then .s else .any) (accRegs n) 0 (accRegs n)
    own := s.accessCheck x x.active.toList (laneAddr x o row n) n n true = none
    next := (x.active.toList.foldl (fun s i => s.sliceWrite x.core (aliasOff (laneAddr x o row n i))
      (toLE n (x.laneBytes o.d n i))) s).advance x 8
    parts := [.slice] }

/-- The byte of a core's slice at an offset. -/
def State.sliceByte (s : State) (k off : Nat) : Byte := match s.core? k with | some c => c.slice.read off | none => 0

end Sys2Proof.Machine

/-- 07 R144 to R146, R159, R160, R162: loads, stores, fence and tclr. -/
def Sys2Proof.Machine.Claims.VectorMemoryAccess : Prop :=
  (∀ o : M64,
    let t := bits o.fn 0 3
    let wide := match t with | 0 => 1 | 1 => 1 | 2 => 2 | 3 => 2 | 4 => 4 | 5 => 8 | _ => 16
    Runs (.ld o) (loadCourse false wide (decide (t = 0 ∨ t = 2)) false o)
    ∧ Runs (.ldc o) (loadCourse false wide (decide (t = 0 ∨ t = 2)) true o)
    ∧ Runs (.lda o) (loadCourse false wide false false o)
    ∧ Runs (.ldw o) (loadCourse true (2 ^ bits o.fn 0 2) (o.fn.getLsbD 2) false o)
    ∧ Runs (.st o) (storeCourse false (2 ^ bits o.fn 0 3) o)
    ∧ Runs (.stl o) (storeCourse false (2 ^ bits o.fn 0 3) o)
    ∧ Runs (.stw o) (storeCourse true (2 ^ bits o.fn 0 2) o))
  ∧ ∀ o : Op,
    Runs (.fence o) (goesOn { g := o.g, phase := .C, who := .group, reads := [], writes := [] } 8)
    ∧ Runs (.tclr o) fun s x =>
      { req := { g := o.g, phase := .C, who := .group, reads := [], writes := [⟨o.d, .any, false⟩] }
        next := (s.clearTaint x o.d).advance x 8
        parts := [if isS o.d then .s (sNum o.d) else .v o.d.toNat] }

/-- 03 R66 to R68: a load marks s[D] empty and leaves a result of the bytes at its address; a store writes them; vtos
reads one lane, and meets an error only in that lane (24 R349). 07 R144 to R146, R159, R160, R162: loads, stores, fence
and tclr. An access that is performed later than its instruction issues is withheld by the step, not here
(StepRunsDecoded). The model's own here: when memory is read and written (log 5, DESIGN CHOICE), row addresses of ldw
and stw (log 29, DEDUCED), atomics and stores without a lane that acts (log 30, DEDUCED). -/
def Obligations.MemoryAccess : Prop :=
  Claims.UniformMemoryAccess ∧ Claims.VectorMemoryAccess

/-- 07 R147 to R154, 02 R388: a load through a buffer record, and a store; a store whose selected lanes are all helper
lanes; a nonzero C of a store whose record does not round stochastically. -/
def Sys2Proof.Machine.Claims.RecordCourses : Prop := ∀ o : Op,
  Runs (.ldb o) (fun s x =>
    let r := s.recordOf x (recNum o)
    let f := fun i => match recCoords r (x.coords o i) with
      | none => ⟨(recFill r).toNat, fNone⟩
      | some c => recLoad r (s.sliceRead x.core (aliasOff (recAddr r (s.allocBase x) c)) (recSize r)) (c.getD 0 0 % 32)
    { req := { g := o.g, phase := .C, who := .group, reads := coordReads o, writes := [atV o.d],
               extra := vecRangeOk o.a.reg (recNc o) }
      own := recOk r = true ∧ s.recordCheck x o r x.sel.toList false = none
      next := ((s.pendResult x .load x.sel [(o.d.toNat, (x.laneRes f).map fun y => BitVec.ofNat 32 y.code)] [] false
        none).orFlags x (flagsOf x.active (x.laneRes f))).advance x 12
      parts := [.v o.d.toNat, .flags, .results, .ids] })
  ∧ Runs (.stb o) (fun s x =>
    let r := s.recordOf x (recNum o)
    let at_ := fun i => recCoords r (x.coords o i)
    let here := fun i => (at_ i).isSome && x.active.getLsbD i
    let l := x.laneRes fun i => if here i then recStore r (x.lane o.d i) (if recRnd r = 4 then x.lane o.c.reg i else 0)
      else ⟨0, fNone⟩
    { req := { g := o.g, phase := .C, who := .group,
               reads := atV o.d :: coordReads o ++ (if s.stbSr o then [rdV o.c] else []), writes := [],
               extra := vecRangeOk o.a.reg (recNc o) }
      own := x.active ≠ 0 ∧ recStoreOk r = true ∧ (recRnd r = 4 ∨ o.c = Src.zero)
        ∧ s.recordCheck x o r x.active.toList true = none
      next := (((x.active.toList.filter fun i => (at_ i).isSome).foldl (fun s i => s.sliceWrite x.core
          (aliasOff (recAddr r (s.allocBase x) ((at_ i).getD []))) (toLE (recSize r) (l.getD i ⟨0, fNone⟩).code)) s).orFlags
        x (flagsOf x.active l)).advance x 12
      parts := [.slice, .flags] })
  ∧ Runs (.stb o) (fun s x =>
    { goesOn { g := o.g, phase := .C, who := .group,
               reads := atV o.d :: coordReads o ++ (if s.stbSr o then [rdV o.c] else []), writes := [],
               extra := vecRangeOk o.a.reg (recNc o) } 12 s x with
      own := x.active = 0 ∧ (recRnd (s.recordOf x (recNum o)) = 4 ∨ o.c = Src.zero) })
  ∧ Answers (.stb o) fun s x =>
    { req := { g := o.g, phase := .C, who := .group,
               reads := atV o.d :: coordReads o ++ (if s.stbSr o then [rdV o.c] else []), writes := [],
               extra := vecRangeOk o.a.reg (recNc o) }
      own := (x.active = 0 ∨ recStoreOk (s.recordOf x (recNum o)) = true) ∧ recRnd (s.recordOf x (recNum o)) ≠ 4
        ∧ zeroS o.c = false
      next := s.raise x { cause := 2, flanes := if x.active = 0 then x.sel else x.active } }

/-- 07 R151, R153: where ENC and VIEW are one code and nothing scales or offsets, an element passes unchanged: what stb
stores of a lane is what ldb loads again. -/
def Sys2Proof.Machine.Claims.RecordValues : Prop := ∀ (r : RecBits) (lane rnd : Word) (j : Nat),
  recPass r = true → recCmp r = 0 → recCode (recEnc r) = true →
  let n := codeBits (recEnc r)
  let q := lane.toNat % 2 ^ n
  let signed := recEnc r = 0x02#8 ∨ recEnc r = 0x04#8 ∨ recEnc r = 0x06#8
  recStore r lane rnd = ⟨q, fNone⟩ ∧ recSize r = n / 8
  ∧ ∀ m, recLoad r (toLE (recSize r) q) j = m →
    m.flags = fNone ∧ BitVec.ofNat 32 m.code = if signed then BitVec.ofInt 32 (BitVec.ofNat n q).toInt else BitVec.ofNat 32 q

/-- 07 R147 to R154: a load through a buffer record, and a store. The model's own here: when memory is read and written
(log 5, DESIGN CHOICE), conversion to an integer from an integer (log 15, DEDUCED), order of the checks of stb (log 27,
DEDUCED), a nonzero C of stb (log 90, DEDUCED), the zero of a record's conversion (log 100, DESIGN CHOICE). -/
def Obligations.RecordAccess : Prop :=
  Claims.RecordCourses ∧ Claims.RecordValues

/-- 03 R67, 07 R145, R146: a store writes the bytes of its lanes, the highest lane last, and no other byte of memory (in
a state whose memories are canonical, which every step keeps: StepKeepsInvariant). Of stb this says only that no other
byte changes: the bytes that it stores are stated in RecordAccess. The model's own here: what a byte of memory that
nothing has written reads as (log 2, DESIGN CHOICE), when memory is read and written (log 5, DESIGN CHOICE). -/
def Obligations.StoresWriteTheirBytes : Prop :=
  (∀ (o : Op) (s t : State) (x : Iss), s.memoryOk = true → s.iss? s.cur = some x → exec (.stb o) s = .next t →
    let y := { x with sel := guardSel o.g x.uni x.exec }
    let r := s.recordOf x (recNum o)
    let lanes := y.active.toList.filter fun i => (recCoords r (x.coords o i)).isSome
    let at_ := fun i => aliasOff (recAddr r (s.allocBase x) ((recCoords r (x.coords o i)).getD []))
    (∀ off, (∀ l ∈ lanes, off < at_ l ∨ at_ l + recSize r ≤ off) → t.sliceByte x.core off = s.sliceByte x.core off)
    ∧ ∀ k off, k ≠ x.core → t.sliceByte k off = s.sliceByte k off)
  ∧
  let tells := fun (i : Instr) (c : State → Iss → Course) (lanes : Iss → List Nat) (n : Nat) (addr : Iss → Nat → Nat)
      (value : Iss → Nat → Nat) =>
    ∀ s t x, s.memoryOk = true → Ready (c s x).req s x → (c s x).own → exec i s = .next t →
      (∀ off, (∀ l ∈ lanes x, off < aliasOff (addr x l) ∨ aliasOff (addr x l) + n ≤ off) →
        t.sliceByte x.core off = s.sliceByte x.core off)
      ∧ (∀ l ∈ lanes x, ∀ j < n, (∀ m ∈ lanes x, l < m →
          aliasOff (addr x l) + j < aliasOff (addr x m) ∨ aliasOff (addr x m) + n ≤ aliasOff (addr x l) + j) →
        t.sliceByte x.core (aliasOff (addr x l) + j) = BitVec.ofNat 8 (value x l / 256 ^ j))
      ∧ (∀ k off, k ≠ x.core → t.sliceByte k off = s.sliceByte k off) ∧ t.gddr = s.gddr ∧ t.remote = s.remote
  ∀ o : M64,
    (let n := 2 ^ bits o.fn 0 3;
      tells (.st o) (storeCourse false n o) (fun x => x.active.toList) n (fun x => laneAddr x o false n)
        (fun x => x.laneBytes o.d n)
      ∧ tells (.stl o) (storeCourse false n o) (fun x => x.active.toList) n (fun x => laneAddr x o false n)
        (fun x => x.laneBytes o.d n))
    ∧ (let n := 2 ^ bits o.fn 0 2;
      tells (.stw o) (storeCourse true n o) (fun x => x.active.toList) n (fun x => laneAddr x o true n)
        (fun x => x.laneBytes o.d n)
      ∧ tells (.sst o) (fun s x =>
          { goesOn { Req.plain o.g with reads := atS o.d :: addrReads o .s } 8 s x with
            own := x.active ≠ 0 ∧ s.accessCheck x [0] (fun _ => x.addr o 0) n n true = none })
        (fun _ => [0]) n (fun x _ => x.addr o 0) (fun x _ => (x.s o.d).toNat))

namespace Sys2Proof.Machine

/-- The course of an atomic on n bytes whose operands take ops registers from D on (07 R163): each lane that takes part, in
ascending order, reads its word and stores what f makes of it; the words read are the result. -/
def atomCourse (n ops : Nat) (f : Iss → Nat → Nat → Option Nat × FFlags) (o : M64) (s : State) (x : Iss) : Course :=
  let lanes := x.active.toList
  let r := s.atomLanes x.core n (x.addr o) (f x) lanes
  { req := mReq o .any ops (n / 4) ops
    own := x.active ≠ 0 ∧ s.accessCheck x lanes (x.addr o) n n true = none
    next := ((r.s.pendResult x .atomic x.active ((List.range (n / 4)).map fun j =>
        (o.d.toNat + j, (List.range 128).map fun i => BitVec.ofNat 32 (((r.old.find? fun p => p.1 == i).map
          Prod.snd).getD 0 / 2 ^ (32 * j)))) [] false none).orFlags x r.flags).advance x 8
    parts := (List.range (n / 4)).map (fun j => .v (o.d.toNat + j)) ++ [.slice, .results, .ids, .flags] }

end Sys2Proof.Machine

/-- 07 R163 to R166: the atomics, with what each stores in a word w given its operand b (of N bits). -/
def Sys2Proof.Machine.Claims.AtomicCourses : Prop := ∀ o : M64,
  let n := if o.fn.getLsbD 4 then 8 else 4
  let new := fun {w : Nat} (old b : BitVec w) => match bits o.fn 0 4 with
    | 0 => old + b
    | 1 => if old.sle b then old else b
    | 2 => if b.sle old then old else b
    | 3 => if old.ule b then old else b
    | 4 => if b.ule old then old else b
    | 5 => old &&& b
    | 6 => old ||| b
    | 7 => old ^^^ b
    | 8 => b
    | _ => if b.ule old then 0 else old + 1
  Runs (.atom o) (atomCourse n (n / 4) (fun x i w => (some (if n = 8
      then (new (BitVec.ofNat 64 w) (BitVec.ofNat 64 (x.laneBytes o.d 8 i))).toNat
      else (new (BitVec.ofNat 32 w) (BitVec.ofNat 32 (x.laneBytes o.d 4 i))).toNat), fNone)) o)
  ∧ Runs (.acas o) (atomCourse n (n / 2) (fun x i w => (if w = x.laneBytes o.d n i
      then some (x.laneBytes (o.d + BitVec.ofNat 9 (n / 4)) n i) else none, fNone)) o)
  ∧ Runs (.afadd o) (atomCourse 4 1 (fun x i w =>
      let r := addElems (bits o.fn 3 2) w (x.laneBytes o.d 4 i)
      (some r.code, r.flags)) o)

/-- 07 R163: lanes one after the other: a word that one lane alone names ends as f makes it of what it held, and that is what
the lane reports; of a word that a lane names, the next lane that names it sees what that lane left; every byte outside the
words is as before (in a state whose memories are canonical, which every step keeps: StepKeepsInvariant). -/
def Sys2Proof.Machine.Claims.AtomicBytes : Prop := ∀ (s : State) (k n : Nat) (addr : Nat → Nat) (f : AtomFn) (lanes : List Nat),
  s.memoryOk = true → (s.core? k).isSome = true → n = 4 ∨ n = 8 →
  let r := s.atomLanes k n addr f lanes
  let word := fun (t : State) (i : Nat) => ofLE (t.sliceRead k (aliasOff (addr i)) n)
  let apart := fun (i j : Nat) => aliasOff (addr i) + n ≤ aliasOff (addr j) ∨ aliasOff (addr j) + n ≤ aliasOff (addr i)
  (∀ off, (∀ l ∈ lanes, off < aliasOff (addr l) ∨ aliasOff (addr l) + n ≤ off) → r.s.sliceByte k off = s.sliceByte k off)
  ∧ (∀ j off, j ≠ k → r.s.sliceByte j off = s.sliceByte j off)
  ∧ r.old.map Prod.fst = lanes
  ∧ (∀ a i b, lanes = a ++ i :: b → (∀ j ∈ a ++ b, apart i j) → (∀ w v, (f i w).1 = some v → v < 256 ^ n) →
      r.old[a.length]? = some (i, word s i) ∧ word r.s i = ((f i (word s i)).1).getD (word s i))
  ∧ ∀ a i j b, lanes = a ++ i :: j :: b → addr j = addr i → (∀ w v, (f i w).1 = some v → v < 256 ^ n) →
      ∃ w, r.old[a.length]? = some (i, w) ∧ r.old[a.length + 1]? = some (j, ((f i w).1).getD w)

/-- 07 R163 to R166: the atomics, with what each stores in a word w given its operand b (of N bits). The model's own
here: when memory is read and written (log 5, DESIGN CHOICE), atomics and stores without a lane that acts (log 30,
DEDUCED). -/
def Obligations.AtomicAccess : Prop :=
  Claims.AtomicCourses ∧ Claims.AtomicBytes

/-! Control: row 0x0. -/

/-- 02 R25, 04 R80: going on in sequence adds the length to the PC, unless active loops end at it: the most recent of them
counts down and goes back to its start, or ends, and the next most recent is processed in the same way. -/
def Sys2Proof.Machine.Claims.SequentialPc : Prop :=
  (∀ (f : Flow) (len : Nat),
    let ends := fun (i : Nat) => i < 4 ∧ (f.loops.getD i LoopReg.zero).active = true ∧ (f.loops.getD i LoopReg.zero).last = f.pc
    (f.advance len).fmt = f.fmt
    ∧ ((∀ i, ¬ ends i) → f.advance len = { f with pc := ⟨f.pc.token, f.pc.off + BitVec.ofNat 32 len⟩ })
    ∧ ∀ i, ends i → (∀ j, ends j → j ≠ i → (f.loops.getD j LoopReg.zero).order < (f.loops.getD i LoopReg.zero).order) →
      let l := f.loops.getD i LoopReg.zero
      (l.remaining ≠ 1 → f.advance len = { f with
        pc := l.first, loops := f.loops.set i { l with remaining := l.remaining - 1 } })
      ∧ (l.remaining = 1 → f.advance len = Flow.advance { f with
        loops := f.loops.set i { l with active := false, remaining := 0 } } len))
  ∧ ∀ (s : State) (x : Iss) (len : Nat) (pc : Pc),
    (∀ g sp, x.isCt = false → s.group? x.core x.slot = some g → g.split? x.entry = some sp →
      ∃ h q r, (s.advance x len).group? x.core x.slot = some h ∧ h.split? x.entry = some q
        ∧ q = { sp with flow := sp.flow.advance len, wait := .none, urgent := false, since := none, yielded := false }
        ∧ ((s.jump x pc).group? x.core x.slot).bind (fun h => h.split? x.entry) = some r
        ∧ r = { sp with flow := { sp.flow with pc := pc }, wait := .none, urgent := false, since := none, yielded := false })
    ∧ ∀ c, x.isCt = true → s.cctx? x.core x.ctx = some c →
      ∃ d e, (s.advance x len).cctx? x.core x.ctx = some d ∧ (s.jump x pc).cctx? x.core x.ctx = some e
        ∧ (if x.sup then d.sup.flow = c.sup.flow.advance len ∧ e.sup.flow = { c.sup.flow with pc := pc }
          else d.user.flow = c.user.flow.advance len ∧ e.user.flow = { c.user.flow with pc := pc })

/-- 02 R27, 04 R73, R74, R83, R90, R95: nop, the short pad and yield go on, and a split that yields is marked to give way to
another that is ready (DeliveriesEnd says what that does); a branch goes to its target, goes on, or
diverges; a call writes its link and goes to its target. -/
def Sys2Proof.Machine.Claims.BranchCourses : Prop :=
  (∀ o : Op, Runs (.nop o) (goesOn (Req.plain o.g) 8)
    ∧ Runs (.yield o) (fun s x => { goesOn (Req.plain o.g) 8 s x with own := x.isCt = true })
    ∧ Answers (.yield o) fun s x =>
      { req := Req.plain o.g, own := x.isCt = false
        next := (s.advance x 8).modIssGroup x fun g => g.modSplit x.entry fun sp => { sp with yielded := true } })
  ∧ Runs .shortPad (goesOn (Req.plain Guard.none) 4)
  ∧ ∀ o : B64,
    let req : Req := { Req.plain o.g with always := true }
    let off := fun (n : BitVec 16) => 4 * n.toInt
    Runs (.bra o) (fun s x =>
      { req := req, own := (x.isCt = true ∧ x.sel ≠ 0) ∨ (x.isCt = false ∧ x.sel = x.exec)
        next := s.jump x (x.pc.add (off o.t16)) })
    ∧ Runs (.bra o) (fun s x =>
      { req := req, own := x.sel = 0 ∧ (x.isCt = true ∨ x.sel ≠ x.exec), next := s.advance x 8 })
    ∧ (∀ g r sp, Answers (.bra o) fun s x =>
      { req := req
        own := s.group? x.core x.slot = some g ∧ x.isCt = false ∧ x.sel ≠ x.exec ∧ x.sel ≠ 0 ∧ o.j16 ≠ 0
          ∧ firstFree g.recs = some r ∧ g.split? x.entry = some sp
        next := s.modIssGroup x fun g =>
          g.diverge x.entry sp x.sel r (x.pc.add (off o.j16)) (x.pc.add (off o.t16)) (x.pc.add 8) })
    ∧ Runs (.call o) fun s x =>
      { req := { Req.plain o.g with writes := [atS o.d] }, parts := [.s (sNum o.d)]
        next := (s.setS x o.d (0#20 ++ (x.pc.token ++ (x.pc.off + 8)))).jump x (x.pc.add (off o.t16)) }

/-- 02 R25, R27, 04 R73, R74, R80, R83, R90, R95: nop, the short pad and yield go on; a branch goes to its target, goes
on, or diverges; a call writes its link and goes to its target; and what going on is, with the loops that end there. The
model's own here: bra by a split whose %exec is empty (log 11, DEDUCED), loops that end at a call or a loop instruction
(log 88, DEDUCED). -/
def Obligations.BranchesAndCalls : Prop :=
  Claims.SequentialPc ∧ Claims.BranchCourses

/-- 04 R73, R74: a divergence gives the taken lanes to one split and the others to another that shares a new record, or with
the last record, or with no free split entry, keeps them in it; no lane is lost, none is in two places, every other split and
record is as before, and so are registers and memory. -/
def Obligations.DivergenceSplitsLanes : Prop := ∀ (o : B64) (s : State) (x : Iss) (g : Group) (sp : Split) (r : Nat),
  Ready { Req.plain o.g with always := true } s x → s.group? x.core x.slot = some g → x.isCt = false →
  g.split? x.entry = some sp → firstFree g.recs = some r → x.sel ≠ x.exec → x.sel ≠ 0 → o.j16 ≠ 0 →
  let serial := g.freeRecs ≤ 1 ∨ firstFree g.splits = none
  ∃ t h, exec (.bra o) s = .next t ∧ t.group? x.core x.slot = some h
    ∧ { h with splits := g.splits, recs := g.recs } = g
    ∧ (∃ j, h.rec? r = some j ∧ j.join = x.pc.add (4 * o.j16.toInt) ∧ j.expected = sp.owned ∧ j.arrived = 0
        ∧ j.exec = sp.exec ∧ j.parent = sp.innermost ∧ j.fmt = sp.flow.fmt ∧ j.loops = sp.flow.loops
        ∧ (serial → j.deferred = sp.owned &&& ~~~x.sel ∧ j.dpc = x.pc.add 8) ∧ (¬ serial → j.deferred = 0))
    ∧ (∃ a, h.split? x.entry = some a ∧ a.innermost = some r
        ∧ (serial → a.owned = x.sel ∧ a.exec = x.sel ∧ a.flow = { sp.flow with pc := x.pc.add (4 * o.t16.toInt) })
        ∧ (¬ serial → a.owned = sp.owned &&& ~~~x.sel ∧ a.exec = sp.exec &&& ~~~x.sel ∧ a.flow = sp.flow.advance 8))
    ∧ (¬ serial → ∃ f b, firstFree g.splits = some f ∧ h.split? f = some b ∧ b.owned = x.sel ∧ b.exec = x.sel
        ∧ b.innermost = some r ∧ b.flow = { sp.flow with pc := x.pc.add (4 * o.t16.toInt) })
    ∧ (∀ q, q ≠ r → h.rec? q = g.rec? q)
    ∧ (∀ e, e ≠ x.entry → (serial ∨ firstFree g.splits ≠ some e) → h.split? e = g.split? e)
    ∧ (∀ k off, t.sliceByte k off = s.sliceByte k off) ∧ t.gddr = s.gddr ∧ t.remote = s.remote

/-- 04 R75 to R78, R95: join, brk and exit; what the group is after it, with its join event. brk counts its records, and a
control thread traps, whatever lanes are selected; with none selected it then only goes on. -/
def Sys2Proof.Machine.Claims.JoinCourses : Prop := ∀ o : Op,
  (∀ g sp r j, Answers (.join o) fun s x =>
    { req := Req.plain o.g
      own := x.grp = some g ∧ g.split? x.entry = some sp ∧ sp.innermost = some r ∧ g.rec? r = some j ∧ j.join = x.pc
      next := s.joinAfter x fun g =>
        { g with recs := g.recs.set r (some { j with arrived := j.arrived ||| sp.owned }), splits := g.splits.set x.entry none } })
  ∧ Runs (.join o) (fun s x =>
    { req := Req.plain o.g, next := s.advance x 8
      own := x.isCt = true ∨ ∃ g sp, x.grp = some g ∧ g.split? x.entry = some sp
        ∧ (sp.innermost.bind g.rec?).all (fun j => j.join != x.pc) = true })
  ∧ (∀ g sp, Answers (.exit o) fun s x =>
    let f := fun (h : Group) => { h.leave x.entry x.sel with exited := h.exited ||| x.sel }
    { req := { Req.plain o.g with noSup := true }
      own := x.grp = some g ∧ g.split? x.entry = some sp
      next := if sp.owned &&& ~~~x.sel = 0 then s.joinAfter x f else ((s.advance x 8).modIssGroup x f).settleGroup x })
  ∧ Answers (.exit o) (fun s x =>
    { req := { Req.plain o.g with noSup := true }, own := x.isCt = true
      next := (s.modCctx x.core x.ctx fun c => { c with running := false, exited := true, wait := .none }).settleTokens x.core })
  ∧ (∀ g sp, Answers (.brk o) fun s x =>
    let n := bits o.fn 0 3
    let ch := g.chain n sp.innermost
    let f := fun (h : Group) =>
      let h1 := (ch.take (n - 1)).foldl (fun h r => h.modRec r fun j => { j with expected := j.expected &&& ~~~x.sel }) h
      let h2 := match ch.getLast? with
        | some r => h1.modRec r fun j => { j with arrived := j.arrived ||| x.sel }
        | none => h1
      h2.leave x.entry x.sel
    { req := { Req.plain o.g with always := true }
      own := x.grp = some g ∧ g.split? x.entry = some sp ∧ ch.length = n ∧ x.sel ≠ 0
      next := if sp.owned &&& ~~~x.sel = 0 then s.joinAfter x f else (s.advance x 8).joinAfter x f })
  ∧ (∀ g sp, Runs (.brk o) fun s x =>
    { goesOn { Req.plain o.g with always := true } 8 s x with
      own := x.grp = some g ∧ g.split? x.entry = some sp ∧ (g.chain (bits o.fn 0 3) sp.innermost).length = bits o.fn 0 3
        ∧ x.sel = 0 })
  ∧ Answers (.brk o) fun s x =>
    { req := { Req.plain o.g with always := true }, next := s.raise x { cause := 2, flanes := x.sel, taddr := 0 }
      own := x.grp = none ∨ ∃ g sp, x.grp = some g ∧ g.split? x.entry = some sp
        ∧ (g.chain (bits o.fn 0 3) sp.innermost).length < bits o.fn 0 3 }

/-- 04 R76: what a join event makes of a group in which one record j, at place r, has changed last and every other one still
waits for lanes: a record whose lanes have all come is freed, and the lanes that arrived and have not exited go on at the
instruction after the join, with the active lanes, FMT and loops that the record holds, inside its parent; where the parent
has the same join they arrive there instead; deferred lanes start when the others have come; a record that waits stays. And
after any join event no record whose lanes have all come is left (while an entry is free, log 21). -/
def Sys2Proof.Machine.Claims.JoinEvents : Prop := ∀ (g : Group) (r : Nat) (j : JoinRec),
  g.recs.length = 15 → g.rec? r = some j →
  let waits := fun (h : Group) (q : JoinRec) =>
    q.expected &&& ~~~q.deferred &&& ~~~(q.arrived ||| (h.exited &&& q.expected)) ≠ 0
  let ordered := fun (h : Group) => ∃ rank : Nat → Nat, ∀ q k p, h.rec? q = some k → k.parent = some p → rank p < rank q
  let l := j.arrived &&& ~~~g.exited
  let done := g.joinEvent 32
  let upper := j.parent.bind g.rec?
  ordered g → (∀ q k, q ≠ r → g.rec? q = some k → waits g k) →
  (waits g j → done = g)
  ∧ (¬ waits g j → j.deferred = 0 → l = 0 → done = { g with recs := g.recs.set r none })
  ∧ (¬ waits g j → j.deferred = 0 → l ≠ 0 → (∀ p, upper = some p → p.join ≠ j.join) → ∀ e, firstFree g.splits = some e →
    done = { g with
      recs := g.recs.set r none
      splits := g.splits.set e (some (Split.start l (j.exec &&& l) ⟨⟨j.join.token, j.join.off + 8⟩, j.fmt, j.loops⟩ j.parent)) })
  ∧ (∀ p q, ¬ waits g j → j.deferred = 0 → l ≠ 0 → j.parent = some p → g.rec? p = some q → q.join = j.join →
    let q1 := { q with arrived := q.arrived ||| l }
    waits g q1 → done = { g with recs := (g.recs.set r none).set p (some q1) })
  ∧ (¬ waits g j → j.deferred ≠ 0 → waits g { j with deferred := 0 } → ∀ e, firstFree g.splits = some e →
    done = { g with
      recs := g.recs.set r (some { j with deferred := 0 })
      splits := g.splits.set e (some (Split.start j.deferred (j.exec &&& j.deferred) ⟨j.dpc, j.fmt, j.loops⟩ (some r))) })
  ∧ ∀ h : Group, h.recs.length = 15 → ordered h → firstFree (h.joinEvent 32).splits ≠ none →
    ∀ q k, (h.joinEvent 32).rec? q = some k → waits (h.joinEvent 32) k

/-- 04 R75 to R78, R95: join, brk and exit; what the group is after it, with its join event. That a brk which selects no
lane still counts the records, and traps or goes on, is the model's reading (log 85), not a rule's words. The model's
own here: join with no lane selected (log 12, DEDUCED), a join event that finds no free split entry (log 21, DEDUCED),
brk with no lane selected (log 85, DEDUCED). -/
def Obligations.JoinsAndExits : Prop :=
  Claims.JoinCourses ∧ Claims.JoinEvents

/-- 04 R81, R84, R85, 21 R302: callo and ret come to their token's code where it is there (and the thread has met no
failed fill, OverlayTokens), a supervisor to an offset of the firmware store; 04 R79: loop starts its counter and goes
on in sequence, or skips its body. The model's own here: callo and ret of firmware (log 13, DEDUCED), loops that end at
a call or a loop instruction (log 88, DEDUCED), when a waiting call goes on (log 139, DEDUCED). -/
def Obligations.OverlayCallsAndLoops : Prop :=
  (∀ (o : I64) (i : Image),
    let req : Req := { Req.plain o.g with reads := if o.fn.getLsbD 0 then [rdS o.a] else [], writes := [atS o.d] }
    let link := fun (x : Iss) => (0#20 ++ (x.pc.token ++ (x.pc.off + 8)) : DWord)
    let v := fun (x : Iss) => x.s o.a.reg
    Answers (.callo o) (fun s x =>
      let s1 := (s.settleTokens x.core).dropWaiter x
      let t := (v x).extractLsb' 32 12
      let w := (v x).extractLsb' 0 32
      { req := req
        own := o.fn.getLsbD 0 = true ∧ x.sup = false ∧ bits (v x) 44 20 = 0 ∧ bits (v x) 0 2 = 0
          ∧ s.owedTrap x = false ∧ s.residentImage x t = some i ∧ w.toNat < i.len
        next := ((s1.setS x o.d (link x)).jump x ⟨t, w⟩).settleTokens x.core })
    ∧ Answers (.callo o) (fun s x =>
      let s1 := (s.settleTokens x.core).dropWaiter x
      let t := o.imm.extractLsb' 0 12
      { req := req
        own := o.fn.getLsbD 0 = false ∧ x.sup = false ∧ s.owedTrap x = false
          ∧ s.residentImage x t = some i ∧ bits o.imm 12 10 < i.ecnt
        next := ((s1.setS x o.d (link x)).jump x ⟨t, i.entryOff (bits o.imm 12 10)⟩).settleTokens x.core })
    ∧ Runs (.callo o) fun s x =>
      { req := req, parts := [.s (sNum o.d)]
        own := o.fn.getLsbD 0 = true ∧ x.sup = true ∧ bits (v x) 44 20 = 0 ∧ bits (v x) 0 2 = 0
        next := (s.setS x o.d (link x)).jump x ⟨0, (v x).extractLsb' 0 32⟩ })
  ∧ (∀ (o : Op) (i : Image),
    let v := fun (x : Iss) => x.s o.a.reg
    Answers (.ret o) (fun s x =>
      let t := (v x).extractLsb' 32 12
      let w := (v x).extractLsb' 0 32
      { req := { Req.plain o.g with reads := [rdS o.a] }
        own := x.sup = false ∧ bits (v x) 44 20 = 0 ∧ bits (v x) 0 2 = 0
          ∧ s.owedTrap x = false ∧ s.residentImage x t = some i ∧ w.toNat < i.len
        next := (((s.settleTokens x.core).dropWaiter x).jump x ⟨t, w⟩).settleTokens x.core })
    ∧ Runs (.ret o) fun s x =>
      { req := { Req.plain o.g with reads := [rdS o.a] }
        own := x.sup = true ∧ bits (v x) 44 20 = 0 ∧ bits (v x) 0 2 = 0
        next := s.jump x ⟨0, (v x).extractLsb' 0 32⟩ })
  ∧ ∀ o : I64,
    let imm := o.fn.getLsbD 0
    let req : Req := { Req.plain o.g with reads := if imm then [] else [rdS o.a], always := true }
    let last := fun (x : Iss) => x.pc.add (4 * o.imm.toInt)
    let n := fun (x : Iss) => if imm then (BitVec.ofBool o.a.fe ++ o.a.reg : BitVec 10).setWidth 32 else (x.s o.a.reg).lo
    let idle := fun (x : Iss) => (x.flow.loops.getD (bits o.d 0 2) LoopReg.zero).active = false
    Runs (.loop o) (fun s x =>
      { req := req, own := x.sel = 0 ∨ (idle x ∧ n x = 0)
        next := s.jump x ((last x).add (s.lengthAt x (last x))) })
    ∧ Runs (.loop o) fun s x =>
      let order := 1 + x.flow.loops.foldl (fun m l => max m l.order) 0
      { req := req, own := x.sel ≠ 0 ∧ idle x ∧ n x ≠ 0
        next := s.modFlow x fun f => Flow.advance { f with
          loops := f.loops.set (bits o.d 0 2) ⟨true, n x, x.pc.add 8, last x, order⟩ } 8 }

/-- 04 R86, R91: wait goes on when its counter is at most n and no fault is pending, and traps with a pending fault of
its class; the decision queue. The model's own here: a wait with a fault pending (log 89, DESIGN CHOICE), accesses
behind a pop that waits (log 121, DESIGN CHOICE). -/
def Obligations.WaitsAndDecisionQueue : Prop :=
  (∀ o : I64,
    Runs (.wait o) (fun s x =>
      { goesOn (Req.plain o.g) 8 s x with
        own := x.uni.pend.getLsbD (bits o.fn 0 3) = false ∧ (x.uni.count (bits o.fn 0 3)).val ≤ o.imm.toNat })
    ∧ Answers (.wait o) fun s x =>
      let m := 1#5 <<< bits o.fn 0 3
      { req := Req.plain o.g, own := x.uni.pend.getLsbD (bits o.fn 0 3) = true
        next := (s.modUni x fun u => { u with pend := u.pend &&& ~~~m }).raise x
          { cause := 0x19, flanes := x.sel, detail := m.toNat } })
  ∧ ∀ (o : Op) (c : CoreCtx),
    Runs (.dqPush o) (fun s x =>
      { req := { Req.plain o.g with who := .ct, reads := [rdS o.a], noSup := true }
        own := s.cctx? x.core x.ctx = some c ∧ c.pops = [] ∧ c.dq.length < 64
        next := (s.modCctx x.core x.ctx fun c => { c with dq := c.dq ++ [x.s o.a.reg] }).advance x 8
        parts := [.queue] })
    ∧ (∀ p ps, Answers (.dqPush o) fun s x =>
      { req := { Req.plain o.g with who := .ct, reads := [rdS o.a], noSup := true }
        own := s.cctx? x.core x.ctx = some c ∧ c.pops = p :: ps ∧ c.dq = []
        next := ((s.modCctx x.core x.ctx fun c => { c with pops := ps }).modGroup x.core p.slot fun g =>
          { g with uni := g.uni.set p.reg (x.s o.a.reg) }).advance x 8 })
    ∧ Runs (.dqPop o) (fun s x =>
      { req := { Req.plain o.g with who := .group, writes := [atS o.d], noSup := true }
        own := s.cctx? x.core x.ctx = some c ∧ c.dq = [] ∧ c.pops.length < 64
        next := ((s.markEmpty x o.d).modCctx x.core x.ctx fun c =>
          { c with pops := c.pops ++ [⟨x.slot, sNum o.d⟩] }).advance x 8
        parts := [.s (sNum o.d), .queue] })
    ∧ ∀ v vs, Runs (.dqPop o) fun s x =>
      { req := { Req.plain o.g with who := .group, writes := [atS o.d], noSup := true }
        own := s.cctx? x.core x.ctx = some c ∧ c.dq = v :: vs ∧ c.pops = []
        next := ((s.setS x o.d v).modCctx x.core x.ctx fun c => { c with dq := vs }).advance x 8
        parts := [.s (sNum o.d), .queue] }

/-- 03 R51 and Table 3.2, 04 R93, R94: special registers, each with what the table says it holds, and FMT. -/
def Obligations.SpecialRegisters : Prop :=
  (∀ o : I64,
    let n := bits o.imm 0 8
    let req := fun (s : State) => { Req.plain o.g with extra := s.sprAllowed n }
    (sprKind n = some .mask → Runs (.sprd o) fun s x => writesM { req s with md := some o.d } 8 o.d
      (match n with
        | 0 => x.exec
        | 1 => (match x.grp with | some g => g.helper | none => 0)
        | _ => (match x.grp with | some g => g.flanes | none => 0)) s x)
    ∧ (sprKind n = some .vector → Runs (.sprd o) fun s x => writesV { req s with writes := [atV o.d] } 8 o.d
      (BitVec.ofNat 32) false s x)
    ∧ (sprKind n ≠ some .mask → sprKind n ≠ some .vector → Runs (.sprd o) fun s x =>
      writesS { req s with writes := [atS o.d] } 8 o.d (s.special x n) s x)
    ∧ (n = 0 → Runs (.spwr o) fun s x =>
      { req := req s, parts := [.lanes]
        next := (s.modIssGroup x fun g => g.modSplit x.entry fun sp =>
          { sp with exec := x.uni.mask (bits o.a.reg 0 4) &&& sp.owned }).advance x 8 })
    ∧ (n = 4 → Runs (.spwr o) fun s x =>
      { req := { req s with reads := [rdS o.a] }, parts := [.fmt]
        own := (x.s o.a.reg).hi = 0 ∧ fmtOk (x.s o.a.reg).lo = true
        next := s.modFlow x fun f => { f.advance 8 with fmt := (x.s o.a.reg).lo } })
    ∧ (n = 5 → Runs (.spwr o) fun s x =>
      { req := { req s with reads := [rdS o.a] }, parts := [.flags]
        next := (s.modIssGroup x fun g => { g with fflags := (x.s o.a.reg).extractLsb' 0 5 }).advance x 8 }))
  ∧ ∀ o : Op, Runs (.fmtset o) fun s x =>
      let f := if immBit o then word2 o else (x.s o.a.reg).lo
      { req := { Req.plain o.g with reads := if immBit o then [] else [rdS o.a] }, parts := [.fmt]
        own := fmtOk f = true
        next := s.modFlow x fun l => { l.advance (opLen o) with fmt := f } }

/-! Traps: what taking one does (21 R303, R304; 24 R342, R343), and the instructions whose effect it is (04 R87, R88). -/

/-- 04 R87, R88; 21 R303; 24 R342, R343: trap and brkpt of a thread whose CT context handles nothing enter the firmware:
the group is frozen, the user CT is stopped, TCAUSE, TSRC, TPC and TADDR are set, the supervisor starts at VEC, %flanes
holds the lanes that executed, and nothing else changes. The model's own here: %flanes (log 69, DEDUCED). -/
def Obligations.TrapInstructionsEnterFirmware : Prop := ∀ (s : State) (x : Iss) (c : CoreCtx),
  let entered := fun (t : State) (cause : BitVec 8) (code : BitVec 16) =>
    let back : Pc := ⟨x.pc.token, x.pc.off + 8⟩
    let source : BitVec 16 := if x.isCt then BitVec.ofNat 16 (4096 * x.ctx)
      else BitVec.ofNat 16 (4096 * x.ctx + 256 * x.entry + 32 * (x.slot % 6) + 2 * (x.slot / 6) + 1)
    let d : Delivery :=
      { src := if x.isCt then .userCt else .group x.slot x.entry, cause := cause, detail := code, pc := x.pc, tpc := back,
        taddr := 0, flanes := x.sel }
    t = ((if x.isCt then s else s.modGroup x.core x.slot fun g => { g with frozen := true, flanes := x.sel }).modCctx
      x.core x.ctx fun y =>
      { y with
        handling := some d, stopped := true, tcause := code ++ cause, tsrc := source, tpc := back, taddr := 0
        sup := { y.sup with flow := { y.sup.flow with pc := ⟨0, y.vec⟩ } } })
  s.cctx? x.core x.ctx = some c → c.handling = none → c.deliveries = [] → x.sup = false →
    (∀ o : I64, Ready (Req.plain o.g) s x → ∃ t, exec (.trap o) s = .next t ∧ entered t 0x15 (o.imm.extractLsb' 0 16))
    ∧ ∀ o : Op, Ready (Req.plain o.g) s x → ∃ t, exec (.brkpt o) s = .next t ∧ entered t 0x16 0

/-- 21 R303: a trap that comes while a delivery is handled waits behind those already waiting, and its group is frozen. -/
def Sys2Proof.Machine.Claims.DeliveriesQueueInOrder : Prop := ∀ (s : State) (x : Iss) (c : CoreCtx) (d : Delivery) (i : TrapInfo),
  s.cctx? x.core x.ctx = some c → c.handling = some d → x.sup = false →
    s.raise x i = (if x.isCt then s else s.modGroup x.core x.slot fun g => { g with frozen := true }).modCctx x.core x.ctx
      fun y => { y with deliveries := y.deliveries ++
        [{ src := if x.isCt then .userCt else .group x.slot x.entry, cause := BitVec.ofNat 8 i.cause,
           detail := BitVec.ofNat 16 i.detail, pc := x.pc, tpc := x.pc.add i.tpcAfter, taddr := BitVec.ofNat 48 i.taddr,
           flanes := i.flanes }] }

/-- 21 R304: a trap of firmware ends its delivery, detaches its context and tells the management core. -/
def Sys2Proof.Machine.Claims.FirmwareTrapDetaches : Prop := ∀ (s : State) (x : Iss) (i : TrapInfo),
  x.sup = true → (s.cctx? x.core x.ctx).isSome = true → (s.ctx? x.ctx).isSome = true →
    (∃ d, (s.raise x i).ctx? x.ctx = some d ∧ d.detached = true)
    ∧ (∃ c, (s.raise x i).cctx? x.core x.ctx = some c ∧ c.handling = none)
    ∧ (s.raise x i).outbox = s.outbox ++ [.detachedByFirmware x.core x.ctx]

/-- 21 R303: a trap that comes while a delivery is handled waits behind those already waiting, and its group is
frozen. 21 R304: a trap of firmware ends its delivery, detaches its context and tells the management core. -/
def Obligations.TrapsAreDelivered : Prop :=
  Claims.DeliveriesQueueInOrder ∧ Claims.FirmwareTrapDetaches

/-! Engines: sweeps, copies and transfers (rows 0x8 and 0xA). -/

namespace Sys2Proof.Machine

/-- An engine operation that issues (08 R168): it is counted on a class of the issuer's party, queued on the core with what
it has read, and the instruction goes on. -/
def engineCourse (r : Req) (own : Prop) (cls len : Nat) (i : Instr) (vals : List DWord) (rows : List (List Word))
    (lanes : LaneSet) (s : State) (x : Iss) : Course :=
  { req := r
    own := own ∧ (x.uni.count cls).val < 63
    next := ((s.modUni x fun u => { u with counts := u.counts.modify cls fun e =>
        { e with done := e.done ++ [.running] } }).modCore x.core fun c =>
        { c with ops := c.ops ++ [{ id := s.nextId
                                    ref := some ⟨x.party, cls, (x.uni.count cls).base + (x.uni.count cls).val⟩
                                    who := s.issuer x, instr := i, vals := vals, rows := rows, lanes := lanes
                                    fmt := x.flow.fmt }] }) |> fun t =>
      State.advance { t with nextId := s.nextId + 1 } x len
    parts := [.counts, .operations, .ids] }

/-- The generation of the issuer's own barrier object that an engine block names, with bit 32 set, as its operation captures
it (09 R200); 0 where the block names none. -/
def State.ownGen (s : State) (x : Iss) (o : Op) : DWord :=
  match (s.cctx? x.core x.ctx).bind fun c => c.objs.find? fun b => b.k == ebBar o with
  | some b => if ebBV o then 1#32 ++ BitVec.ofNat 32 (ofLE (s.sliceRead x.core (b.addr + 20) 4)) else 0
  | none => 0

/-- The first bank word in error of the issuer's own barrier object that an engine block names, as a slice offset: its
operation captures a generation from it (09 R200; log 96, DESIGN CHOICE). -/
def State.barError (s : State) (x : Iss) (o : Op) : Option Nat :=
  if ebBV o then match s.core? x.core, (s.cctx? x.core x.ctx).bind fun c => c.objs.find? fun b => b.k == ebBar o with
    | some c, some b => (c.poisoned false b.addr 32).map (16 * ·)
    | _, _ => none
  else none

/-- An instruction whose block names a barrier object in error traps with 0x1B and issues nothing (log 96, DESIGN CHOICE). -/
def barTraps (r : Req) (own : State → Iss → Prop) (i : Instr) (o : Op) : Prop := ∀ w, Answers i fun s x =>
  { req := r, own := own s x ∧ s.barError x o = some w
    next := (s.countEcc x.core).raise x { cause := 0x1B, flanes := x.sel, taddr := w, detail := 0x100 } }

/-- The shared checks of a sweep (08 R171). -/
def sweepReq (o : Op) (a b c : Bool) : Req :=
  { g := o.g, phase := .C, who := .group, writes := []
    reads := atS o.d :: ((if a then [rdS o.a] else []) ++ (if b then [rdS o.b] else []) ++ (if c then [rdS o.c] else [])) }

/-- A sweep issues when a selected lane is no helper lane, and goes on without effect when none is. -/
def sweeps (i : Instr) (o : Op) (a b c : Bool) : Prop :=
  Runs i (fun s x => engineCourse (sweepReq o a b c) (x.active ≠ 0) 0 16 i
    [x.s o.d, x.s o.a.reg, x.s o.b.reg, x.s o.c.reg] [] 0 s x)
  ∧ Runs i (fun s x => { goesOn (sweepReq o a b c) 16 s x with own := x.active = 0 })

end Sys2Proof.Machine

/-- 08 R168, R171 to R175: the sweeps issue as operations of class CPY/sweep. -/
def Sys2Proof.Machine.Claims.SweepsIssue : Prop := ∀ o : Op,
  sweeps (.swadd o) o true true false ∧ sweeps (.swmul o) o true true false ∧ sweeps (.swfma o) o true true true
    ∧ sweeps (.swmax o) o true true false ∧ sweeps (.swmin o) o true true false ∧ sweeps (.swmov o) o true false false
    ∧ sweeps (.swfill o) o false false true ∧ sweeps (.swred o) o true false false ∧ sweeps (.swsel o) o true true true
    ∧ Runs (.swcvt o) fun s x => engineCourse
        { g := o.g, phase := .C, who := .group, writes := [], reads := [atS o.d, rdS o.a, rdS o.c] }
        (x.active ≠ 0 ∧ swcvtOk o (x.s o.c.reg).lo x.flow.fmt = true
          ∧ (cwSr (x.s o.c.reg).lo x.flow.fmt = true → (rdS o.b).ok x.isCt x.blocks = true ∧ x.empty o.b.reg = false
            ∧ x.inError LaneSet.all o.b.reg = 0))
        0 16 (.swcvt o) [x.s o.d, x.s o.a.reg, x.s o.b.reg, x.s o.c.reg] [] 0 s x

/-- 08 R176 to R180, 09 R197, R203: copies, deposits and exchange transfers issue; a cpyx where no byte has an address in both
its extents, whichever form the address has; a barrier object in error traps (log 96,
DESIGN CHOICE). -/
def Sys2Proof.Machine.Claims.CopiesAndTransfersIssue : Prop := ∀ o : Op,
  Runs (.cpy o) (fun s x => engineCourse
    { g := o.g, phase := .C, who := .any, writes := [], reads := [atS o.d, rdS o.a] ++ countReads o }
    (x.active ≠ 0 ∧ (x.count o).toNat < 2 ^ 32 ∧ ebWV o = false ∧ s.barError x o = none) 0 16 (.cpy o)
    [x.s o.d, x.s o.a.reg, x.count o, BitVec.ofNat 64 x.core, s.ownGen x o] [] 0 s x)
  ∧ (∀ t : Nat, Runs (.cpy o) fun s x => engineCourse
    { g := o.g, phase := .C, who := .any, writes := [], reads := [atS o.d, rdS o.a] ++ countReads o }
    (x.active ≠ 0 ∧ (x.count o).toNat < 2 ^ 32 ∧ ebWV o = true
      ∧ s.flipTarget x (o.fn.getLsbD 4) (o.fn.getLsbD 5) = some t ∧ (t = x.core → s.wingBound x (ebWH o) = true)
      ∧ s.barError x o = none)
    0 16 (.cpy o) [x.s o.d, x.s o.a.reg, x.count o, BitVec.ofNat 64 t, s.ownGen x o] [] 0 s x)
  ∧ (∀ t : Nat, Runs (.xst o) fun s x =>
    let n := (x.count o).toNat
    engineCourse
    { g := o.g, phase := .C, who := .group, writes := []
      reads := atS o.d :: (countReads o ++ regRange o.a.reg (if ebCnt o = 0 then 1 else ebCnt o) .v o.a.fe)
      extra := ebCnt o == 0 || vecRangeOk o.a.reg (ebCnt o) }
    (x.active ≠ 0 ∧ s.flipTarget x (o.fn.getLsbD 4) (o.fn.getLsbD 5) = some t ∧ s.barError x o = none
      ∧ (t = x.core → s.wingBound x (ebWH o) = true) ∧ 1 ≤ n ∧ n ≤ 8 ∧ o.a.reg.toNat + n ≤ 384
      ∧ ∀ r ∈ regRange o.a.reg n .v o.a.fe, r.ok x.isCt x.blocks = true ∧ x.empty r.reg = false
        ∧ x.inError x.sel r.reg = 0)
    0 16 (.xst o) [x.s o.d, BitVec.ofNat 64 n, BitVec.ofNat 64 t, 0, s.ownGen x o]
    ((List.range n).map fun r => x.v (o.a.reg.toNat + r)) x.active s x)
  ∧ Runs (.cpyx o) (fun s x =>
    let st := o.fn.getLsbD 0
    let r := s.recordOf x (ebRec o).toNat
    let p := if st then x.s o.a.reg else x.s o.d
    let l := cpyxElems r (o.fn.getLsbD 2) (s.allocBase x) p.toNat
    let w := codeBits (recView r) / 8
    let re := extentSpan (recSize r) (l.map CpyxElem.recA)
    let pe := extentSpan w (l.map CpyxElem.plainA)
    let dst := if st then re else pe
    engineCourse
    { g := o.g, phase := .C, who := .any, writes := []
      reads := (if o.fn.getLsbD 0 then [rdS o.a] else [atS o.d]) ++ countReads o }
    (x.active ≠ 0 ∧ x.isCt = false ∧ (if st then recStoreOk r = true ∧ recRnd r ≠ 4 else recOk r = true)
      ∧ (x.count o).toNat = recCount r ∧ (∀ i < dst.2 - dst.1, s.cpyxByteOk x (dst.1 + i) = true)
      ∧ extentsMeet x.core re pe = false) 0 16 (.cpyx o) [p] [] 0 s x)
  ∧ (∀ k < 64, ∀ a b : Nat × Nat, extentsMeet k a b = true ↔
      ∃ i j, a.1 ≤ i ∧ i < a.2 ∧ b.1 ≤ j ∧ j < b.2 ∧ aliasForm k i = aliasForm k j)
  ∧ barTraps { g := o.g, phase := .C, who := .any, writes := [], reads := [atS o.d, rdS o.a] ++ countReads o }
      (fun _ x => x.active ≠ 0 ∧ (x.count o).toNat < 2 ^ 32 ∧ ebWV o = false) (.cpy o) o
  ∧ (∀ (b : Bool) (i : Instr), (i, b) ∈ [(Instr.xmov o, false), (Instr.xput o, false), (Instr.xmc o, true),
      (Instr.xgm o, false), (Instr.xadd o, false)] →
    barTraps { g := o.g, phase := .X, who := .ct, writes := []
               reads := [atS o.d, rdS o.a] ++ (if b then [rdS o.b] else []) ++ countReads o }
      (fun _ x => (x.count o).toNat < 2 ^ 32) i o)
  ∧ ∀ (b : Bool) (i : Instr), (i, b) ∈ [(Instr.xmov o, false), (Instr.xput o, false), (Instr.xmc o, true),
      (Instr.xgm o, false), (Instr.xadd o, false)] →
    Runs i fun s x => engineCourse
      { g := o.g, phase := .X, who := .ct, writes := []
        reads := [atS o.d, rdS o.a] ++ (if b then [rdS o.b] else []) ++ countReads o }
      ((x.count o).toNat < 2 ^ 32 ∧ s.barError x o = none) 0 16 i [x.s o.d, x.s o.a.reg, x.count o, x.s o.b.reg, s.ownGen x o] [] 0 s x

/-- 08 R168, R171 to R175: the sweeps issue as operations of class CPY/sweep. 08 R176 to R180, 09 R197, R203: copies,
deposits and exchange transfers issue. That an object in error, whose generation an operation would capture, traps at
issue is the model's choice (log 96). The model's own here: order of a full engine
counter and operand checks (log 26, DEDUCED), operands of cpyx (log 28, DEDUCED), barrier objects and deposits in error
(log 96, DESIGN CHOICE), when a counted deposit takes the generation (log 130, DESIGN CHOICE). -/
def Obligations.EngineInstructionsIssue : Prop :=
  Claims.SweepsIssue ∧ Claims.CopiesAndTransfersIssue

namespace Sys2Proof.Machine

/-- Operation op is the one of its engine on core k that has waited longest (08 R182, 22 R327). -/
def State.turn (s : State) (k id : Nat) (op : EngineOp) : Prop :=
  op.who.core = k ∧ ∃ c, s.core? k = some c ∧ c.nextOp id (fun _ => true) = some op

/-- The record of a deferred fault of an issuer, field by field (08 R184, Table 8.6). -/
def State.engineRecord (s : State) (w : Issuer) (cls cause a : Nat) : FaultRec :=
  { phase := s.phase, launch := w.launch, wgid := w.wgid, pc := w.pc, gidx := w.gidx, core := w.core, addr := a, detail := 0
    cls := cls, cause := cause, ct := match w.party with | some (.ct _ _) => true | _ => false
    exited := match w.party with
      | some (.group slot) => (match s.group? w.core slot with | some g => g.exited == LaneSet.all | none => true)
      | _ => false }

/-- From s to t operation op has left its core's list, its flags are in its group's %fflags, and it is counted complete, as
faulted or not (08 R168, R173, R184). -/
def Ended (s t : State) (op : EngineOp) (fl : FFlags) (bad : Bool) : Prop :=
  let k := op.who.core
  (∀ c, s.core? k = some c → ∃ d, t.core? k = some d ∧ d.ops = c.ops.filter fun q => q.id != op.id)
  ∧ (∀ r slot g, op.ref = some r → r.party = .group slot → op.who.party = some (.group slot) → s.group? k slot = some g →
      ∃ h, t.group? k slot = some h ∧ h.fflags = g.fflags ||| fl
        ∧ h.uni = (let u := g.uni.completeOp r.cls r.seq bad; if g.hasExited then { u with pend := 0 } else u))
  ∧ ∀ r x sup c, op.ref = some r → r.party = .ct x sup → op.who.party = some (.ct x sup) → s.cctx? k x = some c →
      ∃ d, t.cctx? k x = some d ∧ (if sup then d.sup.uni = c.sup.uni.completeOp r.cls r.seq bad
        else d.user.uni = c.user.uni.completeOp r.cls r.seq bad)

/-- From s to t core k's slice has changed at [at_, at_ + n) alone, where byte i is as f says. -/
def SliceBytes (s t : State) (k at_ n : Nat) (f : Nat → Byte → Prop) : Prop :=
  (∀ i < n, f i (t.sliceByte k (at_ + i)))
  ∧ (∀ off, off < at_ ∨ at_ + n ≤ off → t.sliceByte k off = s.sliceByte k off)
  ∧ ∀ j off, j ≠ k → t.sliceByte j off = s.sliceByte j off

/-- An element of w bytes at an offset of a slice that reads as u. -/
def element (u : Nat → Byte) (at_ w : Nat) : Nat := ofLE ((List.range w).map fun b => u (at_ + b))

/-- The result of an element a, b of a sweep with the value c (08 Table 8.4), but for swcvt and swred. -/
def sweepValue (i : Instr) (o : Op) (fmt : Word) (a b c : Nat) : FRes :=
  let u := swType o == 2
  let rd := RMode.ofRM (bits fmt 10 2) == .rd
  let rm := RCtl.plain (RMode.ofRM (bits fmt 10 2))
  let n := fun (v : Nat) => BitVec.ofNat 32 v
  let int := fun (op : IntOp) (x y z : Nat) => (⟨(intValue op u (swSat o) 0 false (n x) (n y) (n z)).toNat, fNone⟩ : FRes)
  match (match swType o with | 0 => some FloatFmt.f32 | 3 => some .f16 | 4 => some .bf16 | _ => none), i with
  | some f, .swadd _ => (sumFV [decodeFloat f a, decodeFloat f b] rd).round f rm
  | some f, .swmul _ => ((decodeFloat f a).mul (decodeFloat f b)).toExact.round f rm
  | some f, .swfma _ => (sumFV [(decodeFloat f a).mul (decodeFloat f c), decodeFloat f b] rd).round f rm
  | some f, .swmax _ => minMax f true a b
  | some f, .swmin _ => minMax f false a b
  | some f, .swsel _ => let r := fcmpFV (swSub o) (decodeFloat f a) (decodeFloat f c); ⟨if r.1 then a else b, r.2⟩
  | none, .swadd _ => int .add a b 0
  | none, .swmul _ => int .mul a b 0
  | none, .swfma _ => int .mad a c b
  | none, .swmax _ => int .max a b 0
  | none, .swmin _ => int .min a b 0
  | none, .swsel _ => ⟨if intValue .cmp u false (swSub o) false (n a) (n c) 0 = 1 then a else b, fNone⟩
  | _, .swfill _ => ⟨c, fNone⟩
  | _, _ => ⟨a, fNone⟩

/-- A node of swred on codes (08 R174): a sum rounded by RNE or modulo 2^32, a minimum, a maximum. -/
def redValue (o : Op) (a b : Nat) : Nat :=
  let n := fun (v : Nat) => BitVec.ofNat 32 v
  match (match swType o with | 0 => some FloatFmt.f32 | 3 => some .f16 | 4 => some .bf16 | _ => none), swSub o with
  | some f, 0 => ((sumFV [decodeFloat f a, decodeFloat f b] false).round f RCtl.rne).code
  | some f, m => (minMax f (m == 2) a b).code
  | none, 0 => (n a + n b).toNat
  | none, m => (intValue (if m = 1 then .min else .max) (swType o == 2) false 0 false (n a) (n b) 0).toNat

/-- The pairwise combination of 2^n values from place i 2^n on (05 R108). -/
def pairs (node : Nat → Nat → Nat) (f : Nat → Nat) : Nat → Nat → Nat
  | 0, i => f i
  | n + 1, i => node (pairs node f n (2 * i)) (pairs node f n (2 * i + 1))

/-- What byte i of the source of an exchange transfer may be (09 R202): of a slice, as it was when the stage started, or, but
in an object or a pair bound to a barrier, as it is now; of device-virtual memory, as it was when the stage started, or, where
a transfer of the stage has written, as it is now. -/
def State.sourceByte (s : State) (op : EngineOp) (n i : Nat) (v : Byte) : Prop :=
  let a := wrap48 (op.val 1).toNat
  match rangeOf op.who.core a with
  | .slice j off => ∃ c cc, s.core? j = some c ∧ s.cctx? j op.who.ctx = some cc
      ∧ (v = cc.stage.read (off + i) ∨ (c.stageFixed (off + i) = false ∧ v = c.slice.read (off + i)))
  | _ => ∃ b d p, b ∈ chunks a n ∧ b.1 ≤ a + i ∧ a + i < b.1 + b.2 ∧ s.ctx? op.who.ctx = some d
      ∧ s.chunkAt op.who.ctx b.1 b.2 false = some p
      ∧ (v = (if p.fabric then d.stageRemote else d.stageGddr).read (p.pa + (a + i - b.1))
        ∨ (p.key + (a + i - b.1) ∈ d.stagePut ∧ v = (if p.fabric then s.remote else s.gddr).read (p.pa + (a + i - b.1))))

/-- From s to t the n bytes of a destination b of core k and context ctx hold what f says, and no other byte has changed: in a
slice, or in device-virtual memory within one 4 KiB piece that may be written. -/
def Lands (s t : State) (k ctx b n : Nat) (f : Nat → Byte → Prop) : Prop :=
  match rangeOf k b with
  | .slice d off => SliceBytes s t d off n f ∧ t.gddr = s.gddr ∧ t.remote = s.remote
  | _ => ∀ p, b % 4096 + n ≤ 4096 → s.chunkAt ctx b n true = some p →
    (∀ j off, t.sliceByte j off = s.sliceByte j off)
    ∧ (let old := if p.fabric then s.remote else s.gddr
      let new := if p.fabric then t.remote else t.gddr
      (∀ i < n, f i (new.read (p.pa + i))) ∧ (∀ q, q < p.pa ∨ p.pa + n ≤ q → new.read q = old.read q)
      ∧ (if p.fabric then t.gddr = s.gddr else t.remote = s.remote))

/-- A deposit as an operation sends it. -/
def sentDeposit (id : Nat) (op : EngineOp) (r : OpRef) (o : Op) (target extent count : Nat) (bytes : List (Nat × Byte)) : Deposit :=
  { id := id, opId := op.id, who := op.who, ref := r, target := target, handle := ebWH o, offset := (op.val 0).toNat, bytes := bytes
    extent := extent, count := count, verdict := none, bad := false, judged := 0
    bar := if ebBV o then some (ebBar o, if (op.val 4).getLsbD 32 then some (op.val 4).lo else none) else none }

/-- The cores whose slices a transfer writes by itself: those of a plain multicast's mask, the one that an xmov, xput or xgm
names. -/
def writesTo (op : EngineOp) (j : Nat) : Prop :=
  match op.instr with
  | .xmc o => ebWV o = false ∧ j < 64 ∧ (op.val 3).getLsbD j = true
  | .xadd _ => False
  | _ => ∃ off, rangeOf op.who.core (wrap48 (op.val 0).toNat) = .slice j off
/-- No deposit of more than 64 bytes that the operation's core has sent to a core that it writes to is on its way (26 R359,
R361). -/
def State.unhindered (s : State) (op : EngineOp) : Prop :=
  ∀ d ∈ s.deposits, d.verdict = none → 64 < d.bytes.length → d.who.core = op.who.core → ¬ writesTo op d.target

/-- Core d takes part in a plain multicast of n bytes to an offset: every byte may be written, none is in an object, and no
word in error is written in part (09 R198, R204, 24 R350). -/
def State.receives (s : State) (ctx d off n : Nat) : Prop :=
  (∀ i < n, s.xSliceOk ctx d (off + i) = true)
  ∧ ∀ c, s.core? d = some c → (∀ i < n, c.inObj (off + i) = false) ∧ c.poisoned true off n = none

end Sys2Proof.Machine

/-- 08 R172, R173, R175, R182: a sweep whose operands pass their checks runs its iterations in order: iteration m reads 128
elements of each source as the iterations before have left the slice, but for bytes that no earlier one has written and that
this read has taken before, and then writes the 128 results; nothing else changes, and the flags are those of all results. -/
def Sys2Proof.Machine.Claims.SweepBytes : Prop := ∀ (s : State) (k id : Nat) (op : EngineOp) (o : Op) (i : Instr)
    (useA useB : Bool) (wD wA wB : Nat) (f : Nat → Nat → FRes),
  let w := match swType o with | 3 => 2 | 4 => 2 | 5 => 1 | 6 => 8 | _ => 4
  let cw := (op.val 3).lo
  let plain := fun (i : Instr) (a b : Bool) => (i, a, b, w, w, w)
  s.memoryOk = true → s.turn k id op → op.instr = i →
  ((i, useA, useB, wD, wA, wB) ∈ [plain (.swadd o) true true, plain (.swmul o) true true, plain (.swfma o) true true,
      plain (.swmax o) true true, plain (.swmin o) true true, plain (.swmov o) true false, plain (.swfill o) false false,
      plain (.swsel o) true true] ∧ (f = fun a b => sweepValue i o op.fmt a b ((op.val 3).toNat % 2 ^ (8 * w)))
    ∨ (i, useA, useB, wD, wA, wB) = (.swcvt o, true, cwSr cw op.fmt, codeBits (cwDC cw) / 8, codeBits (cwSC cw) / 8, 4)
      ∧ f = fun a b => cwConvert cw op.fmt (cwCtl cw op.fmt b) a) →
  0 < wD → s.opFault op (swSpans op o 0 wD ++ (if useA then swSpans op o 1 wA else [])
    ++ (if useB then swSpans op o 2 wB else [])) = none →
  let row := fun (stream m : Nat) => aliasOff (swStart op o stream m)
  let own := fun (m off : Nat) => (List.range m).any fun q => decide (row 0 q ≤ off ∧ off < row 0 q + 128 * wD)
  ∃ t, ∃ u : Nat → Nat → Byte, ∃ fl, exec (.sweepExecute k id) s = .next t
    ∧ (let seen := fun (stream m off : Nat) => if own m off then u m off else taken op.early (3 * m + stream) off (u m off)
      let out := fun (m j : Nat) => f (if useA then element (seen 1 m) (row 1 m + wA * j) wA else 0)
        (if useB then element (seen 2 m) (row 2 m + wB * j) wB else 0)
      (∀ off, u 0 off = s.sliceByte k off)
      ∧ (∀ m < swIter o, ∀ off, u (m + 1) off = if row 0 m ≤ off ∧ off < row 0 m + 128 * wD
          then BitVec.ofNat 8 ((out m ((off - row 0 m) / wD)).code / 256 ^ ((off - row 0 m) % wD)) else u m off)
      ∧ (∀ off, t.sliceByte k off = u (swIter o) off)
      ∧ ∀ b < 5, fl.getLsbD b = true ↔ ∃ m < swIter o, ∃ j < 128, (out m j).flags.getLsbD b = true)
    ∧ (∀ j off, j ≠ k → t.sliceByte j off = s.sliceByte j off) ∧ t.gddr = s.gddr ∧ t.remote = s.remote ∧ Ended s t op fl false

/-- 08 R174: swred stores one element: the pairwise combination of each iteration's 128 elements, combined in order. -/
def Sys2Proof.Machine.Claims.SweepReduces : Prop := ∀ (s : State) (k id : Nat) (op : EngineOp) (o : Op),
  let w := match swType o with | 3 => 2 | 4 => 2 | 5 => 1 | 6 => 8 | _ => 4
  let d := wrap48 (op.val 0).toNat
  let seg := fun (m : Nat) => pairs (redValue o)
    (fun j => element (fun off => taken op.early (3 * m + 1) off (s.sliceByte k off)) (aliasOff (swStart op o 1 m) + w * j) w) 7 0
  s.memoryOk = true → s.turn k id op → op.instr = .swred o → 0 < swIter o → swType o ≤ 4 →
  s.opFault op (⟨d, w, true, false, w⟩ :: swSpans op o 1 w) = none →
  ∃ t fl, exec (.sweepExecute k id) s = .next t
    ∧ SliceBytes s t k (aliasOff d) w (fun i v => v = BitVec.ofNat 8
        (((List.range (swIter o - 1)).foldl (fun acc m => redValue o acc (seg (m + 1))) (seg 0)) / 256 ^ i))
    ∧ t.gddr = s.gddr ∧ t.remote = s.remote ∧ Ended s t op fl false

/-- 08 R176 to R178, R182, 09 R196, R197, R200: a deposit of cpy, and an xst, leave with their bytes, their count and the
generation captured at issue; a copy of nothing ends; a copy to or from GDDR 7 moves its bytes, each as it is or as the copy
has taken it before. -/
def Sys2Proof.Machine.Claims.CopyBytes : Prop := ∀ (s : State) (k id : Nat) (op : EngineOp) (o : Op), s.memoryOk = true → s.turn k id op →
  let n := (op.val 2).toNat
  let a := wrap48 (op.val 1).toNat
  let b := wrap48 (op.val 0).toNat
  let leaves := fun (d : Deposit) => exec (.copyExecute k id) s = .next
    ({ s with nextId := s.nextId + 1, deposits := s.deposits ++ [d] }.modCore k fun c =>
      { c with ops := c.ops.filter fun q => q.id != op.id })
  (op.instr = .cpy o → n = 0 → ∃ t, exec (.copyExecute k id) s = .next t ∧ (∀ j off, t.sliceByte j off = s.sliceByte j off)
    ∧ t.gddr = s.gddr ∧ t.remote = s.remote ∧ Ended s t op 0 false)
  ∧ (∀ r, op.instr = .cpy o → ebWV o = true → 0 < n → op.ref = some r → s.opFault op [⟨a, n, false, false, 1⟩] = none →
    leaves (sentDeposit s.nextId op r o (op.val 3).toNat n n
      ((List.range n).map fun i => (i, taken op.early 0 (aliasOff a + i) (s.sliceByte k (aliasOff a + i))))))
  ∧ (op.instr = .cpy o → ebWV o = false → 0 < n → s.opFault op [⟨a, n, false, true, 1⟩, ⟨b, n, true, true, 1⟩] = none →
    isVirtual a ≠ isVirtual b → (isVirtual a = true → ∀ c ∈ chunks a n, (s.chunkAt op.who.ctx c.1 c.2 false).isSome = true) →
    (isVirtual b = true → b % 4096 + n ≤ 4096 ∧ (s.chunkAt op.who.ctx b n true).isSome = true) →
    ∃ t, exec (.copyExecute k id) s = .next t ∧ Ended s t op 0 false ∧ Lands s t k op.who.ctx b n fun i v =>
      if isVirtual a then ∃ c p, c ∈ chunks a n ∧ c.1 ≤ a + i ∧ a + i < c.1 + c.2 ∧ s.chunkAt op.who.ctx c.1 c.2 false = some p
        ∧ v = taken op.early 0 (a + i) ((if p.fabric then s.remote else s.gddr).read (p.pa + (a + i - c.1)))
      else v = taken op.early 0 (aliasOff a + i) (s.sliceByte k (aliasOff a + i)))
  ∧ ∀ r, op.instr = .xst o → op.ref = some r → ∃ bs e,
    leaves (sentDeposit s.nextId op r o (op.val 2).toNat e (4 * op.rows.length * op.lanes.count) bs)
    ∧ (∀ p ∈ bs, p.1 < e) ∧ (bs ≠ [] → ∃ p ∈ bs, p.1 + 1 = e) ∧ (bs = [] → e = 0)
    ∧ ∀ at_ v, (at_, v) ∈ bs ↔ ∃ j i c, j < op.rows.length ∧ i < 128 ∧ op.lanes.getLsbD i = true ∧ c < 4
      ∧ at_ = (if o.fn.getLsbD 0 then 4 * op.lanes.count * j + 4 * (List.range i).countP (fun m => op.lanes.getLsbD m)
          else 512 * j + 4 * i) + c
      ∧ v = BitVec.ofNat 8 (((op.rows.getD j []).getD i 0).toNat / 256 ^ c)

/-- 08 R179, R181: a cpyx within the own slice reads every element, converts it, and writes it at its other place; where
elements overlap the last one stays; no other byte changes. -/
def Sys2Proof.Machine.Claims.CpyxBytes : Prop := ∀ (s : State) (k id slot : Nat) (op : EngineOp) (o : Op) (wg : Workgroup),
  let r := recordBits wg.records (ebRec o).toNat
  let st := o.fn.getLsbD 0
  let w := codeBits (recView r) / 8
  let els := cpyxElems r (o.fn.getLsbD 2) wg.base (op.val 0).toNat
  let size := if st then recSize r else w
  let place := fun (e : CpyxElem) => aliasOff (if st then e.recA else e.plainA)
  let byte := fun (off : Nat) => taken op.early 0 off (s.sliceByte k off)
  let value := fun (e : CpyxElem) => if st then (recStore r (BitVec.ofNat 32 (element byte (aliasOff e.plainA) w)) 0).code
    else (recLoad r ((List.range (recSize r)).map fun i => byte (aliasOff e.recA + i)) (e.c0 % 32)).code
  s.memoryOk = true → s.turn k id op → op.instr = .cpyx o → op.who.party = some (.group slot) → s.workgroup? k slot = some wg →
  (∀ e ∈ els, isVirtual e.recA = false ∧ isVirtual e.plainA = false) →
  s.opFault op ((els.map fun e => (⟨e.recA, recSize r, st, true, 1⟩ : Span))
    ++ els.map fun e => (⟨e.plainA, w, !st, true, 1⟩ : Span)) = none →
  ∃ t fl, exec (.copyExecute k id) s = .next t
    ∧ (∀ off, (∀ e ∈ els, off < place e ∨ place e + size ≤ off) → t.sliceByte k off = s.sliceByte k off)
    ∧ (∀ (l : Nat) e i, els[l]? = some e → i < size → (∀ (m : Nat) e', l < m → els[m]? = some e' →
        place e + i < place e' ∨ place e' + size ≤ place e + i) →
        t.sliceByte k (place e + i) = BitVec.ofNat 8 (value e / 256 ^ i))
    ∧ (∀ j off, j ≠ k → t.sliceByte j off = s.sliceByte j off) ∧ t.gddr = s.gddr ∧ t.remote = s.remote ∧ Ended s t op fl false

/-- 09 R202, R204, R205: an xmov, xgm or xput whose operands pass writes its destination alone: the bytes of its source, or the
pattern; an xmc gives every core of its mask that may be written the same bytes, and the others a record; xmc.dep sends one
deposit to each; an xadd queues one contribution for each element, but none once its context has been detached. -/
def Sys2Proof.Machine.Claims.ExchangeBytes : Prop := ∀ (s : State) (k id : Nat) (op : EngineOp) (o : Op),
  s.memoryOk = true → s.turn k id op → 0 < (op.val 2).toNat →
  let n := (op.val 2).toNat
  let ctx := op.who.ctx
  let a := wrap48 (op.val 1).toNat
  let b := wrap48 (op.val 0).toNat
  let mask := fun (d : Nat) => (op.val 3).getLsbD d
  let ends := fun (t : State) => exec (.exchangeTransferExecute k id) s = .next t
  let readable := isVirtual a = true → ∀ c ∈ chunks a n, (s.chunkAt ctx c.1 c.2 false).isSome = true
  let writable := isVirtual b = true → b % 4096 + n ≤ 4096 ∧ (s.chunkAt ctx b n true).isSome = true
  (s.ctx? ctx).isSome = true → s.unhindered op →
  (op.instr = .xmov o → s.xFault op (some (b, n)) (some (a, n)) false = none →
    ∃ t, ends t ∧ Lands s t k ctx b n (s.sourceByte op n) ∧ Ended s t op 0 false)
  ∧ (op.instr = .xgm o → isVirtual a ≠ isVirtual b → s.xFault op (some (b, n)) (some (a, n)) true = none → readable → writable →
    ∃ t, ends t ∧ Lands s t k ctx b n (s.sourceByte op n) ∧ Ended s t op 0 false)
  ∧ (op.instr = .xput o → s.xFault op (some (b, n)) none true = none → writable →
    ∃ t, ends t ∧ Ended s t op 0 false
      ∧ Lands s t k ctx b n fun i v => v = BitVec.ofNat 8 ((op.val 1).toNat / 256 ^ (i % 8)))
  ∧ (op.instr = .xmc o → ebWV o = false → s.xFault op none (some (a, n)) false = none →
    ∃ (t : State) (data : Nat → Byte) (bad : Bool), ends t ∧ (∀ i < n, s.sourceByte op n i (data i))
      ∧ (∀ d < 64, mask d = true → s.receives ctx d (op.val 0).toNat n →
          ∀ off, t.sliceByte d off = if (op.val 0).toNat ≤ off ∧ off < (op.val 0).toNat + n then data (off - (op.val 0).toNat)
            else s.sliceByte d off)
      ∧ (∀ d off, (d < 64 → mask d = true → ¬ s.receives ctx d (op.val 0).toNat n) → t.sliceByte d off = s.sliceByte d off)
      ∧ (bad = true ↔ ∃ d < 64, mask d = true ∧ ¬ s.receives ctx d (op.val 0).toNat n) ∧ Ended s t op 0 bad)
  ∧ (∀ r, op.instr = .xmc o → ebWV o = true → op.val 3 ≠ 0 → op.ref = some r → s.xFault op none (some (a, n)) false = none →
    ∃ t bs, ends t ∧ (∀ j off, t.sliceByte j off = s.sliceByte j off)
      ∧ (∃ f : Nat → Byte, bs = (List.range n).map (fun i => (i, f i)) ∧ ∀ i < n, s.sourceByte op n i (f i))
      ∧ t.deposits = s.deposits ++ (((List.range 64).filter mask).zipIdx.map fun d =>
          sentDeposit (s.nextId + d.2) op r o d.1 n n bs))
  ∧ (op.instr = .xmc o → ebWV o = true → op.val 3 = 0 → s.xFault op none (some (a, n)) false = none →
    ∃ t, ends t ∧ (∀ j off, t.sliceByte j off = s.sliceByte j off) ∧ t.deposits = s.deposits ∧ Ended s t op 0 false)
  ∧ ∀ c d off, op.instr = .xadd o → s.ctx? ctx = some c → rangeOf k b = .slice d off →
    let w := if bits o.fn 0 2 ≤ 1 then 4 else 2
    let gone := c.detached = true ∨ op.id < c.voidBefore
    a % w = 0 → b % w = 0 → s.xFault op (some (b, n * w)) (some (a, n * w)) false = none →
    (∀ q, s.core? d = some q → q.poisoned false off (n * w) = none) →
    ∃ t e l, ends t ∧ (∀ j at_, t.sliceByte j at_ = s.sliceByte j at_) ∧ Ended s t op 0 false
      ∧ t.ctx? ctx = some e ∧ e.xadds = c.xadds ++ l ∧ (gone → l = []) ∧ (¬ gone → l.length = n
      ∧ ∀ i < n, ∃ v : Word, l[i]? = some ⟨op.id, op.who, k, bits o.fn 0 2, d, off + w * i, v⟩ ∧ v.toNat < 256 ^ w
        ∧ ∀ j < w, s.sourceByte op (n * w) (w * i + j) (BitVec.ofNat 8 (v.toNat / 256 ^ j)))

/-- 08 R168, R173, R184, 09 R204: which fault an operand gives: the first cause, in the order misaligned, phase-illegal access,
slice bounds, of one that some operand meets; and a sweep, copy or transfer with a fault writes none of its data: it leaves its
list, a record joins the fault queue, and it is counted complete as faulted, which sets the pending bit when it was the only
one outstanding. -/
def Sys2Proof.Machine.Claims.EngineFaults : Prop :=
  (∀ (s : State) (op : EngineOp) (l : List Span),
    let skew := ∃ sp ∈ l, sp.a % sp.align ≠ 0
    let byte := fun (c : Nat) => ∃ sp ∈ l, ∃ i < sp.n, (sp.dv && isVirtual ((sp.a + i) % 2 ^ 48)) = false
      ∧ s.judgeByte op.who.core op.who.ctx op.party sp.write ((sp.a + i) % 2 ^ 48) = c
    let cause := (s.opFault op l).map Prod.fst
    (skew → cause = some 0x08) ∧ (¬ skew → byte 4 → cause = some 0x04) ∧ (¬ skew → ¬ byte 4 → byte 7 → cause = some 0x07)
    ∧ (¬ skew → ¬ byte 4 → ¬ byte 7 → cause = none ∨ cause = some 0x1B)
    ∧ ∀ a sp, s.opFault op l = some (0x08, a) → sp ∈ l → sp.a % sp.align ≠ 0 → a ≤ aliasForm op.who.core sp.a)
  ∧ (∀ (s : State) (k id : Nat) (op : EngineOp) (r : OpRef) (cause a : Nat), s.turn k id op → op.ref = some r → s.unhindered op →
    let faults := fun (e : Instr) (cls : Nat) => exec e s = .next
      (((if cause = 0x1B then s.modCore k fun c => { c with
            ops := c.ops.filter (fun q => q.id != op.id), ecc := c.ecc.modify 3 fun n => if n = BitVec.allOnes 64 then n else n + 1 }
        else s.modCore k fun c => { c with ops := c.ops.filter fun q => q.id != op.id }).appendRecord op.who.ctx
        (s.engineRecord op.who cls cause a)).complete k r true)
    let n := (op.val 2).toNat
    let src := wrap48 (op.val 1).toNat
    let dst := wrap48 (op.val 0).toNat
    (∀ o p, sweepPlan op = some (o, p) → s.opFault op (swSpans op o 0 p.wD ++ (if p.useA then swSpans op o 1 p.wA else [])
        ++ (if p.useB then swSpans op o 2 p.wB else [])) = some (cause, a) → faults (.sweepExecute k id) 0)
    ∧ (∀ o, op.instr = .swred o → s.opFault op (⟨dst, swWidth (swType o), true, false, swWidth (swType o)⟩
        :: swSpans op o 1 (swWidth (swType o))) = some (cause, a) → faults (.sweepExecute k id) 0)
    ∧ (∀ o, op.instr = .cpy o → 0 < n → s.opFault op (⟨src, n, false, !ebWV o, 1⟩ ::
        (if ebWV o then [] else [⟨dst, n, true, true, 1⟩])) = some (cause, a) → faults (.copyExecute k id) 0)
    ∧ (∀ o, op.instr ∈ [.xmov o, .xgm o] → 0 < n → (op.instr = .xgm o → isVirtual src ≠ isVirtual dst) →
        s.xFault op (some (dst, n)) (some (src, n)) (op.instr == .xgm o) = some (cause, a) → faults (.exchangeTransferExecute k id) 5)
    ∧ (∀ o, op.instr = .xput o → 0 < n → s.xFault op (some (dst, n)) none true = some (cause, a) →
        faults (.exchangeTransferExecute k id) 5)
    ∧ (∀ o, op.instr = .xmc o → 0 < n → s.xFault op none (some (src, n)) false = some (cause, a) →
        faults (.exchangeTransferExecute k id) 5))
  ∧ (∀ (s : State) (k id : Nat) (op : EngineOp) (o : Op), s.turn k id op →
    (op.instr ∈ [.swadd o, .swmul o, .swfma o, .swmax o, .swmin o, .swmov o, .swfill o, .swred o, .swsel o, .swcvt o] →
      ∃ t, exec (.sweepExecute k id) s = .next t)
    ∧ (op.instr ∈ [.cpy o, .xst o, .cpyx o] → ∃ t, exec (.copyExecute k id) s = .next t)
    ∧ (op.instr ∈ [.xmov o, .xput o, .xmc o, .xgm o, .xadd o] → s.unhindered op →
      ∃ t, exec (.exchangeTransferExecute k id) s = .next t)
    ∧ (¬ s.unhindered op → op.instr ∈ [.xmov o, .xput o, .xmc o, .xgm o] →
      exec (.exchangeTransferExecute k id) s = .fault (.notEnabled "EXCHANGE_TRANSFER_EXECUTE")))
  ∧ ∀ (u : Uni) (cls n : Nat) (bad : Bool), cls < 5 → u.counts.length = 5 →
    (u.count cls = ⟨n, [.running]⟩ → (u.completeOp cls n bad).count cls = ⟨n + 1, []⟩
      ∧ (u.completeOp cls n bad).pend = if bad then u.pend ||| (1#5 <<< cls) else u.pend)
    ∧ ∀ l j, u.count cls = ⟨n, .running :: l⟩ → 1 ≤ j → j ≤ l.length →
      ((u.completeOp cls (n + j) bad).count cls).val = l.length + 1 ∧ (u.completeOp cls (n + j) bad).pend = u.pend

/-- 08 R168, R173 to R185, 09 R197, R202 to R207, 26 R361: the operation that has waited longest at its engine runs when
its event comes, with the bytes that it has read before; what sweeps, copies and exchange transfers write (later, where
the step makes the event slow, 08 R183), and how one that faults ends; a transfer waits for deposits that its core has
sent to the same core before. That a select passes the bits of a NaN is the model's reading (log 103), and so is the
sign of an exact zero sum (log 20). The model's own here: when memory is read and written (log 5, DESIGN CHOICE), the
free values of Config (log 17, DESIGN CHOICE), the sign of an exact zero sum (log 20, DEDUCED), records of exchange
faults (log 32, DEDUCED), order of an exchange transfer's checks (log 33, DEDUCED), slice operands of exchange transfers
(log 34, DEDUCED), xmc with a target that fails (log 35, DEDUCED), swsel of a NaN (log 103, DEDUCED), an engine
operation that meets an error (log 105, DESIGN CHOICE), a word in error that a cpyx writes (log 106, DESIGN CHOICE), a
compressed source block at the edge of a translation fault (log 126, DESIGN CHOICE), transfers out of a bound pair or an
object's extent (log 128, DESIGN CHOICE). -/
def Obligations.EngineOperationsRun : Prop :=
  Claims.SweepBytes ∧ Claims.SweepReduces ∧ Claims.CopyBytes ∧ Claims.CpyxBytes ∧ Claims.ExchangeBytes ∧ Claims.EngineFaults

/-- 08 R177: a copy within the own slice whose operands pass their checks leaves in every byte of its destination the
byte that its source held before, wherever they overlap, and changes no other byte of memory (memmove); a byte that the
copy has taken at an earlier step (08 R182) as it was then. The model's own here: when memory is read and written (log
5, DESIGN CHOICE). -/
def Obligations.CopyIsMemmove : Prop := ∀ (s t : State) (k id : Nat) (op : EngineOp) (o : Op),
  let n := (op.val 2).toNat
  let a := wrap48 (op.val 1).toNat
  let b := wrap48 (op.val 0).toNat
  s.memoryOk = true → (∃ c, s.core? k = some c ∧ c.nextOp id (fun _ => true) = some op) → op.instr = .cpy o → ebWV o = false →
  op.who.core = k → 0 < n → s.opFault op [⟨a, n, false, true, 1⟩, ⟨b, n, true, true, 1⟩] = none →
  isVirtual a = false → isVirtual b = false →
  exec (.copyExecute k id) s = .next t →
    (∀ i < n, t.sliceByte k (aliasOff b + i) = taken op.early 0 (aliasOff a + i) (s.sliceByte k (aliasOff a + i)))
    ∧ (∀ off, off < aliasOff b ∨ aliasOff b + n ≤ off → t.sliceByte k off = s.sliceByte k off)
    ∧ (∀ j off, j ≠ k → t.sliceByte j off = s.sliceByte j off) ∧ t.gddr = s.gddr ∧ t.remote = s.remote

/-- 03 R52, R68; 07 R163; 13 R241; 15 R263: a result lands when its event comes, which is not before its access has been
performed: its registers are written, full, in the lanes that were selected, and its operation counts complete. -/
def Sys2Proof.Machine.Claims.ResultsLand : Prop := ∀ (k id : Nat) (r : Result),
  let waiting := fun (kind : ResKind) (s : State) =>
    ∃ c, s.core? k = some c ∧ c.results.find? (fun q => q.id == id && q.kind == kind) = some r
      ∧ ∀ n ∈ c.nodes, n.left ≠ [] → ∀ x i, n.kind ≠ .access x i (some r.id)
  let lands := fun (s : State) => s.landResult k r
  Happens (.vtosResult k id) (waiting .vtos) lands ∧ Happens (.loadDataReturn k id) (waiting .load) lands
    ∧ Happens (.atomicResultReturn k id) (waiting .atomic) lands ∧ Happens (.graphResult k id) (waiting .graph) lands
    ∧ Happens (.traceResult k id) (waiting .trace) lands

/-- 03 R52: what landing does to a register of a group: the selected lanes take the result, the others keep their values, and
the register is full. -/
def Sys2Proof.Machine.Claims.LandedRegisters : Prop := ∀ (s : State) (k slot n : Nat) (r : Result) (g : Group) (d : Nat) (l : List Word),
  r.party = .group slot → r.vregs = [(d, l)] → r.sregs = [] → r.ref = none → s.group? k slot = some g → d < g.v.length →
  d < 384 → n < 128 →
  ∃ h, (s.landResult k r).group? k slot = some h
    ∧ (h.v.getD d []).getD n 0 = (if r.lanes.getLsbD n then l.getD n 0 else (g.v.getD d []).getD n 0)
    ∧ h.vEmpty.getLsbD d = false ∧ h.vTaint.getLsbD d = r.taint
    ∧ (∀ e, e ≠ d → h.v[e]? = g.v[e]? ∧ h.vEmpty.getLsbD e = g.vEmpty.getLsbD e) ∧ h.uni = g.uni

/-- 03 R52, R68; 07 R163; 13 R241; 15 R263: a result lands when its event comes: its registers are written, full,
in the lanes that were selected, and its operation counts complete. 03 R52: what landing does to a register of a
group: the selected lanes take the result, the others keep their values, and the register is full. -/
def Obligations.ResultsLand : Prop :=
  Claims.ResultsLand ∧ Claims.LandedRegisters

/-! Wing pairs, barrier objects, parking and exchange programs (rows 0x9 and 0xA). -/

/-- 09 R193 to R195: binding and freeing a wing pair. -/
def Sys2Proof.Machine.Claims.WingPairs : Prop := ∀ (o : Op) (c : Core) (cc : CoreCtx),
  (∀ off : Nat, Runs (.wbind o) fun s x =>
    let z := (x.count o).toNat
    { req := { g := o.g, phase := .C, who := .any, reads := rdS o.a :: countReads o, writes := [] }
      own := s.core? x.core = some c ∧ s.cctx? x.core x.ctx = some cc
        ∧ z ≠ 0 ∧ z % 4096 = 0 ∧ z ≤ 2 ^ 22 ∧ (x.s o.a.reg).toNat % 4096 = 0
        ∧ s.ownExtent x (x.s o.a.reg).toNat (2 * z) = some off
        ∧ (∀ w ∈ cc.wings, w.handle ≠ ebWH o) ∧ c.wingCount < 64
        ∧ (∀ d ∈ c.cctx, ∀ w ∈ d.wings, off + 2 * z ≤ w.base ∨ w.base + 2 * w.size ≤ off)
        ∧ (∀ d ∈ c.cctx, ∀ b ∈ d.objs, off + 2 * z ≤ b.addr ∨ b.addr + 32 ≤ off)
        ∧ (ebBV o = true → ∃ b, cc.obj? (ebBar o) = some b ∧ b.owner = x.owner)
      next := (s.modCctx x.core x.ctx fun cc => { cc with wings := cc.wings ++
        [⟨ebWH o, off, z, x.owner, if ebBV o then some (ebBar o) else none⟩] }).advance x 16
      parts := [.wings] })
  ∧ ∀ w : Wing, Runs (.wfree o) fun s x =>
    let h := if immBit o then (x.s o.a.reg).toNat else bits o.fn 0 6
    { req := { g := o.g, phase := .C, who := .any, reads := if immBit o then [rdS o.a] else [], writes := [] }
      own := s.cctx? x.core x.ctx = some cc ∧ h < 64 ∧ cc.wing? h = some w ∧ w.owner = x.owner
      next := (s.modCctx x.core x.ctx fun cc => { cc with wings := cc.wings.filter fun w => w.handle != h }).advance x 8
      parts := [.wings] }

/-- 09 R198 to R201: initialising and freeing a barrier object, arriving at it, and waiting for its next generation. -/
def Sys2Proof.Machine.Claims.BarrierObjects : Prop := ∀ (o : Op) (c : Core) (cc : CoreCtx),
  let req : Req := { g := o.g, phase := .C, who := .any, reads := [rdS o.a, rdS o.b], writes := [] }
  (∀ off : Nat, Runs (.bini o) fun s x =>
    let b := x.s o.b.reg
    let clustered := match s.workgroup? x.core x.slot with
      | some w => !x.isCt && (w.shape != 0 || decide (1 < w.wpc)) | none => false
    { req := req
      own := s.core? x.core = some c ∧ s.cctx? x.core x.ctx = some cc ∧ bits b 9 7 = 0
        ∧ (b.getLsbD 8 = true → clustered = true) ∧ (x.s o.a.reg).toNat % 32 = 0
        ∧ s.ownExtent x (x.s o.a.reg).toNat 32 = some off ∧ bits b 16 16 ≠ 0 ∧ cc.obj? (bits b 0 8) = none
        ∧ c.objCount < 256 ∧ c.meetsWing off 32 = false ∧ c.meetsObj off 32 = false
      next := ((s.sliceWrite x.core off (ObjVal.bytes ⟨b.getLsbD 8, bits b 16 16, 0, bits b 32 32, 0, 0, bits b 0 8, false,
          false, 0, 0⟩)).modCctx x.core x.ctx fun cc =>
        { cc with objs := cc.objs ++ [⟨bits b 0 8, off, x.owner⟩] }).advance x 8
      parts := [.wings, .slice] })
  ∧ (∀ (off : Nat) (ob : Obj) (v : ObjVal), Runs (.bini o) fun s x =>
    let b := x.s o.b.reg
    let k := bits b 0 8
    { req := req
      own := s.core? x.core = some c ∧ s.cctx? x.core x.ctx = some cc ∧ bits b 8 8 = 0
        ∧ (x.s o.a.reg).toNat % 32 = 0 ∧ s.ownExtent x (x.s o.a.reg).toNat 32 = some off ∧ bits b 16 16 = 0
        ∧ s.objVal? x.core x.ctx k = some (ob, v) ∧ ob.owner = x.owner ∧ c.poisoned false ob.addr 32 = none
        ∧ (∀ w ∈ cc.wings, w.bar ≠ some k)
        ∧ v.arr = 0 ∧ v.byt = 0 ∧ v.narr = 0 ∧ v.nbyt = 0 ∧ cc.wait ≠ .bwt k
        ∧ (∀ g, some g ∈ c.groups → g.ctx = x.ctx → ∀ sp, some sp ∈ g.splits → sp.wait ≠ .bwt k)
      next := ((s.sliceWrite x.core ob.addr (List.replicate 32 0)).modCctx x.core x.ctx fun cc =>
        { cc with objs := cc.objs.filter fun q => q.k != k }).advance x 8
      parts := [.wings, .slice] })
  ∧ (∀ (ob : Obj) (v : ObjVal), Runs (.barv o) fun s x =>
    let a := x.s o.a.reg
    let cl := o.fn.getLsbD 0
    let send := fun (t : State) (target : Nat) => { t with
      nextId := t.nextId + 1
      arrivals := t.arrivals ++ [⟨t.nextId, x.core, x.ctx, x.party, target, bits a 0 8, v.gen, o.fn.getLsbD 1, false⟩] }
    { req := { g := o.g, phase := .C, who := .any, reads := [rdS o.a], writes := [atS o.d] }
      own := s.core? x.core = some c ∧ s.objVal? x.core x.ctx (bits a 0 8) = some (ob, v)
        ∧ c.poisoned false ob.addr 32 = none ∧ bits a 8 56 = 0 ∧ v.scope = cl ∧ (cl = true → x.isCt = false)
      next := ((if cl then s.clusterCores x else [x.core]).foldl send (s.setS x o.d (v.gen.setWidth 64))).advance x 8
      parts := [.s (sNum o.d), .flight, .ids] })
  ∧ ∀ (ob : Obj) (v : ObjVal),
    Runs (.bwt o) (fun s x =>
      { goesOn req 8 s x with
        own := s.core? x.core = some c ∧ s.objVal? x.core x.ctx (bits (x.s o.a.reg) 0 8) = some (ob, v)
          ∧ c.poisoned false ob.addr 32 = none ∧ bits (x.s o.a.reg) 8 56 = 0 ∧ v.gen ≠ (x.s o.b.reg).lo })
    ∧ Runs (.bwt o) fun s x =>
      { req := req
        own := s.core? x.core = some c ∧ s.objVal? x.core x.ctx (bits (x.s o.a.reg) 0 8) = some (ob, v)
          ∧ c.poisoned false ob.addr 32 = none ∧ bits (x.s o.a.reg) 8 56 = 0 ∧ v.gen = (x.s o.b.reg).lo
        next := s.setWait x (.bwt (bits (x.s o.a.reg) 0 8)) }

/-- 09 R200, R201: what an arrival does to an object: it counts toward the current generation, toward the next one, or is held;
and a generation ends exactly when both counts stand, the next one starting with what was counted for it. -/
def Sys2Proof.Machine.Claims.BarrierGenerations : Prop :=
  (∀ (v : ObjVal) (flip : Bool),
    (v.arr ≠ v.expa → v.arrive v.gen flip = some { v with arr := v.arr + 1, flp := v.flp || flip })
    ∧ (v.arr = v.expa → v.arrive v.gen flip = some { v with narr := v.narr + 1, nflp := v.nflp || flip })
    ∧ v.arrive (v.gen + 1) flip = some { v with narr := v.narr + 1, nflp := v.nflp || flip }
    ∧ v.arrive (v.gen + 2) flip = none)
  ∧ ∀ (n : Nat) (v : ObjVal),
    (¬ (v.arr = v.expa ∧ v.byt = v.expb) → v.settle (n + 1) = (v, 0))
    ∧ (v.arr = v.expa → v.byt = v.expb → v.expa ≠ 0 → v.narr < v.expa →
        v.settle (n + 1) = ({ v with
          arr := v.narr, narr := 0, byt := min v.nbyt v.expb, nbyt := v.nbyt - min v.nbyt v.expb, gen := v.gen + 1
          flp := v.nflp, nflp := false }, if v.flp then 1 else 0))

/-- 09 R198 to R201: initialising and freeing a barrier object, arriving at it, and waiting for its next generation. 09
R200, R201: what an arrival does to an object: it counts toward the current generation, toward the next one, or is held;
and a generation ends exactly when both counts stand, the next one starting with what was counted for it. The model's
own here: barrier objects and deposits in error (log 96, DESIGN CHOICE), counts beyond NARR and NBYT (log 129, DESIGN
CHOICE). -/
def Obligations.BarrierObjects : Prop :=
  Claims.BarrierObjects ∧ Claims.BarrierGenerations

namespace Sys2Proof.Machine

/-- No packet that core has sent to target on one network (word: the word network) before packet id is on its way (26 R361). -/
def State.onTime (s : State) (core target id : Nat) (word : Bool) : Prop :=
  (∀ e ∈ s.deposits, e.verdict = none → e.who.core = core → e.target = target → decide (e.bytes.length ≤ 64) = word → id ≤ e.id)
  ∧ (word = true → ∀ a ∈ s.arrivals, a.held = false → a.core = core → a.target = target → id ≤ a.id)

/-- The next deposit to be judged: the first of its party to its target, and of its core on its network. -/
def State.nextDeposit (s : State) (id : Nat) (d : Deposit) : Prop :=
  s.deposits.find? (fun e => e.id == id && e.verdict.isNone) = some d
  ∧ s.deposits.find? (fun e => e.verdict.isNone && e.target == d.target && e.who.core == d.who.core
      && e.ref.party == d.ref.party) = some d
  ∧ s.onTime d.who.core d.target d.id (decide (d.bytes.length ≤ 64))

end Sys2Proof.Machine

/-- 09 R196, 24 R350: which pair an accepted deposit is written to; a refused one, and one that meets a word in error, changes
nothing and leaves a record. -/
def Sys2Proof.Machine.Claims.DepositsJudged : Prop := ∀ (id : Nat) (d : Deposit),
  (∀ (s : State) (w : Wing), s.depositPair d = some w ↔ ∃ c cc, s.core? d.target = some c ∧ c.on = true ∧ s.cctx? d.target d.who.ctx = some cc
    ∧ cc.wings.find? (fun w => w.handle == d.handle) = some w ∧ (d.extent = 0 ∨ d.offset + d.extent ≤ w.size)
    ∧ ∀ n g, d.bar = some (n, g) → (cc.objs.find? fun o => o.k == n).isSome = true)
  ∧ Happens (.depositArrival id) (fun s => s.nextDeposit id d ∧ s.depositPair d = none)
    (fun s => (s.deferFault d.who 5 0x1A (targetAddr d.target d.offset)).judge id false)
  ∧ ∀ w e, Happens (.depositArrival id) (fun s => s.nextDeposit id d ∧ s.depositPair d = some w ∧ s.depositBad d w = some e)
    (fun s => ((s.countEcc d.target).deferFault d.who 5 0x1B (targetAddr d.target e)).judge id false)

/-- 08 R178, 09 R196, R200, R201: an accepted deposit writes its bytes into the back half of its pair and nothing else, and
where it names a barrier object it is counted there, which may complete a generation and flip the pairs bound to it; toward
which generation it counts. -/
def Sys2Proof.Machine.Claims.DepositsLand : Prop :=
  (∀ (id : Nat) (d : Deposit) (s : State) (w : Wing), s.memoryOk = true → s.nextDeposit id d → s.depositPair d = some w →
    s.depositBad d w = none →
    let at_ := w.base + w.size + d.offset
    ∃ t c c1, exec (.depositArrival id) s = .next t ∧ s.core? d.target = some c
      ∧ t.deposits = (s.deposits.map fun e => if e.id = id then { e with verdict := some true, judged := s.nextId } else e)
      ∧ t.nextId = s.nextId + 1
      ∧ { c1 with slice := c.slice, poison := c.poison } = c
      ∧ (∀ off, (∀ b ∈ d.bytes, at_ + b.1 ≠ off) → c1.slice.read off = c.slice.read off)
      ∧ (∀ (l : Nat) b, d.bytes[l]? = some b → (∀ (m : Nat) b', l < m → d.bytes[m]? = some b' → b'.1 ≠ b.1) →
          c1.slice.read (at_ + b.1) = b.2)
      ∧ (d.bar = none → t.core? d.target = some c1)
      ∧ (∀ n g, d.bar = some (n, g) → ∃ cc ob, s.cctx? d.target d.who.ctx = some cc
          ∧ cc.objs.find? (fun o => o.k == n) = some ob
          ∧ (let v := (ObjVal.ofBytes (c1.slice.readBytes ob.addr 32)).countBytes g d.count
            let r := v.settle (v.narr + 2)
            t.core? d.target = some (flipTimes r.2 (c1.storeBytes ob.addr r.1.bytes) d.who.ctx n)))
      ∧ (∀ j, j ≠ d.target → t.core? j = s.core? j) ∧ t.gddr = s.gddr ∧ t.remote = s.remote)
  ∧ ∀ (v : ObjVal) (n : Nat),
    v.countBytes (some v.gen) n = { v with byt := v.byt + min n (v.expb - v.byt), nbyt := v.nbyt + (n - min n (v.expb - v.byt)) }
    ∧ v.countBytes none n = v.countBytes (some v.gen) n ∧ v.countBytes (some (v.gen - 1)) n = v.countBytes (some v.gen) n
    ∧ v.countBytes (some (v.gen + 1)) n = { v with nbyt := v.nbyt + n }

/-- 08 R178, 09 R196, 26 R361: acknowledgements from one core to another come in the order in which the deposits were judged;
the last one of an operation's deposits counts it complete. -/
def Sys2Proof.Machine.Claims.DepositsAcknowledged : Prop := ∀ (id : Nat) (d : Deposit),
  let first := fun (s : State) => ∀ e ∈ s.deposits, e.verdict ≠ none → e.who.core = d.who.core → e.target = d.target →
    d.judged ≤ e.judged
  (∀ s, (s.deposits.find? fun e => e.id == id && e.verdict.isSome) = some d → ¬ first s →
    exec (.depositAck id) s = .fault (.notEnabled "DEPOSIT_ACK"))
  ∧ Happens (.depositAck id) (fun s => (s.deposits.find? fun e => e.id == id && e.verdict.isSome) = some d ∧ first s
      ∧ ∀ e ∈ s.deposits, e.id ≠ id → e.opId ≠ d.opId)
    (fun s => { s with deposits := s.deposits.filter fun e => e.id != id }.complete d.who.core d.ref
      (d.bad || d.verdict == some false))
  ∧ Happens (.depositAck id) (fun s => (s.deposits.find? fun e => e.id == id && e.verdict.isSome) = some d ∧ first s
      ∧ ∃ e ∈ s.deposits, e.id ≠ id ∧ e.opId = d.opId)
    (fun s => { s with deposits := (s.deposits.filter fun e => e.id != id).map fun e =>
      if e.opId = d.opId then { e with bad := e.bad || (d.bad || d.verdict == some false) } else e })

/-- 09 R200, R201: an arrival counts at its replica, or is held there until the replica has reached the generation before. -/
def Sys2Proof.Machine.Claims.ArrivalsCount : Prop := ∀ (id : Nat) (a : Arrival),
  let counted := fun (s : State) (ob : Obj) (n : ObjVal) =>
    let r := n.settle (n.narr + 2)
    { s with arrivals := s.arrivals.filter fun b => b.id != a.id }.modCore a.target fun c =>
      flipTimes r.2 (c.storeBytes ob.addr r.1.bytes) a.ctx ob.k
  let there := fun (s : State) (ob : Obj) (v : ObjVal) => s.objVal? a.target a.ctx a.k = some (ob, v)
    ∧ ∀ c, s.core? a.target = some c → c.poisoned false ob.addr 32 = none
  let comes := fun (s : State) => (s.arrivals.find? fun b => b.id == id && !b.held) = some a ∧ s.onTime a.core a.target a.id true
  (∀ s, comes s → ∃ t, exec (.barrierArrival id) s = .next t)
  ∧ (∀ ob v n, Happens (.barrierArrival id) (fun s => comes s ∧ there s ob v ∧ v.arrive a.gen a.flip = some n)
      fun s => counted s ob n)
  ∧ Happens (.barrierArrival id) (fun s => comes s
      ∧ (s.objVal? a.target a.ctx a.k = none ∨ ∃ ob v, there s ob v ∧ v.arrive a.gen a.flip = none))
      (fun s => { s with arrivals := s.arrivals.map fun b => if b.id = a.id then { b with held := true } else b })
  ∧ ∀ ob v n, Happens (.heldArrivalRelease id)
    (fun s => (s.arrivals.find? fun b => b.id == id && b.held) = some a ∧ there s ob v ∧ v.arrive a.gen a.flip = some n)
    fun s => counted s ob n

/-- 08 R178, 09 R196, R200, R201, 26 R361: deposits and arrivals reach their targets in the order of their network: what
they write and count there, what is refused, and their acknowledgement. The model's own here: records of exchange faults
(log 32, DEDUCED), a released barrier object or wing with deposits under way (log 84, DEDUCED), barrier objects and
deposits in error (log 96, DESIGN CHOICE), counts beyond NARR and NBYT (log 129, DESIGN CHOICE). -/
def Obligations.DepositsAndArrivals : Prop :=
  Claims.DepositsJudged ∧ Claims.DepositsLand ∧ Claims.DepositsAcknowledged ∧ Claims.ArrivalsCount

/-- 09 R186, R187: parv makes a thread wait, and when its counters are zero, its registers full and no fault is pending the
group parks, or the control thread has arrived. -/
def Sys2Proof.Machine.Claims.ParkingAndArrival : Prop :=
  (∀ o : B64,
    let req : Req := { g := o.g, phase := .C, who := .any, reads := [], writes := [], noSup := true }
    Runs (.parv o) (fun s x =>
      { req := req, own := x.isCt = true, next := s.setWait x (.parv (x.pc.add (4 * o.t16.toInt))) })
    ∧ ∀ g, Runs (.parv o) fun s x =>
      { req := req, own := x.grp = some g ∧ o.t16 = 0 ∧ g.splitCount ≤ 1 ∧ (∀ r ∈ g.recs, r = none)
        next := s.setWait x (.parv x.pc) })
  ∧ (∀ (k slot e : Nat) (g : Group) (sp : Split) (l : Pc), Happens (.groupPark k slot)
    (fun s => s.group? k slot = some g ∧ g.held (fun w => match w with | .parv _ => true | _ => false) = some e
      ∧ g.split? e = some sp ∧ sp.wait = .parv l ∧ s.ctxLive k g.ctx = true ∧ g.frozen = false ∧ g.parked = false
      ∧ g.uni.idle = true ∧ g.uni.sEmpty = 0 ∧ g.vEmpty = 0 ∧ g.uni.pend = 0 ∧ s.holdsLatch k g = false)
    (fun s => s.modGroup k slot fun g => { g with parked := true, uni := { g.uni with traces := [] } }))
  ∧ ∀ (k ctx : Nat) (c : CoreCtx) (l : Pc), Happens (.ctArrive k ctx)
    (fun s => s.cctx? k ctx = some c ∧ c.wait = .parv l ∧ s.ctxLive k ctx = true ∧ c.running = true ∧ c.stopped = false
      ∧ c.user.uni.idle = true ∧ c.user.uni.sEmpty = 0 ∧ c.user.uni.pend = 0)
    (fun s => s.modCctx k ctx fun c => { c with wait := .arrived l, user := { c.user with uni := { c.user.uni with traces := [] } } })

/-- 09 R207 to R209: xend and xsync, and the end of a stage. -/
def Sys2Proof.Machine.Claims.ExchangeStages : Prop :=
  (∀ o : Op,
    let req : Req := { g := o.g, phase := .X, who := .ct, reads := [], writes := [], noSup := true }
    Runs (.xend o) (fun s x => { req := req, next := (s.advance x 8).setWait x .xend })
    ∧ Runs (.xsync o) fun s x => { req := req, next := s.setWait x .xsync })
  ∧ ∀ (ctx : Nat) (d : Ctx), Happens (.xsyncStageEnd ctx)
    (fun s => s.phase.getLsbD 0 = true ∧ s.ctx? ctx = some d ∧ d.member = true ∧ s.transfersDone ctx = true
      ∧ (∃ k c, k < 64 ∧ s.cctx? k ctx = some c ∧ c.resident = true ∧ c.running = true ∧ c.wait = .xsync ∧ c.stopped = false)
      ∧ ∀ k c, k < 64 → s.cctx? k ctx = some c → c.resident = true →
        c.running = false ∨ c.wait = .xend ∨ (c.wait = .xsync ∧ c.stopped = false))
    (fun s => ((List.range 64).filter fun k => match s.cctx? k ctx with
        | some c => c.resident && (c.running && c.wait == .xsync && !c.stopped) | none => false).foldl
      (fun s k => match s.ctAt k ctx with | some x => s.advance x 8 | none => s) ((s.applyXadds ctx).startStage ctx))

/-- 09 R202, R207, 24 R349: at the end of a stage an element to which every contribution that meets its bytes goes becomes its
value with the contributions added one after the other, in the order of issuing core and then of issue, unless its bank word is
in error: then the element stays, and each contribution gives a record and sets its issuer's pending bit (log 115: DEDUCED);
and what the next stage reads is memory as it is then. -/
def Sys2Proof.Machine.Claims.StagesAdd : Prop := ∀ (s : State) (ctx : Nat) (d : Ctx), s.memoryOk = true → s.ctx? ctx = some d →
  (∀ (k off type : Nat) (l : List XAdd),
    let w := if type ≤ 1 then 4 else 2
    let add := fun (x : Nat) (c : XAdd) =>
      if type = 1 then (x + c.value.toNat) % 2 ^ 32
      else
        let f := if type = 0 then FloatFmt.f32 else if type = 2 then .f16 else .bf16
        ((sumFV [decodeFloat f x, decodeFloat f c.value.toNat] false).round f RCtl.rne).code
    (∀ c ∈ d.xadds, c.target = k → c.off + xaddBytes c.type ≤ off ∨ off + w ≤ c.off ∨ (c.off = off ∧ c.type = type)) →
    l.Perm (d.xadds.filter fun c => c.target == k && c.off == off) → (∀ c ∈ l, c.core < 64 ∧ c.type = type) →
    l.Pairwise (fun a b => a.core < b.core ∨ (a.core = b.core ∧ a.op < b.op)) → (s.core? k).isSome = true →
    (∀ c, s.core? k = some c → c.poisoned false off w = none) →
    ofLE ((s.applyXadds ctx).sliceRead k off w) = l.foldl add (ofLE (s.sliceRead k off w)))
  ∧ (∀ k off, (∀ c ∈ d.xadds, c.target = k → off < c.off ∨ c.off + xaddBytes c.type ≤ off) →
      (s.applyXadds ctx).sliceByte k off = s.sliceByte k off)
  ∧ (∀ (c : XAdd) (p : Party) (e : Nat), c.who.party = some p →
      ((s.core? c.target).bind fun q => q.poisoned false c.off (xaddBytes c.type)) = some e →
      let i : FaultRec := s.engineRecord c.who 5 0x1B (aliasForm c.who.core (targetAddr c.target (16 * e)))
      s.applyXadd c = (((s.countEcc c.who.core).appendRecord c.who.ctx i).modParty c.who.core p fun u =>
        { u with pend := u.pend ||| 1 }))
  ∧ (∃ e, (s.applyXadds ctx).ctx? ctx = some e ∧ e.xadds = [])
  ∧ (∀ k c cc, k < 64 → s.core? k = some c → c.cctx? ctx = some cc → cc.resident = true →
      ∃ e, (s.startStage ctx).cctx? k ctx = some e ∧ e.stage = c.slice)
  ∧ ∃ e, (s.startStage ctx).ctx? ctx = some e ∧ e.stageGddr = s.gddr ∧ e.stageRemote = s.remote ∧ e.stagePut = []

/-- 09 R186, R187: parv makes a thread wait, and when its counters are zero, its registers full and no fault is pending
the group parks, or the control thread has arrived. 09 R207 to R209: xend and xsync, and the end of a stage. The model's
own here: parv by a split that selects no lane (log 18, DEDUCED), the last stage's contributions (log 42, DEDUCED), an
xadd whose target is in error (log 115, DEDUCED), an xadd element that a plain transfer also writes (log 127, DESIGN
CHOICE). -/
def Obligations.SuperstepsAndExchange : Prop :=
  Claims.ParkingAndArrival ∧ Claims.ExchangeStages ∧ Claims.StagesAdd

/-! The matrix engine (row 0xB). -/

namespace Sys2Proof.Machine

/-- A row 0xB instruction that an owner issues: its operation, its shared checks, whether it counts on MAT, the banks it
names, its conditions on the governing issuer and instruction, the owner and the issuer, the register rows it captures, the
registers it marks empty. -/
structure MatForm where
  instr : Instr
  op : Op
  req : Req
  counted : Bool := false
  banks : BitVec 4 := 0
  own : Iss × Op → MatOwner → Iss → Prop := fun _ _ _ => True
  rows : Iss → List (List (List Word)) := fun _ => []
  marks : Iss → List Nat := fun _ => []

/-- Whose row word, count and FMT an instruction uses that group g issues, alone or as a member of its gang: its own or those
of the member of lowest index, unknown while that one has not issued it (11 R224, R226, R229, R230). -/
def State.governing (s : State) (x : Iss) (g : Group) (gang : Bool) (o : Op) : Option (Iss × Op) :=
  match (if gang then s.maskSlots x.core g.wg g.gang else []) with
  | [] => some (x, o)
  | t :: _ => if t = x.slot then some (x, o) else
    (s.group? x.core t).bind fun h => h.latched.bind fun l => (s.issAt x.core t l.1).map fun y => (y, matFields l.2)

/-- The conditions of 11 R219, for an owner that is a gang or not, and of the instruction under what governs it. -/
def MatForm.owned (f : MatForm) (gang : Bool) (w : MatOwner) (s : State) (x : Iss) : Prop :=
  immBit f.op = gang ∧ w.gang = gang ∧ f.banks &&& ~~~w.mask = 0 ∧ x.isCt = false
    ∧ (∀ g l, x.grp = some g → s.governing x g gang f.op = some l → f.own l w x)
    ∧ ((s.core? x.core).bind fun c => c.mat.ownerOf x.slot) = some w

/-- A row 0xB instruction that a member of an owning gang issues waits in a latch that holds nothing else than what other
members issued alike (11 R219, R224). -/
def MatForm.latches (f : MatForm) : Prop := ∀ (w : MatOwner) (g : Group), Runs f.instr fun s x =>
  { req := f.req
    own := f.owned true w s x ∧ x.grp = some g ∧ g.latched = none
      ∧ (∀ t ∈ s.maskSlots x.core g.wg g.gang, t ≠ x.slot →
          ∃ h, s.group? x.core t = some h ∧ h.parked = false ∧ h.hasExited = false)
      ∧ (∀ t ∈ s.wgSlots x.core g.wg, ∀ h e j, s.group? x.core t = some h → h.latched = some (e, j) →
          h.gang = g.gang ∧ jointKey j = jointKey f.instr)
    next := s.setWait x (.joint f.instr) }

/-- What a row 0xB instruction that an owner issues comes to (11 R218, R219, R224): alone, its operation joins the owner's
queue with what it has read, and the instruction goes on; of a gang, it waits in the latch. -/
def MatForm.issues (f : MatForm) : Prop :=
  let len := opLen f.op
  (∀ w : MatOwner, Runs f.instr fun s x =>
    let q : MatOp :=
      { id := s.nextId, instr := f.instr, whos := [s.issuer x]
        refs := if f.counted then [⟨x.party, 3, (x.uni.count 3).base + (x.uni.count 3).val⟩] else []
        vals := [x.s f.op.a.reg, x.s f.op.b.reg, BitVec.ofNat 64 (if f.counted then (x.count f.op).toNat else 0), x.s f.op.d,
          f.op.d.setWidth 64]
        rows := f.rows x, helpers := [match x.grp with | some g => g.helper | none => 0], cfg := w.cfg, fmt := x.flow.fmt }
    let counts := fun (s : State) => if f.counted then
      s.modUni x fun u => { u with counts := u.counts.modify 3 fun e => { e with done := e.done ++ [.running] } } else s
    let queued := (counts { s with nextId := s.nextId + 1 }).modMat x.core fun m =>
      m.modOwner x.slot fun w => { w with ops := w.ops ++ [q] }
    { req := f.req
      own := f.owned false w s x ∧ (f.counted = true → (x.uni.count 3).val < 63)
      next := ((f.marks x).foldl (fun s n => s.modIssGroup x fun g => g.markV n) queued).advance x len
      parts := [.counts, .matrix, .ids] ++ (f.marks x).map fun n => .v n })
  ∧ f.latches

/-- The shared checks of a row 0xB instruction that may be joint; it reads whole registers. -/
def jointReq (o : Op) (reads : List Opnd) : Req :=
  { g := o.g, phase := .C, who := .group, reads := reads, writes := [], joint := immBit o, whole := true }

/-- The row word w admits n rows of each of m members, with K rows in all (11 R217). -/
def rowWord (w : DWord) (n m lim : Nat) : Prop := bits w 8 24 = 0 ∧ 1 ≤ n ∧ n ≤ lim ∧ bits w 0 8 + m * n ≤ lim

/-- Registers can be used by a group: it has them, and they are full. -/
def vectorsReady (x : Iss) (l : List Opnd) : Prop := ∀ r ∈ l, r.ok x.isCt x.blocks = true ∧ x.empty r.reg = false
/-- Registers can be read by a group: and no lane of them is in error (24 R349). -/
def vectorsGood (x : Iss) (l : List Opnd) : Prop := vectorsReady x l ∧ ∀ r ∈ l, x.inError LaneSet.all r.reg = 0

/-- The engine's first operation is q, of the running owner, and no waiter may pre-empt that one (11 R218, R233). -/
def State.matFirst (s : State) (k : Nat) (o : MatOwner) (q : MatOp) (ops : List MatOp) : Prop :=
  ∃ c, s.core? k = some c ∧ c.mat.owner = some o ∧ o.ops = q :: ops ∧ c.preemptor o = none

/-- The registers that member y reads for a joint instruction, with the count and the FMT of z, the member of lowest index:
those of mstr with R, and those of mout that give random bits under SR (11 R229, R230). -/
def jointReads (i : Instr) (z y : Iss × Op) : List Opnd :=
  let rows := regRange y.2.a.reg (z.1.count z.2).toNat .v y.2.a.fe
  match i with
  | .mstr _ => if y.2.fn.getLsbD 6 then rows else []
  | .mout _ => if fmtSR z.1.flow.fmt then rows else []
  | _ => []
/-- The registers that it marks empty: those of mout with R. -/
def jointWrites (i : Instr) (z y : Iss × Op) : List Opnd :=
  match i with
  | .mout _ => if y.2.fn.getLsbD 6 then regRange y.2.d (z.1.count z.2).toNat .v else []
  | _ => []
/-- Its fields name registers that exist, and A is zero where random bits are not asked for. -/
def jointFields (i : Instr) (z y : Iss × Op) : Prop :=
  let n := (z.1.count z.2).toNat
  match i with
  | .mstr _ => y.2.fn.getLsbD 6 = true → y.2.a.reg.toNat + n ≤ 384
  | .mout _ => (if fmtSR z.1.flow.fmt then y.2.a.reg.toNat + n ≤ 384 else y.2.a = Src.zero)
      ∧ (y.2.fn.getLsbD 6 = true → y.2.d.toNat + n ≤ 384)
  | _ => True

end Sys2Proof.Machine

/-- 11 R217 to R219, R226 to R231, R224: the instructions of an owner. The model's own here: order of a full engine
counter and operand checks (log 26, DEDUCED), joint instructions of one workgroup (log 36, DEDUCED), register ranges of
a joint operation (log 40, DEDUCED), joint instructions by a split whose %exec is empty (log 86, DEDUCED), joint matrix
instructions: who checks what when (log 98, DEDUCED). -/
def Obligations.MatrixInstructionsIssue : Prop := ∀ o : Op,
  let n := fun (x : Iss) => (x.count o).toNat
  let count := fun (l : Iss × Op) => (l.1.count l.2).toNat
  let reg := o.fn.getLsbD 6
  let bank : BitVec 4 := 1#4 <<< bits o.fn 4 2
  let members := fun (w : MatOwner) => if reg then w.members.length else 1
  let word := fun (l : Iss × Op) => l.1.s l.2.b.reg
  let sr := fun (x : Iss) => fmtSR x.flow.fmt
  let cnt := ebCnt o != 0
  MatForm.issues { instr := .mrel o, op := o, req := jointReq o [] }
  ∧ MatForm.issues { instr := .mflp o, op := o, req := jointReq o [] }
  ∧ MatForm.issues { instr := .mclr o, op := o, req := jointReq o [], banks := o.fn.extractLsb' 0 4 }
  ∧ MatForm.issues
    { instr := .mlds o, op := o, counted := true, req := jointReq o ([rdS o.a, rdS o.b] ++ countReads o)
      own := fun l w _ => rowWord (word l) (count l) 1 (if w.cfg.type = 2 then 256 else 128) }
  ∧ MatForm.issues
    { instr := .mstr o, op := o, counted := true, banks := bank
      req := { jointReq o (rdS o.b :: (if reg then (if cnt then regRange o.a.reg (ebCnt o) .v o.a.fe else [])
          else [rdS o.a]) ++ countReads o) with
        extra := !reg || (!isS o.a.reg && (!cnt || vecRangeOk o.a.reg (ebCnt o))) }
      own := fun l w x => rowWord (word l) (count l) (members w) 128
        ∧ (reg = true → o.a.reg.toNat + count l ≤ 384 ∧ vectorsGood x (regRange o.a.reg (count l) .v o.a.fe))
      rows := fun x => if reg then [(List.range (n x)).map fun j => x.v (o.a.reg.toNat + j)] else [] }
  ∧ MatForm.issues
    { instr := .mout o, op := o, counted := true, banks := bank
      req := { jointReq o (rdS o.b :: (if reg then [] else [atS o.d]) ++ countReads o) with
        writes := if reg && cnt then regRange o.d (ebCnt o) .v else []
        extra := !reg || (!isS o.d && (!cnt || vecRangeOk o.d (ebCnt o))) }
      own := fun l w x => rowWord (word l) (count l) (members w) 128
        ∧ (if fmtSR l.1.flow.fmt then o.a.reg.toNat + count l ≤ 384 ∧ vectorsGood x (regRange o.a.reg (count l) .v o.a.fe)
          else o.a = Src.zero)
        ∧ (reg = true → o.d.toNat + count l ≤ 384 ∧ vectorsReady x (regRange o.d (count l) .v))
      rows := fun x => if sr x then [(List.range (n x)).map fun j => x.v (o.a.reg.toNat + j)] else []
      marks := fun x => if reg then (List.range (n x)).map fun j => o.d.toNat + j else [] }
  ∧ (let t := (word2 o).extractLsb' 0 2
    let f : MatForm := { instr := .mcfg o, op := o, req := jointReq o []
                         own := fun l _ _ => (word2 l.2).extractLsb' 0 2 = 2#2 →
                           bits l.1.flow.fmt 0 3 ≠ 0 ∧ bits l.1.flow.fmt 5 3 ≠ 0 }
    f.latches ∧ ∀ w : MatOwner, Runs (.mcfg o) fun s x =>
      { req := jointReq o []
        own := f.owned false w s x
        next := (s.modMat x.core fun m => m.modOwner x.slot fun w =>
          { w with cfg := ⟨t, (word2 o).getLsbD 2, if t = 2 then x.flow.fmt else 0⟩ }).advance x (opLen o)
        parts := [.matrix] })

/-- 11 R220, R223, R225, R232: a macq waits in the owner queue, or for its gang in the latch; mgng waits for the other groups of its
rendezvous, and with the last of them every group listed goes on with its mask; mprm lowers a class. -/
def Sys2Proof.Machine.Claims.MatrixRequests : Prop := ∀ o : Op,
  (∀ (g : Group) (c : Core) (a : Nat),
    let free := fun (l : List Nat) => ∀ t ∈ l, c.mat.ownerOf t = none ∧ c.mat.waits t = false
    Runs (.macq o) (fun s x =>
      let base := (x.s o.a.reg).toNat
      { req := jointReq o [rdS o.a]
        own := immBit o = false ∧ x.grp = some g ∧ s.core? x.core = some c ∧ free (x.slot :: s.maskSlots x.core g.wg g.gang)
          ∧ base % 4096 = 0 ∧ s.ownExtent x base 0x10000 = some a
        next := (s.modMat x.core fun m => { m with
          queue := m.queue ++ [⟨x.ctx, g.wg, [x.slot], false, o.fn.extractLsb' 0 4, a, ⟨0, false, 0⟩, []⟩] }).setWait x .macq
        parts := [.matrix] })
    ∧ Runs (.macq o) fun s x =>
      { req := jointReq o [rdS o.a]
        own := immBit o = true ∧ x.grp = some g ∧ s.core? x.core = some c ∧ g.gang ≠ 0 ∧ g.latched = none
          ∧ free (x.slot :: s.maskSlots x.core g.wg g.gang)
          ∧ (∀ t ∈ s.maskSlots x.core g.wg g.gang, t ≠ x.slot →
              ∃ h, s.group? x.core t = some h ∧ h.parked = false ∧ h.hasExited = false)
          ∧ (∀ t ∈ s.wgSlots x.core g.wg, ∀ h e j, s.group? x.core t = some h → h.latched = some (e, j) →
              h.gang = g.gang ∧ jointKey j = jointKey (.macq o))
        next := s.setWait x (.joint (.macq o)) })
  ∧ (∀ (g : Group) (c : Core),
    let req : Req := { g := o.g, phase := .C, who := .group, reads := [rdS o.a], writes := [], whole := true }
    let named := fun (s : State) (x : Iss) (listed : List Nat) => x.grp = some g ∧ s.core? x.core = some c
      ∧ bits (x.s o.a.reg) 16 48 = 0 ∧ g.gang = 0 ∧ 2 ≤ listed.length ∧ listed.length ≤ 6 ∧ g.gidx ∈ listed
      ∧ ∀ i ∈ listed, ∃ t h, (s.wgSlots x.core g.wg)[i]? = some t ∧ s.group? x.core t = some h ∧ h.hasExited = false
    let leaves := fun (s : State) (x : Iss) => x.grp = some g ∧ s.core? x.core = some c ∧ x.s o.a.reg = 0 ∧ g.gang ≠ 0
      ∧ ∀ t ∈ s.maskSlots x.core g.wg g.gang, (∀ w, c.mat.ownerOf t = some w → w.gang = false)
        ∧ (∀ w ∈ c.mat.queue, w.gang = true → t ∉ w.members) ∧ ∀ h, s.group? x.core t = some h → h.latched = none
    let there := fun (s : State) (x : Iss) (m : BitVec 16) (t : Nat) => (s.group? x.core t).bind fun h => h.mgngWait.bind fun w =>
      if w.2 = m ∧ s.groupLive x.core t = true then s.issAt x.core t w.1 else none
    let alone := fun (s : State) (x : Iss) (m : BitVec 16) (l : List Nat) => ∃ t ∈ l, t ≠ x.slot ∧ there s x m t = none
    let last := fun (s : State) (x : Iss) (m : BitVec 16) (l : List Nat) (xs : List Iss) =>
      x.slot ∈ l ∧ xs.map (fun y => some y) = l.map fun t => if t = x.slot then some x else there s x m t
    let done := fun (m : BitVec 16) (xs : List Iss) (s : State) =>
      xs.foldl (fun s y => (s.advance y 8).modGroup y.core y.slot fun g => { g with gang := m }) s
    Runs (.mgng o) (fun s x =>
      let m := (x.s o.a.reg).extractLsb' 0 16
      let listed := (List.range 16).filter fun i => m.getLsbD i
      { req := req
        own := named s x listed ∧ alone s x m (s.maskSlots x.core g.wg m)
        next := s.setWait x (.mgng m) })
    ∧ Runs (.mgng o) (fun s x =>
      { req := req, own := leaves s x ∧ alone s x 0 (s.maskSlots x.core g.wg g.gang), next := s.setWait x (.mgng 0) })
    ∧ ∀ xs : List Iss,
      Answers (.mgng o) (fun s x =>
        let m := (x.s o.a.reg).extractLsb' 0 16
        { req := req
          own := named s x ((List.range 16).filter fun i => m.getLsbD i) ∧ last s x m (s.maskSlots x.core g.wg m) xs
          next := done m xs s })
      ∧ Answers (.mgng o) fun s x =>
        { req := req, own := leaves s x ∧ last s x 0 (s.maskSlots x.core g.wg g.gang) xs, next := done 0 xs s })
  ∧ ∀ (g : Group) (w : Workgroup), Runs (.mprm o) fun s x =>
      { req := { g := o.g, phase := .C, who := .group, reads := [], writes := [], whole := true }
        own := x.grp = some g ∧ s.workgroup? x.core x.slot = some w ∧ bits o.fn 0 2 ≤ w.cls.toNat
        next := (s.modCore x.core fun c => { c with wgs := AMap.set c.wgs g.wg { w with cls := o.fn.extractLsb' 0 2 } }).advance
          x 8
        parts := [.workgroups] }

/-- 11 R223, R224, R220, R229, R230: the end of a rendezvous gives every group listed its mask, and a joint instruction that
every member has issued executes once, for all of them; where a member's registers do not admit the rows of the member of
lowest index, every member traps. -/
def Sys2Proof.Machine.Claims.JointInstructionsExecuteOnce : Prop := ∀ (k wg : Nat),
  (∀ (m : BitVec 16) (t : Nat) (g : Group) (xs : List Iss), Happens (.gangRendezvous k wg)
    (fun s =>
      let l := s.maskSlots k wg (if m = 0 then g.gang else m)
      t ∈ l ∧ l ≠ [] ∧ s.group? k t = some g
      ∧ (∀ u ∈ s.wgSlots k wg, ∀ h e n, s.group? k u = some h → h.mgngWait = some (e, n) →
          n = m ∧ s.maskSlots k wg (if m = 0 then h.gang else m) = l)
      ∧ xs.map (fun x => some x) = l.map (fun u => (s.group? k u).bind fun h => h.mgngWait.bind fun w =>
          if w.2 = m then s.issAt k u w.1 else none)
      ∧ (∀ u ∈ l, s.groupLive k u = true) ∧ l.Nodup ∧ ∀ u ∈ l, u ∈ s.wgSlots k wg)
    fun s => xs.foldl (fun s x => (s.advance x 8).modGroup k x.slot fun g => { g with gang := m }) s)
  ∧ ∀ (t : Nat) (g : Group) (i : Instr) (xs : List (Iss × Instr)),
    let own := fun (s : State) =>
      let l := s.maskSlots k wg g.gang
      t ∈ s.wgSlots k wg ∧ s.group? k t = some g ∧ l ≠ []
      ∧ (∀ u ∈ s.wgSlots k wg, ∀ h, s.group? k u = some h → h.latched ≠ none → h.gang = g.gang) ∧ g.latched ≠ none
      ∧ xs.map (fun x => some x) = l.map (fun u => (s.group? k u).bind fun h => h.latched.bind fun w =>
          (s.issAt k u w.1).map fun x => (x, w.2))
      ∧ (xs.head?.map fun y => y.2) = some i
      ∧ (matCounts i = true → ∀ y ∈ xs, (y.1.uni.count 3).val < 63) ∧ (∀ u ∈ l, s.groupLive k u = true)
    let ops := xs.map fun y => (y.1, matFields y.2)
    ((∀ o, i ≠ .macq o) → Happens (.jointInstructionRelease k wg)
      (fun s => own s ∧ ∀ z ∈ ops.head?, ∀ y ∈ ops,
        jointFields i z y ∧ vectorsGood y.1 (jointReads i z y) ∧ vectorsReady y.1 (jointWrites i z y))
      fun s => ops.foldl (fun s y => s.advance y.1 (opLen y.2)) (s.matAct i ops))
    ∧ ((∀ o, i ≠ .macq o) → Happens (.jointInstructionRelease k wg)
      (fun s => own s ∧ ∃ z ∈ ops.head?, ∃ y ∈ ops, ¬ jointFields i z y
        ∨ ∃ r ∈ jointReads i z y ++ jointWrites i z y, r.ok false y.1.blocks = false)
      fun s => s.trapEach (xs.map Prod.fst) 0x02 0)
    ∧ ∀ o, i = .macq o →
      (∀ a, Happens (.jointInstructionRelease k wg)
        (fun s => own s ∧ ∃ y ys, xs = y :: ys ∧ (y.1.s o.a.reg).toNat % 4096 = 0
          ∧ s.ownExtent y.1 (y.1.s o.a.reg).toNat 0x10000 = some a)
        fun s => s.macqRequest ops true a)
      ∧ ∀ y ys, xs = y :: ys →
        Happens (.jointInstructionRelease k wg) (fun s => own s ∧ (y.1.s o.a.reg).toNat % 4096 ≠ 0)
          (fun s => s.trapEach (xs.map Prod.fst) 0x08 ((y.1.s o.a.reg).toNat % 2 ^ 48))
        ∧ Happens (.jointInstructionRelease k wg) (fun s => own s ∧ (y.1.s o.a.reg).toNat % 4096 = 0
            ∧ s.ownExtent y.1 (y.1.s o.a.reg).toNat 0x10000 = none)
          fun s => s.trapEach (xs.map Prod.fst) 0x07 ((y.1.s o.a.reg).toNat % 2 ^ 48)

/-- 11 R220, R223, R225, R232: a macq waits in the owner queue, or for its gang in the latch; mgng waits for its
rendezvous; mprm lowers a class. 11 R223, R224, R220, R229, R230: the end of a rendezvous gives every group listed its
mask, and a joint instruction that every member has issued executes once, for all of them, or traps them all where the
registers of one do not admit its rows. The model's own here: joint instructions of one workgroup (log 36, DEDUCED),
release of a joint instruction (log 38, DEDUCED), MAT counters of a joint operation (log 39, DEDUCED), register ranges
of a joint operation (log 40, DEDUCED), joint instructions by a split whose %exec is empty (log 86, DEDUCED), joint
matrix instructions: who checks what when (log 98, DEDUCED), a group that is in a latch and offends it (log 108, DESIGN
CHOICE), the bit of mgng's mask that stands for the group itself (log 125, DEDUCED). -/
def Obligations.MatrixOwnership : Prop :=
  Claims.MatrixRequests ∧ Claims.JointInstructionsExecuteOnce

/-- 11 R219 to R222, R233, R234, 24 R349: the engine is granted, released and pre-empted, a waiter that may pre-empt before any
step of the owner; what its planes, banks and owners are then, but for bank words in error that a reload meets. A suspended owner
that has parked or exited counts for nothing (R222). -/
def Sys2Proof.Machine.Claims.MatrixEnginePasses : Prop := ∀ (s : State) (k : Nat) (c : Core), s.core? k = some c →
  let after := fun (e : Instr) (p : Core → Prop) => ∃ t d, exec e s = .next t ∧ t.core? k = some d ∧ p d
  let noCfg := fun (w : MatOwner) => { w with cfg := (⟨0, false, 0⟩ : MatCfg) }
  (∀ w ws, c.mat.owner = none → (∀ p ∈ c.mat.susp, c.suspGone p = true) → s.macqOwed k = none → c.mat.queue = w :: ws →
    after (.macqGrant k) fun d =>
    d.mat.owner = some (noCfg w) ∧ d.mat.queue = c.mat.queue.filter (fun p => p != w) ∧ d.mat.susp = c.mat.susp
    ∧ (c.mat.lastCtx = none ∨ c.mat.lastCtx = some w.ctx →
        d.mat.active = c.mat.active ∧ d.mat.shadow = c.mat.shadow ∧ d.mat.banks = c.mat.banks)
    ∧ (∀ n, c.mat.lastCtx = some n → n ≠ w.ctx →
        d.mat.active = [] ∧ d.mat.shadow = [] ∧ ∀ b < 4, d.mat.banks.getD b [] = []))
  ∧ (∀ o, c.mat.owner = some o → (∀ p ∈ c.mat.susp, c.suspGone p = true) → c.mat.queue = [] →
      ((∃ q ops m, o.ops = q :: ops ∧ q.instr = .mrel m) ∨ (c.ownerGone o = true ∧ o.ops = [])) →
      after (.engineRelease k) fun d => d.mat.owner = none ∧ d.mat.banks = c.mat.banks ∧ d.mat.lastCtx = some o.ctx)
  ∧ (∀ o w ws, c.mat.owner = some o → (∀ p ∈ c.mat.susp, c.suspGone p = true) → c.mat.queue = w :: ws → o.ctx = w.ctx →
      ((c.preemptor o = none ∧ ∃ q ops m, o.ops = q :: ops ∧ q.instr = .mrel m) ∨ (c.ownerGone o = true ∧ o.ops = [])) →
      after (.engineRelease k) fun d => d.mat.owner = some (noCfg w) ∧ d.mat.active = c.mat.active
        ∧ d.mat.shadow = c.mat.shadow ∧ d.mat.banks = c.mat.banks)
  ∧ (∀ p ∈ c.mat.susp, c.mat.owner = none → c.suspGone p = true → after (.engineRelease k) fun d =>
      d.mat.owner = none ∧ ∃ p, c.suspGone p = true ∧ d.mat.susp = c.mat.susp.filter fun o => o != p)
  ∧ (∀ o top, c.mat.owner = some o → c.mat.susp = [top] → c.suspGone top = false → c.mat.queue = [] → o.ctx = top.ctx →
      ((∃ q ops m, o.ops = q :: ops ∧ q.instr = .mrel m) ∨ (c.ownerGone o = true ∧ o.ops = [])) →
      let good := fun (a : Nat) => ∀ w ∈ c.poison, a < 16 * w ∨ 16 * w + 16 ≤ a
      ((∀ a, top.save ≤ a → a < top.save + 0x10000 → good a) ∨ s.memoryOk = true) →
      after (.engineRelease k) fun d => d.mat.owner = some top ∧ d.mat.susp = [] ∧ d.mat.banks = c.mat.banks
        ∧ ∀ i < 0x8000, (good (top.save + i) → d.mat.active.read i = c.slice.read (top.save + i))
          ∧ (good (top.save + 0x8000 + i) → d.mat.shadow.read i = c.slice.read (top.save + 0x8000 + i)))
  ∧ (∀ o w, c.mat.owner = some o → c.preemptor o = some w → o.ops ≠ [] → c.mat.susp = [] →
      exec (.engineRelease k) s = .fault (.notEnabled "ENGINE_RELEASE")
      ∧ exec (.planeLoad k) s = .fault (.notEnabled "PLANE_LOAD") ∧ exec (.planeFlip k) s = .fault (.notEnabled "PLANE_FLIP")
      ∧ exec (.bankClear k) s = .fault (.notEnabled "BANK_CLEAR")
      ∧ exec (.accumulationStep k) s = .fault (.notEnabled "ACCUMULATION_STEP")
      ∧ exec (.accumulatorOutput k) s = .fault (.notEnabled "ACCUMULATOR_OUTPUT"))
  ∧ ∀ o w, c.mat.owner = some o → c.preemptor o = some w → o.ctx = w.ctx → after (.preemption k) fun d =>
      d.mat.owner = some (noCfg w) ∧ d.mat.susp = o :: c.mat.susp ∧ d.mat.active = [] ∧ d.mat.shadow = []
      ∧ d.mat.banks = c.mat.banks
      ∧ (∀ i < 0x8000, d.slice.read (o.save + i) = c.mat.active.read i
          ∧ d.slice.read (o.save + 0x8000 + i) = c.mat.shadow.read i)
      ∧ ∀ off, off < o.save ∨ o.save + 0x10000 ≤ off → d.slice.read off = c.slice.read off

/-- 11 R233: a waiter that pre-empts has a class strictly above the owner's and banks apart from those of the owner and of
every suspended owner, and no such waiter has a higher class. -/
def Sys2Proof.Machine.Claims.PreemptorIsEligible : Prop := ∀ (c : Core) (o w : MatOwner), c.preemptor o = some w →
  w ∈ c.mat.queue ∧ c.classOf o < c.classOf w ∧ w.mask &&& o.mask = 0 ∧ (∀ p ∈ c.mat.susp, c.suspGone p = false → w.mask &&& p.mask = 0)
    ∧ ∀ v ∈ c.mat.queue, v.mask &&& o.mask = 0 → (∀ p ∈ c.mat.susp, c.suspGone p = false → v.mask &&& p.mask = 0) → c.classOf v ≤ c.classOf w

/-- 11 R219 to R222, R233, R234: the engine is granted, released and pre-empted; what its planes, banks and owners are
then. 11 R233: a waiter that pre-empts has a class strictly above the owner's and banks apart from those of the owner
and of every suspended owner, and no such waiter has a higher class. The model's own here: operations queued behind an
mrel (log 16, DESIGN CHOICE), the registers of an mout.r that is discarded (log 24, DESIGN CHOICE), a reload that meets
errors (log 118, DESIGN CHOICE), loads of the save area while a preempted owner is spilled (log 131, DESIGN CHOICE). -/
def Obligations.MatrixEnginePasses : Prop :=
  Claims.MatrixEnginePasses ∧ Claims.PreemptorIsEligible

/-- 11 R218, R227, R228, R231: a load of the shadow plane, a flip, a clear. -/
def Sys2Proof.Machine.Claims.PlaneOperations : Prop := ∀ (s : State) (k : Nat) (c : Core) (o : MatOwner) (q : MatOp) (ops : List MatOp)
    (p : Op), s.memoryOk = true → s.core? k = some c → s.matFirst k o q ops →
  let after := fun (e : Instr) (f : Core → Prop) => ∃ t d, exec e s = .next t ∧ t.core? k = some d
    ∧ d.mat.owner = some { o with ops := ops } ∧ f d
  let rl := if q.cfg.type = 2 then 128 else 256
  let align := if q.cfg.type = 2 then 1 else 2
  (q.instr = .mlds p → s.matFault k q 0 rl align false = none → after (.planeLoad k) fun d =>
    d.mat.active = c.mat.active ∧ d.mat.banks = c.mat.banks ∧ d.slice = c.slice
    ∧ (∀ j < q.count, ∀ i < rl, d.mat.shadow.read ((q.row0 + j) * rl + i)
        = taken q.early j (aliasOff (q.rowAddr 0 j) + i) (c.slice.read (aliasOff (q.rowAddr 0 j) + i)))
    ∧ ∀ a, a < q.row0 * rl ∨ (q.row0 + q.count) * rl ≤ a → d.mat.shadow.read a = c.mat.shadow.read a)
  ∧ (q.instr = .mflp p → after (.planeFlip k) fun d =>
    d.mat.active = c.mat.shadow ∧ d.mat.shadow = c.mat.active ∧ d.mat.banks = c.mat.banks ∧ d.slice = c.slice)
  ∧ (q.instr = .mclr p → after (.bankClear k) fun d => d.mat.active = c.mat.active ∧ d.mat.shadow = c.mat.shadow
    ∧ d.slice = c.slice ∧ ∀ b < 4, d.mat.banks.getD b [] = if p.fn.getLsbD b then [] else c.mat.banks.getD b [])

/-- 11 R218, 08 R173, R184: an operation whose slice rows fail their checks changes none of its data: it leaves its owner's
queue, a record of class MAT joins the fault queue, and it is counted complete as faulted; misaligned rows give 0x08. -/
def Sys2Proof.Machine.Claims.MatrixFaults : Prop := ∀ (s : State) (k : Nat) (c : Core) (o : MatOwner) (q : MatOp) (ops : List MatOp)
    (p : Op) (w : Issuer) (ws : List Issuer), s.core? k = some c → s.matFirst k o q ops → q.whos = w :: ws →
  let wd := codeBits (ebRec p) / 8
  let rl := if q.cfg.type = 2 then 128 else 256
  let align := if q.cfg.type = 2 then 1 else 2
  let faults := fun (e : Instr) (f : Nat × Nat) => exec e s = .next (q.refs.foldl (fun s r => s.complete k r true)
    (((if f.1 = 0x1B then s.modCore k fun c => { c with
            ecc := c.ecc.modify 3 fun n => if n = BitVec.allOnes 64 then n else n + 1
            mat := { c.mat with owner := some { o with ops := ops } } }
        else s.modCore k fun c => { c with mat := { c.mat with owner := some { o with ops := ops } } }).appendRecord w.ctx
      (s.engineRecord w 3 f.1 f.2))))
  (∀ f, q.instr = .mlds p → s.matFault k q 0 rl align false = some f → faults (.planeLoad k) f)
  ∧ (∀ f, q.instr = .mstr p → p.fn.getLsbD 6 = false → s.matFault k q 0 256 align false = some f → faults (.accumulationStep k) f)
  ∧ (∀ f, q.instr = .mout p → p.fn.getLsbD 6 = false → s.matFault k q 3 (128 * wd) wd true = some f →
      faults (.accumulatorOutput k) f)
  ∧ ∀ (a n al : Nat) (write : Bool), 0 < al →
    ((q.vals.getD a 0).toNat % 2 ^ 48 % al ≠ 0 ∨ (q.vals.getD 1 0).hi.toInt % (al : Int) ≠ 0 →
      s.matFault k q a n al write = some (0x08, aliasForm k ((q.vals.getD a 0).toNat % 2 ^ 48)))

/-- 11 R229: an accumulation step changes the named rows of its bank alone: each becomes what R214 makes of it and of the codes
of its slice row, or of its register row, in which a helper lane's elements are zero. -/
def Sys2Proof.Machine.Claims.AccumulationSteps : Prop := ∀ (s : State) (k : Nat) (c : Core) (o : MatOwner) (q : MatOp)
    (ops : List MatOp) (p : Op), s.core? k = some c → s.matFirst k o q ops → q.instr = .mstr p → c.mat.banks.length = 4 →
  let bank := bits p.fn 4 2
  let regs := p.fn.getLsbD 6
  let old := fun (r : Nat) => if p.fn.getLsbD 3 then bankRow (c.mat.banks.getD bank []) r else List.replicate 128 0
  let becomes := fun (d : Core) (r : Nat) (codes : List Nat) => bankRow (d.mat.banks.getD bank []) r
    = (stepRow q.cfg (planeValues q.cfg c.mat.active) codes (old r)).map fun v => BitVec.ofNat 32 v.code
  (regs = false → s.matFault k q 0 256 (if q.cfg.type = 2 then 1 else 2) false = none) →
  (regs = true → ∀ l ∈ q.rows, l.length = q.count) →
  ∃ t d, exec (.accumulationStep k) s = .next t ∧ t.core? k = some d ∧ d.mat.owner = some { o with ops := ops }
    ∧ d.mat.active = c.mat.active ∧ d.mat.shadow = c.mat.shadow ∧ d.slice = c.slice
    ∧ (∀ b < 4, b ≠ bank → d.mat.banks.getD b [] = c.mat.banks.getD b [])
    ∧ (∀ r, r < q.row0 ∨ q.row0 + (if regs then q.rows.length else 1) * q.count ≤ r →
        bankRow (d.mat.banks.getD bank []) r = bankRow (c.mat.banks.getD bank []) r)
    ∧ (regs = false → ∀ i < q.count, becomes d (q.row0 + i)
        (let bs := (List.range 256).map fun e =>
           taken q.early i (aliasOff (q.rowAddr 0 i) + e) (c.slice.read (aliasOff (q.rowAddr 0 i) + e))
         if q.cfg.type = 2 then bs.map BitVec.toNat else (List.range 128).map fun e => ofLE ((bs.drop (2 * e)).take 2)))
    ∧ (regs = true → ∀ j < q.rows.length, ∀ i < q.count, becomes d (q.row0 + j * q.count + i)
        (let lane := fun (e : Nat) => if (q.helpers.getD j 0).getLsbD e then (0#32) else ((q.rows.getD j []).getD i []).getD e 0
         if q.cfg.type = 2 then (List.range 256).map fun e => (lane (e / 2)).toNat / 256 ^ (e % 2) % 256
         else (List.range 128).map fun e => (lane e).toNat % 65536))

/-- 11 R230: an output writes the converted rows of its bank to the slice or to each member's registers, changes nothing else of
the slice, and with CLR leaves +0 in the rows that it read. -/
def Sys2Proof.Machine.Claims.AccumulatorOutputs : Prop := ∀ (s : State) (k : Nat) (c : Core) (o : MatOwner) (q : MatOp)
    (ops : List MatOp) (p : Op), s.memoryOk = true → s.core? k = some c → s.matFirst k o q ops → q.instr = .mout p →
    c.mat.banks.length = 4 →
  let bank := bits p.fn 4 2
  let regs := p.fn.getLsbD 6
  let w := codeBits (ebRec p) / 8
  let n := (if regs then o.members.length else 1) * q.count
  let elem := fun (j i e : Nat) => (moutElem q p ((bankRow (c.mat.banks.getD bank []) (q.row0 + j * q.count + i)).getD e 0)
    (((q.rows.getD j []).getD i []).getD e 0)).code
  let at_ := fun (i : Nat) => aliasOff (q.rowAddr 3 i)
  0 < w → (regs = false → s.matFault k q 3 (128 * w) w true = none) →
  ∃ t d, exec (.accumulatorOutput k) s = .next t ∧ t.core? k = some d ∧ d.mat.owner = some { o with ops := ops }
    ∧ d.mat.active = c.mat.active ∧ d.mat.shadow = c.mat.shadow
    ∧ (∀ b < 4, b ≠ bank → d.mat.banks.getD b [] = c.mat.banks.getD b [])
    ∧ (∀ r, bankRow (d.mat.banks.getD bank []) r = if p.fn.getLsbD 2 = true ∧ q.row0 ≤ r ∧ r < q.row0 + n
        then List.replicate 128 0 else bankRow (c.mat.banks.getD bank []) r)
    ∧ (regs = true → d.slice = c.slice)
    ∧ (regs = false → (∀ off, (∀ i < q.count, off < at_ i ∨ at_ i + 128 * w ≤ off) → d.slice.read off = c.slice.read off)
      ∧ ∀ i < q.count, ∀ e < 128 * w, (∀ m, i < m → m < q.count → at_ i + e < at_ m ∨ at_ m + 128 * w ≤ at_ i + e) →
        d.slice.read (at_ i + e) = BitVec.ofNat 8 (elem 0 i (e / w) / 256 ^ (e % w)))
    ∧ (regs = true → o.members.Nodup → ∀ (j slot : Nat) g, o.members[j]? = some slot → c.group? slot = some g →
        let v := (q.vals.getD (4 + j) 0).toNat
        v + q.count ≤ g.v.length → v + q.count ≤ 384 → ∃ h, d.group? slot = some h ∧ ∀ i < q.count,
          h.vEmpty.getLsbD (v + i) = false ∧ ∀ e < 128, (h.v.getD (v + i) []).getD e 0 = BitVec.ofNat 32 (elem j i e))

/-- 11 R218, R227 to R231: the engine carries out its first operation: a load of the shadow plane, a flip, a clear, a
step, an output to the slice or to registers; a row that the operation has read early is as it was then (08 R182); one
whose operands fail their checks ends in a deferred fault and changes none of its data. The model's own here: the sign
of an exact zero sum (log 20, DEDUCED), STRIDE of one row (log 41, DEDUCED), an engine operation that meets an error
(log 105, DESIGN CHOICE), the issuer in the record of a joint operation (log 109, DESIGN CHOICE), ADDR of a misaligned
stride (log 110, DESIGN CHOICE), random bits of a joint mout to the slice (log 111, DESIGN CHOICE). -/
def Obligations.MatrixOperationsRun : Prop :=
  Claims.PlaneOperations ∧ Claims.MatrixFaults ∧ Claims.AccumulationSteps ∧ Claims.AccumulatorOutputs

/-- 11 R214: the order of an accumulation step: each element starts from its old value and adds, one rounding each, the
exact terms of k = 0, 1, 2 and so on (at 8 bits the exact sum of the terms of 2k and 2k + 1). The model's own here: the
sign of an exact zero sum (log 20, DEDUCED). -/
def Obligations.AccumulationOrder : Prop := ∀ (cfg : MatCfg) (plane : List (List FV)) (row : List Nat) (acc : List Word)
    (c : Nat), (∀ w ∈ plane, w.length = 128) → acc.length = 128 → c < 128 →
  let add := fun (x : Nat) (t : FV) => ((sumFV [decodeFloat .f32 x, t] false).round .f32 RCtl.rne).code
  let term := fun (p : Nat × List FV) => (cfg.decode false p.1).mul (p.2.getD c (.zero false))
  let start := (acc.getD c 0).toNat
  ((stepRow cfg plane row acc).getD c ⟨0, fNone⟩).code =
    if cfg.type = 2 then (pairUp (row.zip plane)).foldl (fun x p => add x (sumFV [term p.1, term p.2] false).toFV) start
    else (row.zip plane).foldl (fun x p => add x (term p)) start

/-! The path-vertex graph (row 0xC). -/

namespace Sys2Proof.Machine

/-- The registers of a block from D on, of the issuer's kind. -/
def blockParts (x : Iss) (d : BitVec 9) (n : Nat) : List Part :=
  (List.range n).map fun j => if x.isCt then .s (sNum d + j) else .v (d.toNat + j)

/-- The course of a graph instruction with results (13 R241): each request's result words follow from the snapshot c; the
block of n registers from D on is empty until they land, and the instruction counts on GPH. -/
def graphCourse (o : Op) (reads : State → List Opnd) (n : Nat) (bad : Iss → Nat → Bool) (f : Iss → Nat → List Word) (c : Ctx)
    (s : State) (x : Iss) : Course :=
  { req := gReq s o (reads s) n
    own := s.ctx? x.ctx = some c ∧ (x.uni.count 1).val < 63 ∧ ∀ i ∈ x.requests, bad x i = false
    next := (s.pendBlock x .graph 1 o.d n (x.requests.map (f x))).advance x 8
    parts := [.counts, .results, .ids] ++ blockParts x o.d n }

/-- The same where requests may meet errors beyond correction (13 R241): those requests get zeros, the status among them, and
the instruction has deferred a fault. -/
def graphErrors (o : Op) (reads : State → List Opnd) (n : Nat) (bad : Iss → Nat → Bool) (f : Iss → Nat → List Word) (c : Ctx)
    (s : State) (x : Iss) : Course :=
  let hit := x.requests.filter (bad x)
  { req := gReq s o (reads s) n
    own := s.ctx? x.ctx = some c ∧ (x.uni.count 1).val < 63
    next := ((s.lanternFault x 1 hit.length).pendBlock x .graph 1 o.d n
      (x.requests.map fun i => if bad x i then List.replicate n 0 else f x i) (!hit.isEmpty)).advance x 8 }

/-- A graph instruction does both. -/
def GraphRuns (i : Instr) (o : Op) (reads : State → List Opnd) (n : Nat) (c : Ctx) (bad : Iss → Nat → Bool)
    (f : Iss → Nat → List Word) : Prop :=
  Runs i (graphCourse o reads n bad f c) ∧ Answers i (graphErrors o reads n bad f c)

/-- The slots on the free list of core and context cc, in the order they are taken (13 R237). -/
def CoreCtx.freeSlots (cc : CoreCtx) (npool : Nat) : List Nat :=
  ((List.range ((npool - cc.freeNext + 63) / 64)).map fun j => cc.freeNext + 64 * j) ++ cc.freeTail

end Sys2Proof.Machine

/-- 13 R241, 24 R349: the deferred fault of a graph or ray operation counts each request that met an error, saturating, and
appends one record with CAUSE 0x1B and its class. -/
def Sys2Proof.Machine.Claims.LanternFaults : Prop := ∀ (s : State) (x : Iss) (cls n : Nat), 0 < n → s.lanternFault x cls n =
  (s.modCore x.core fun c => { c with ecc := c.ecc.modify 3 fun v => BitVec.ofNat 64 (min (v.toNat + n) (2 ^ 64 - 1)) }).appendRecord
    x.ctx (s.engineRecord (s.issuer x) cls 0x1B 0)

/-- 13 R237, R242: gapp takes the head of the free list for each request in lane order and reports its status and handle. -/
def Sys2Proof.Machine.Claims.GraphAppends : Prop :=
  (∀ (o : Op) (c : Ctx) (cc : CoreCtx),
    let ins := fun (x : Iss) => x.requests.map fun i => (List.range 15).map fun j => x.lane (BitVec.ofNat 9 (o.a.reg.toNat + j)) i
    let all := fun (s : State) (x : Iss) =>
      let t := State.takeSlots x (ins x).length s
      t.1.appendAll x (t.2.zip (ins x))
    let own := fun (s : State) (x : Iss) => s.ctx? x.ctx = some c ∧ s.cctx? x.core x.ctx = some cc
      ∧ x.requests.length ≤ cc.freeCount c.npool ∧ (x.uni.count 1).val < 63
    (Runs (.gapp o) fun s x =>
      { req := gReq s o (gBlock s o.a 15) 2
        own := own s x ∧ ∀ w ∈ ins x, c.badAppend w = false
        next := ((all s x).1.pendBlock x .graph 1 o.d 2 (all s x).2).advance x 8
        parts := [.counts, .results, .ids, .pool, .context] ++ blockParts x o.d 2 })
    ∧ Answers (.gapp o) fun s x =>
      let hit := (ins x).filter c.badAppend
      { req := gReq s o (gBlock s o.a 15) 2
        own := own s x
        next := (((all s x).1.lanternFault x 1 hit.length).pendBlock x .graph 1 o.d 2 (all s x).2 (!hit.isEmpty)).advance x 8 })
  ∧ (∀ (s : State) (x : Iss) (c : Ctx) (cc : CoreCtx) (n : Nat), s.ctx? x.ctx = some c → s.cctx? x.core x.ctx = some cc →
    n ≤ cc.freeCount c.npool →
    (State.takeSlots x n s).2 = (cc.freeSlots c.npool).take n
    ∧ (∃ cd, (State.takeSlots x n s).1.cctx? x.core x.ctx = some cd ∧ cd.freeSlots c.npool = (cc.freeSlots c.npool).drop n)
    ∧ ∃ d, (State.takeSlots x n s).1.ctx? x.ctx = some d ∧ d = { c with pool := d.pool }
      ∧ ∀ i, d.slot i = if i ∈ (cc.freeSlots c.npool).take n then { c.slot i with alloc := true, pub := false, rp := false } else c.slot i)
  ∧ ∀ (s : State) (x : Iss) (c : Ctx) (i : Nat) (w : List Word), s.ctx? x.ctx = some c → w.length = 15 → i < 2 ^ 27 →
    let m := w.getD 13 0
    let p := w.getD 11 0
    let r := c.vertex p
    let st := if c.openTag ≠ some (bits m 10 5) then 7 else if p = 0 then 1 else if c.badHandle p then 0
      else if c.statusOf p ≠ 1 then c.statusOf p else if r.mword.getLsbD 0 ≠ m.getLsbD 0 then 6 else 1
    let one : Word := 0x3F800000
    let part : Word := if p = 0 then (if m.getLsbD 2 then one else 0)
      else rnAdd (if r.mword.getLsbD 1 && m.getLsbD 1 then one else 0) (rnMul (rnDiv (w.getD 10 0) (r.word 9)) (r.word 10))
    (s.append1 x i w).2 = [if st = 1 then (c.slot i).gen ++ BitVec.ofNat 27 i else 0, BitVec.ofNat 32 st]
    ∧ (s.append1 x i w).1.ctx? x.ctx = some { c with changes := c.changes ++ [(x.core, if st = 1
          then .append i ((w.set 10 part).set 13 (m &&& 0x7FFFFFFF)) else .abandon i)] }

/-- 13 R237, R242: gapp takes the head of the free list for each request in lane order and reports its status and
handle, all slots of the instruction being taken before it completes. 13 R241, 24 R349: a request that meets an error
beyond correction appends nothing, reports status none, and defers a fault with CAUSE 0x1B and CLASS 1, which is
counted. The model's own here: where and when memory errors happen (log 31, DESIGN CHOICE), the status of a guessed
handle (log 95, DESIGN CHOICE), the high halves of a control thread's graph and ray operands (log 116, DESIGN CHOICE).
-/
def Obligations.GraphAppends : Prop :=
  Claims.GraphAppends ∧ Claims.LanternFaults

/-- 13 R240, R243 to R247: what grd, gcon, gwgt, gmrg and grwt report of the snapshot. -/
def Sys2Proof.Machine.Claims.GraphReads : Prop := ∀ (o : Op) (c : Ctx),
  let reads := fun (l : List (Src × Nat)) (s : State) => l.flatMap fun p => gBlock s p.1 p.2
  let pair := fun (x : Iss) (i : Nat) (bad : Nat → List Word) (ok : Slot → Slot → List Word) =>
    let a := x.lane o.a.reg i
    let b := x.lane o.b.reg i
    let st := max (c.statusOf a) (c.statusOf b)
    let u := c.vertex a
    let v := c.vertex b
    if st ≠ 1 then bad st else if metaEye u.mword = metaEye v.mword then bad 5
    else if metaEye u.mword then ok v u else ok u v
  let d2 := fun (y z : Slot) =>
    let d := subTriple (z.triple 0) (y.triple 0)
    rnDot3 d d
  let weigh := fun (y z : Slot) (py pz : Word) =>
    rnDiv one32 (rnAdd (rnAdd (rnAdd one32 (rnMul (rnDiv py (y.word 9)) (y.word 10)))
      (rnMul (rnDiv pz (z.word 9)) (z.word 10))) (if metaMrg z.mword then rnMul c.eta pz else 0))
  let zeros := fun (n st : Nat) => BitVec.ofNat 32 st :: List.replicate n (0 : Word)
  let f := bits o.fn 0 4
  let n := bits o.fn 4 4 + 1
  let badA := fun (x : Iss) (i : Nat) => c.badHandle (x.lane o.a.reg i)
  let badAB := fun (x : Iss) (i : Nat) => c.badHandle (x.lane o.a.reg i) || c.badHandle (x.lane o.b.reg i)
  let badNear := fun (x : Iss) (i : Nat) =>
    let h := x.lane o.a.reg i
    badA x i || (c.statusOf h == 1 && metaEye (c.vertex h).mword
      && (c.mergeCandidates ((c.vertex h).triple 0)).any fun p => c.badHandle p.2)
  GraphRuns (.grd o) o (reads [(o.a, 1)]) (n + 1) c badA (fun x i =>
    let h := x.lane o.a.reg i
    ((List.range n).map fun j => if c.statusOf h = 1 then (c.vertex h).record (f + j) else 0)
      ++ [BitVec.ofNat 32 (c.statusOf h)])
  ∧ GraphRuns (.gcon o) o (reads [(o.a, 1), (o.b, 1)]) 8 c badAB (fun x i => pair x i (zeros 7) fun y z =>
    let d := subTriple (z.triple 0) (y.triple 0)
    let q := d2 y z
    let len := rnSqrt q
    let dir := (rnDiv d.1 len, rnDiv d.2.1 len, rnDiv d.2.2 len)
    let cy := rnDot3 (y.triple 3) dir
    let cz := negW (rnDot3 (z.triple 3) dir)
    if ltW q tinyD2 then [4, 0, 0, 0, q, 0, 0, 0]
    else [1, rnDiv (rnMul (absW cy) (absW cz)) q, cy, cz, q, dir.1, dir.2.1, dir.2.2])
  ∧ GraphRuns (.gwgt o) o (reads [(o.a, 1), (o.b, 1), (o.c, 2)]) 2 c badAB (fun x i => pair x i (zeros 1) fun y z =>
    let py := x.lane o.c.reg i
    let pz := x.lane (BitVec.ofNat 9 (o.c.reg.toNat + 1)) i
    let g := geometry y z
    if o.fn.getLsbD 0 = false then [1, weigh y z py pz]
    else if ltW (d2 y z) tinyD2 then [4, 0]
    else [1, weigh y z (rnDiv (rnMul py (absW g.cosY)) (d2 y z)) (rnDiv (rnMul pz (absW g.cosZ)) (d2 y z))])
  ∧ GraphRuns (.gmrg o) o (reads [(o.a, 1)]) 9 c badNear (fun x i =>
    let h := x.lane o.a.reg i
    let st := if c.statusOf h = 1 ∧ metaEye (c.vertex h).mword = false then 6 else c.statusOf h
    let l := if st = 1 then (c.mergeCandidates ((c.vertex h).triple 0)).take 4 else []
    let pad := List.replicate (4 - l.length)
    BitVec.ofNat 32 (st + 256 * l.length) :: (l.map Prod.snd ++ pad 0 ++ (l.map Prod.fst ++ pad 0x7F800000#32)))
  ∧ GraphRuns (.grwt o) o (reads [(o.a, 1), (o.b, 1)]) 3 c badAB (fun x i => pair x i (zeros 2) fun y z =>
    let u := rnAdd (y.word 10) (rnMul (rnDiv (y.word 9) (z.word 9)) (z.word 10))
    [1, rnDiv one32 (rnAdd one32 (rnDiv u (rnMul c.eta (y.word 9)))), rnDiv one32 c.eta])

/-- 13 R246: the merge candidates near a point are the published mergeable light vertices of retained frames within ρ, each
with its squared distance and handle, in order of distance and then of handle. -/
def Sys2Proof.Machine.Claims.MergeCandidatesAreNearest : Prop := ∀ (c : Ctx) (pz : Word × Word × Word),
  let l := c.mergeCandidates pz
  let near := fun (v : Slot) => let d := subTriple (v.triple 0) pz; rnDot3 d d
  (∀ q : Word × Word, q ∈ l ↔ ∃ p ∈ c.pool, p.2.alloc = true ∧ p.2.pub = true ∧ metaEye p.2.mword = false
      ∧ metaMrg p.2.mword = true ∧ c.retained.getLsbD (metaFrame p.2.mword) = true
      ∧ leW (near p.2) (rnMul c.rho c.rho) = true ∧ q = (near p.2, handleOf p.2.gen p.1))
    ∧ ∀ n p q, l[n]? = some p → l[n + 1]? = some q → ltW q.1 p.1 = false ∧ (ltW p.1 q.1 = false → p.2.toNat ≤ q.2.toNat)

/-- 13 R240, R243 to R247: what grd, gcon, gwgt, gmrg and grwt report of the snapshot. 13 R246: the merge candidates
near a point are the published mergeable light vertices of retained frames within ρ, each with its squared distance and
handle, in order of distance and then of handle. The model's own here: where and when memory errors happen (log 31,
DESIGN CHOICE), the high halves of a control thread's graph and ray operands (log 116, DESIGN CHOICE). -/
def Obligations.GraphReads : Prop :=
  Claims.GraphReads ∧ Claims.MergeCandidatesAreNearest

/-- 13 R248, R249, R251, R252: requests wait for the boundary in the order they are made; gsta reads the snapshot. -/
def Sys2Proof.Machine.Claims.GraphRequests : Prop := ∀ o : Op,
  let asks := fun (r : State → Iss → Req) (own : Iss → Prop) (len : Nat) (l : Iss → List GraphChange) (s : State) (x : Iss) =>
    ({ req := r s x, own := own x, parts := [.context]
       next := (s.modCtx x.ctx fun c => { c with changes := c.changes ++ (l x).map fun g => (x.core, g) }).advance x len }
      : Course)
  let ct : Req := { g := o.g, phase := .C, who := .ct, reads := if immBit o then [rdS o.a] else [], writes := [] }
  let v := fun (x : Iss) => if immBit o then (x.s o.a.reg).lo else word2 o
  Runs (.gret o) (asks (fun s _ => gReq s o (gBlock s o.a 1) 0) (fun _ => True) 8
    fun x => x.requests.map fun i => .retire (x.lane o.a.reg i))
  ∧ Runs (.gkep o) (asks (fun s _ => gReq s o (gBlock s o.a 1) 0) (fun _ => True) 8
    fun x => x.requests.map fun i => .keep (!o.fn.getLsbD 0) (x.lane o.a.reg i))
  ∧ Runs (.gfrmRho o) (asks (fun _ _ => ct) (fun x => (v x).getLsbD 31 = false ∧ bits (v x) 23 8 ≠ 255) 12 fun x => [.rho (v x)])
  ∧ Runs (.gfrmOpen o) (asks (fun _ _ => ct) (fun x => (v x).toNat < 32) 12 fun x => [.openFrame (v x).toNat])
  ∧ Runs (.gfrmRel o) (asks (fun _ _ => ct) (fun _ => True) 12 fun x => [.release (v x)])
  ∧ ∀ (c : Ctx) (cc : CoreCtx),
    let item := bits o.fn 0 4
    (Answers (.gsta o) fun s x =>
      { req := { g := o.g, phase := .C, who := .any, reads := [rdS o.a], writes := [atS o.d] }
        own := s.ctx? x.ctx = some c ∧ s.cctx? x.core x.ctx = some cc ∧ item = 7 ∧ 32 ≤ (x.s o.a.reg).toNat
        next := s.raise x { cause := 2, flanes := x.sel, taddr := 0 } })
    ∧ Runs (.gsta o) fun s x =>
    let a := x.s o.a.reg
    { writesS { g := o.g, phase := .C, who := .any, reads := if item = 7 then [rdS o.a] else [], writes := [atS o.d] } 8 o.d
        (match item with
          | 0 => c.eta.setWidth 64
          | 1 => c.rho.setWidth 64
          | 2 => BitVec.ofNat 64 ((((List.range 32).filter fun f => c.retained.getLsbD f).map fun f => c.nf.getD f 0).sum)
          | 3 => BitVec.ofNat 64 (c.retained.toNat * 2 ^ 32 + (match c.openTag with | some t => 32 + t % 32 | none => 0))
          | 4 => BitVec.ofNat 64 cc.freeAtStart
          | 5 => BitVec.ofNat 64 c.npool
          | 6 => c.drop
          | _ => BitVec.ofNat 64 (c.nf.getD (a.toNat % 32) 0)) s x with
      own := s.ctx? x.ctx = some c ∧ s.cctx? x.core x.ctx = some cc ∧ (∀ t, c.openTag = some t → t < 32)
        ∧ (item = 7 → a.toNat < 32) }

/-- 13 R248 to R250, R253: the boundary empties the requests and computes η; a lone request to retire retires its vertex, or
marks it where it is kept in a retained frame; a lone append is published; a lone release frees its frames. -/
def Sys2Proof.Machine.Claims.GraphBoundaryChanges : Prop := ∀ (s : State) (ctx : Nat) (c : Ctx), s.ctx? ctx = some c →
  ∃ d, (s.graphBoundary ctx).ctx? ctx = some d ∧ d.changes = []
    ∧ d.eta = rn ((fv32 (rnMul 0x40490FDB (rnMul d.rho d.rho))).mul (FV.mk false d.frameSum 0)).toExact
    ∧ (c.changes = [] → d = { c with eta := d.eta })
    ∧ ∀ k < 64,
      (∀ h, c.changes = [(k, .retire h)] → c.statusOf h = 1 → (c.vertex h).rp = false →
        let v := c.vertex h
        let kept := metaKept v.mword && c.retained.getLsbD (metaFrame v.mword)
        (kept = false → d.slot (handleIndex h) = ⟨false, v.gen + 1, false, false, [], v.err⟩ ∧ d.statusOf h = 3)
        ∧ (kept = true → d.slot (handleIndex h) = { v with rp := true } ∧ d.statusOf h = 1))
      ∧ (∀ h, c.changes = [(k, .retire h), (k, .retire h)] → c.statusOf h = 1 → (c.vertex h).rp = false →
        (metaKept (c.vertex h).mword && c.retained.getLsbD (metaFrame (c.vertex h).mword)) = false →
        d.drop = c.drop ∧ d.statusOf h = 3)
      ∧ (∀ h, c.changes = [(k, .retire h)] → c.statusOf h ≠ 1 → d.drop = c.drop + 1 ∧ d.pool = c.pool)
      ∧ (∀ i w, c.changes = [(k, .append i w)] → d.slot i = { c.slot i with pub := true, rp := false, words := w, err := false })
      ∧ (∀ m, c.changes = [(k, .release m)] → d.retained = c.retained &&& ~~~m
        ∧ (∀ f < 32, (m &&& c.retained).getLsbD f = true → d.nf.getD f 0 = 0) ∧ d.drop = c.drop)

/-- 13 R248, R249, R251, R252: requests wait for the boundary in the order they are made; gsta reads the snapshot. That
a control thread's handle is the low half of its register is the model's choice (log 116). 13 R248 to R250, R253: the
boundary empties the requests and computes η; a lone request to retire retires its vertex, or marks it where it is kept
in a retained frame; a lone append is published; a lone release frees its frames. The model's own here: gsta.frames
while no frame is open (log 112, DESIGN CHOICE), the high halves of a control thread's graph and ray operands (log 116,
DESIGN CHOICE), boundary requests for a slot in error (log 132, DESIGN CHOICE). -/
def Obligations.GraphRequests : Prop :=
  Claims.GraphRequests ∧ Claims.GraphBoundaryChanges

/-! Scenes, rays, repacking and the rasteriser (row 0xD). -/

/-- 15 R257, R259, R260: scnb issues as an operation of class RAY; scnp records its request. -/
def Sys2Proof.Machine.Claims.ScenesBuildAndPublish : Prop := ∀ (o : Op) (slot : Nat),
  Runs (.scnb o) (fun s x => engineCourse
    { g := o.g, phase := .C, who := .ct, writes := [], reads := [rdS o.a, rdS o.b] ++ countReads o }
    (sceneSlot (x.s o.b.reg) = some slot ∧ 1 ≤ (x.count o).toNat ∧ (x.count o).toNat ≤ 128) 2 16 (.scnb o)
    [x.s o.a.reg, BitVec.ofNat 64 slot, x.count o] [] 0 s x)
  ∧ Runs (.scnp o) fun s x =>
    { req := { g := o.g, phase := .C, who := .ct, reads := [rdS o.a], writes := [] }
      own := sceneSlot (x.s o.a.reg) = some slot
      next := (s.modCtx x.ctx fun c =>
        { c with sceneReqs := c.sceneReqs ++ [(x.core, slot, o.fn.getLsbD 0)] }).advance x 8
      parts := [.context] }

/-- 15 R257 to R260: a build that is first of its slot completes: its status word is written with 1 and the slot holds what
was built, or with 2 or 3 and the slot's build has failed, or an address fault is deferred; the published structure stays. At
the boundary a lone publish of a built structure publishes it, and a lone .clr withdraws the slot. -/
def Sys2Proof.Machine.Claims.SceneBuildsComplete : Prop :=
  (∀ (s : State) (k id : Nat) (op : EngineOp) (o : Op) (r : OpRef) (c : Ctx),
    let slot := (op.val 1).toNat
    let a := (op.val 0).toNat % 2 ^ 48
    let cap := c.scncap.getD slot 0
    let built := fun (b : Build) => c.setScene slot { c.scene slot with build := b }
    s.memoryOk = true → s.turn k id op → op.instr = .scnb o → op.ref = some r → s.ctx? op.who.ctx = some c →
    (∀ d ∈ s.cores, ∀ p ∈ d.ops, ∀ q, p.instr = .scnb q → p.who.ctx = op.who.ctx → (p.val 1).toNat = slot → op.id ≤ p.id) →
    (∀ n b, s.buildScene op a (op.val 2).toNat cap = .status n b →
      let d := s.operandBytes op 0 a 64
      let place := fun (v : Nat) => if (wordAt d 5).getLsbD 0 then (a + v) % 2 ^ 48 else v % 2 ^ 48
      let m := (wordAt d 4).toNat
      let insts := recordsOf 16 (op.val 2).toNat (s.operandBytes op 1 (place (ofLE ((d.drop 8).take 8))) (64 * (op.val 2).toNat))
      let tris := recordsOf 10 m (s.operandBytes op 2 (place (ofLE (d.take 8))) (40 * m))
      let good := 1 ≤ m ∧ m ≤ 2 ^ 25 ∧ bits (wordAt d 5) 1 31 = 0 ∧ (∀ v ∈ (d.drop 0x18).take 0x20, v = 0)
        ∧ (∀ v ∈ (d.drop 0x3C).take 4, v = 0) ∧ (∀ i ∈ insts, instanceOk m i = true) ∧ ∀ i ∈ tris, triangleOk i = true
      (¬ good → n = 3 ∧ b = .failed) ∧ (good → cap < m → n = 2 ∧ b = .failed)
      ∧ (good → m ≤ cap → n = 1 ∧ b = .built ⟨insts, tris⟩)
      ∧ ∃ t, exec (.sceneBuildComplete k id) s = .next t ∧ t.ctx? op.who.ctx = some (built b) ∧ Ended s t op 0 false
        ∧ Lands s t k op.who.ctx ((a + 0x38) % 2 ^ 48) 4 fun i v => v = BitVec.ofNat 8 (n / 256 ^ i))
    ∧ ∀ cause addr, s.buildScene op a (op.val 2).toNat cap = .fault cause addr →
      exec (.sceneBuildComplete k id) s = .next
        ((((s.modCtx op.who.ctx fun _ => built .failed).modCore k fun d => { d with
            ops := d.ops.filter fun q => q.id != op.id
            ecc := if cause = 0x1B then d.ecc.modify 3 (fun n => if n = BitVec.allOnes 64 then n else n + 1) else d.ecc }).appendRecord
          op.who.ctx (s.engineRecord op.who 2 cause addr)).complete k r true))
  ∧ ∀ (s : State) (ctx : Nat) (c : Ctx) (k slot : Nat), s.ctx? ctx = some c → k < 64 →
    ∃ d, (s.sceneBoundary ctx).ctx? ctx = some d ∧ d.sceneReqs = []
      ∧ (∀ b, c.sceneReqs = [(k, slot, false)] → (c.scene slot).build = .built b → (d.scene slot).published = some b)
      ∧ (c.sceneReqs = [(k, slot, false)] → (∀ b, (c.scene slot).build ≠ .built b) →
          d.scene slot = c.scene slot ∧ d.drop = c.drop + 1)
      ∧ (c.sceneReqs = [(k, slot, true)] → (d.scene slot).published = none ∧ d.drop = c.drop)
      ∧ ∀ n, (∀ q ∈ c.sceneReqs, q.2.1 ≠ n) → d.scene n = c.scene n

/-- 15 R257, R259, R260: scnb issues as an operation of class RAY; scnp records its request. 15 R257 to R260: a build
that is first of its slot completes: its status word is written with 1 and the slot holds what was built, or with 2 or 3
and the slot's build has failed, or an address fault is deferred; the published structure stays. At the boundary a lone
publish of a built structure publishes it, and a lone .clr withdraws the slot. The model's own here: the status word of
scnb (log 50, DEDUCED), builds of one slot (log 51, DEDUCED), triangle counts that no scene can have (log 117, DESIGN
CHOICE). -/
def Obligations.ScenesBuildAndPublish : Prop :=
  Claims.ScenesBuildAndPublish ∧ Claims.SceneBuildsComplete

/-- 15 R256, R261, R263, R264, R272: trc and tnx mark their block empty, count on RAY when they make a request, and leave a
result of what their lanes' traces come to; a trace that stays open is held. -/
def Sys2Proof.Machine.Claims.TracesIssue : Prop := ∀ (o : Op) (c : Ctx),
  let d := o.d.toNat
  let any := o.fn.getLsbD 0
  let parts := fun (x : Iss) => [.counts, .traces, .results, .ids] ++ blockParts x o.d 6
  let lands := fun (s : State) (x : Iss) (lanes : LaneSet) (row : Nat → Nat → Word) (ref : Option OpRef) (bad : Bool) =>
    if x.isCt then s.pendResult x .trace 0 [] ((List.range 6).map fun j => (sNum o.d + j, (row j 0).setWidth 64)) false ref bad
    else s.pendResult x .trace lanes ((List.range 6).map fun j => (d + j, (List.range 128).map (row j))) [] false ref bad
  let word := fun (p : List (Nat × List Word)) (i j : Nat) => match p.find? fun q => q.1 == i with
    | some q => q.2.getD j 0 | none => 0
  (∀ slot : Nat,
    let req := fun (s : State) => ({ g := o.g, phase := .C, who := .any, reads := gBlock s o.a 9 ++ [rdS o.b]
                                     writes := regRange o.d 6 (rowKind s.curCt) } : Req)
    let block := fun (s : State) (x : Iss) (i : Nat) => startTrace c d i slot
      ((List.range 9).map fun j => x.lane (BitVec.ofNat 9 (o.a.reg.toNat + j)) i) any (Config.traceOrder s.nextId i)
    let own := fun (s : State) (x : Iss) => s.ctx? x.ctx = some c ∧ sceneSlot (x.s o.b.reg) = some slot
      ∧ (any = true → x.isCt = false → d ∈ x.uni.openBlocks ∨ x.uni.openBlocks.length < 4)
    let row := fun (s : State) (x : Iss) (j i : Nat) =>
      if x.isCt || x.active.getLsbD i then word (x.requests.map fun i => (i, (block s x i).1)) i j else (noHit 2).getD j 0
    let opened := fun (s u : State) (x : Iss) =>
      (u.modUni x fun u => u.setTraces d x.requests (x.requests.filterMap fun i => (block s x i).2)).countOp x.core x.party 2
    Runs (.trc o) (fun s x =>
      let q := opened s s x
      { req := req s, parts := parts x
        own := own s x ∧ x.requests ≠ [] ∧ (x.uni.count 2).val < 63 ∧ c.badScene slot = false
        next := (lands q.2 x x.sel (row s x) (some q.1) false).advance x 8 })
    ∧ Runs (.trc o) (fun s x =>
      { req := req s, own := own s x ∧ x.requests = [], parts := parts x
        next := (lands (s.modUni x fun u => u.setTraces d [] []) x x.sel (row s x) none false).advance x 8 })
    ∧ Answers (.trc o) fun s x =>
      let hit := (x.requests.filter fun i =>
        !rayInvalid ((List.range 9).map fun j => x.lane (BitVec.ofNat 9 (o.a.reg.toNat + j)) i)).length
      let q := opened s (s.lanternFault x 2 hit) x
      { req := req s, own := own s x ∧ x.requests ≠ [] ∧ (x.uni.count 2).val < 63 ∧ c.badScene slot = true
        next := (lands q.2 x x.sel (row s x) (some q.1) (hit != 0)).advance x 8 })
  ∧ (let req := fun (s : State) => ({ g := o.g, phase := .C, who := .any, reads := gBlock s o.a 1
                                      writes := regRange o.d 6 (rowKind s.curCt) } : Req)
    let opens := fun (x : Iss) => x.requests.filterMap fun i => x.uni.traces.find? fun t => t.dst == d && t.lane == i
    let ends := fun (s : State) (x : Iss) => (opens x).map fun t => (t.lane,
      if c.badScene t.slot then (List.replicate 6 (0 : Word), none) else t.decide
        (match (c.scene t.slot).published with | some sc => sceneHits sc t.ray true | none => [])
        (x.lane o.a.reg t.lane) (Config.traceOrder s.nextId t.lane))
    let closed := fun (s u : State) (x : Iss) =>
      (u.modUni x fun u => u.setTraces d ((ends s x).map Prod.fst) ((ends s x).filterMap fun p => p.2.2)).countOp x.core x.party 2
    let done := fun (s : State) (x : Iss) (q : OpRef × State) (bad : Bool) =>
      (lands q.2 x (LaneSet.ofTest fun i => ((ends s x).map Prod.fst).contains i)
        (fun j i => word ((ends s x).map fun p => (p.1, p.2.1)) i j) (some q.1) bad).advance x 8
    Runs (.tnx o) (fun s x =>
      { req := req s, parts := parts x
        own := s.ctx? x.ctx = some c ∧ opens x ≠ [] ∧ (x.uni.count 2).val < 63 ∧ ∀ t ∈ opens x, c.badScene t.slot = false
        next := done s x (closed s s x) false })
    ∧ Answers (.tnx o) (fun s x =>
      let hit := ((opens x).filter fun t => c.badScene t.slot).length
      { req := req s, own := s.ctx? x.ctx = some c ∧ opens x ≠ [] ∧ (x.uni.count 2).val < 63
        next := done s x (closed s (s.lanternFault x 2 hit) x) (hit != 0) })
    ∧ Runs (.tnx o) fun s x => { goesOn (req s) 8 s x with own := s.ctx? x.ctx = some c ∧ opens x = [] })

/-- 15 R261, R263, R264: what a trace reports does not depend on the order of traversal: an absent scene, an invalid ray,
the closest intersection without .any and flag [11], with that flag one of the intersections exactly when there is one; a
candidate under .any is a non-opaque intersection no farther than the best, never presented before; accept, terminate and
other decisions end as R264 says; a triangle without area is never hit, and a trace in a scene that is in error ends with
status 0 and zeros (R256, R258). -/
def Sys2Proof.Machine.Claims.TraceResults : Prop := ∀ (c : Ctx) (d i slot : Nat) (ray : List Word) (order : Nat → Nat),
  let first := (ray.getD 8 0).getLsbD 11
  (c.badScene slot = true → rayInvalid ray = false → ∀ any, startTrace c d i slot ray any order = (List.replicate 6 0, none))
  ∧ ((c.scene slot).published = none → ∀ any, startTrace c d i slot ray any order = (noHit 3, none))
  ∧ (∀ sc any (h : Hit), h ∈ sceneHits sc ray any → zeroArea (sc.tris.getD
      (((sc.insts.getD (h.id.toNat / 2 ^ 25) []).getD 12 0).toNat + h.id.toNat % 2 ^ 25) []) = false
      ∨ 2 ^ 7 < sc.insts.length ∨ ∃ r ∈ sc.insts, 2 ^ 25 < (r.getD 13 0).toNat)
  ∧ ∀ sc, (c.scene slot).published = some sc →
    (rayInvalid ray = true → ∀ any, startTrace c d i slot ray any order = (noHit 5, none))
    ∧ (c.badScene slot = false → rayInvalid ray = false → first = false →
        startTrace c d i slot ray false order = (finalBlock (nearest (sceneHits sc ray false)), none))
    ∧ (c.badScene slot = false → rayInvalid ray = false → first = true → sceneHits sc ray false = [] →
        startTrace c d i slot ray false order = (noHit 2, none))
    ∧ (c.badScene slot = false → rayInvalid ray = false → first = true → sceneHits sc ray false ≠ [] →
        ∃ h ∈ sceneHits sc ray false, startTrace c d i slot ray false order = (hitBlock h 1, none))
    ∧ ∀ t : Trace,
      let hits := sceneHits sc t.ray true
      (∀ b u, t.next hits order = (b, some u) → ∃ h ∈ hits, b = hitBlock h 4 ∧ u.cand = some h ∧ h.soft = true
        ∧ h.id ∉ t.shown ∧ u.shown = t.shown ++ [h.id] ∧ ∀ g, u.best = some g → leW h.t g.t = true)
      ∧ (∀ b, (∀ g, t.best = some g → (fv32 g.t).isNan = false) → t.next hits order = (b, none) →
        let fin := nearer t.best (opaqueHit hits ((t.ray.getD 8 0).getLsbD 11) (order 0))
        b = finalBlock fin ∧ ∀ h ∈ hits, h.soft = true → h.id ∉ t.shown → ∃ g, fin = some g ∧ ltW h.t g.t = false)
      ∧ t.decide hits 0 order = t.next hits order
      ∧ t.decide hits 2 order = (finalBlock t.cand, none)
      ∧ ((t.ray.getD 8 0).getLsbD 11 = true → t.decide hits 1 order = (finalBlock (nearer t.best t.cand), none))
      ∧ ((t.ray.getD 8 0).getLsbD 11 = false →
          t.decide hits 1 order = Trace.next { t with best := nearer t.best t.cand } hits order)
      ∧ ∀ v : Word, 2 < v.toNat → t.decide hits v order = (noHit 5, none)

/-- 15 R256, R261, R263, R264, R272: trc and tnx mark their block empty, count on RAY when they make a request, and
leave a result of what their lanes' traces come to (of a control thread from and in the low halves of its registers, the
upper halves being 0, log 116); a trace that stays open is held. 15 R261, R263, R264: what a trace reports does not
depend on the order of traversal: an absent scene, an invalid ray, the closest intersection without .any and flag [11],
with that flag one of the intersections exactly when there is one; a candidate under .any is a non-opaque intersection
no farther than the best, never presented before; accept, terminate and other decisions end as R264 says. The model's
own here: where and when memory errors happen (log 31, DESIGN CHOICE), the course of a trace (log 43, DESIGN CHOICE),
the fifth open trace block (log 44, DEDUCED), the decision operand of tnx (log 45, DEDUCED), the high halves of a
control thread's graph and ray operands (log 116, DESIGN CHOICE). -/
def Obligations.Traces : Prop :=
  Claims.TracesIssue ∧ Claims.TraceResults

/-- 15 R265, R266: rpak waits in the latch of its workgroup for the groups listed, traps where one of them is gone, and with
every group in the latch where another rpak stands there; the step moves the lanes that have not exited and are no helper
lanes together, in order of group and lane, and every listed group owns and executes its first lanes, or has exited. -/
def Sys2Proof.Machine.Claims.RepackMovesLanes : Prop :=
  (∀ (o : Op) (g : Group), Runs (.rpak o) fun s x =>
    let listed := (List.range 16).filter fun i => (rpakMask o).getLsbD i
    let first := bits (word2 o) 16 9
    let count := bits (word2 o) 25 7 + 1
    { req := { g := o.g, phase := .C, who := .group, reads := [], writes := [atS o.d] }
      own := x.grp = some g ∧ word3 o = 0 ∧ first ≤ 383 ∧ (rpakMask o).getLsbD g.gidx = true
        ∧ (∀ i ∈ listed, i < (s.wgSlots x.core g.wg).length) ∧ first + count ≤ 8 * g.blocks ∧ g.splitCount ≤ 1
        ∧ (∀ r ∈ g.recs, r = none)
        ∧ (∀ t ∈ s.maskSlots x.core g.wg (rpakMask o), t ≠ x.slot →
            ∃ h, s.group? x.core t = some h ∧ h.parked = false ∧ h.hasExited = false)
        ∧ (∀ t ∈ s.wgSlots x.core g.wg, ∀ h e sp p, s.group? x.core t = some h → h.held Wait.isRpak = some e →
            h.split? e = some sp → sp.wait = .rpak p → word2 o = word2 p ∧ word3 o = word3 p)
      next := s.setWait x (.rpak o) })
  ∧ (∀ (o : Op) (g : Group),
    let listed := (List.range 16).filter fun i => (rpakMask o).getLsbD i
    let first := bits (word2 o) 16 9
    let held := fun (s : State) (x : Iss) => (s.wgSlots x.core g.wg).filter fun t =>
      match s.group? x.core t with | some h => (h.held Wait.isRpak).isSome | none => false
    let gone := fun (s : State) (x : Iss) => ∃ t ∈ s.maskSlots x.core g.wg (rpakMask o), t ≠ x.slot
      ∧ ∀ h, s.group? x.core t = some h → h.parked = true ∨ h.hasExited = true
    let passes := fun (s : State) (x : Iss) => x.grp = some g ∧ word3 o = 0 ∧ first ≤ 383 ∧ (rpakMask o).getLsbD g.gidx = true
      ∧ (∀ i ∈ listed, i < (s.wgSlots x.core g.wg).length) ∧ first + bits (word2 o) 25 7 + 1 ≤ 8 * g.blocks
      ∧ g.splitCount ≤ 1 ∧ ∀ r ∈ g.recs, r = none
    let req : Req := { g := o.g, phase := .C, who := .group, reads := [], writes := [atS o.d] }
    Answers (.rpak o) (fun s x =>
      { req := req, own := passes s x ∧ gone s x ∧ held s x = []
        next := s.raise x { cause := 0x0F, flanes := x.sel } })
    ∧ Answers (.rpak o) fun s x =>
      { req := req
        own := passes s x ∧ held s x ≠ [] ∧ (gone s x ∨ ∀ t ∈ held s x, ∀ h e sp p, s.group? x.core t = some h →
          h.held Wait.isRpak = some e → h.split? e = some sp → sp.wait = .rpak p → word2 o ≠ word2 p ∨ word3 o ≠ word3 p)
        next := s.mismatch (x :: s.latchedIss x.core (held s x) Wait.isRpak) })
  ∧ ∀ (g : Group) (e k : Nat) (o : Op) (sp : Split) (surv : List (Group × Nat)), g.split? e = some sp →
    8 * g.blocks = g.v.length → (∀ r < g.v.length, (g.v.getD r []).length = 128) →
    bits (word2 o) 16 9 + bits (word2 o) 25 7 + 1 ≤ 8 * g.blocks →
    let c := min 128 (surv.length - 128 * k)
    let h := repackGroup g e k o surv
    (∀ r n, bits (word2 o) 16 9 ≤ r → r ≤ bits (word2 o) 16 9 + bits (word2 o) 25 7 → n < c →
      ∀ p, surv[128 * k + n]? = some p → (h.v.getD r []).getD n 0 = (p.1.v.getD r []).getD p.2 0)
    ∧ (∀ r, r < bits (word2 o) 16 9 ∨ bits (word2 o) 16 9 + bits (word2 o) 25 7 < r → h.v.getD r [] = g.v.getD r [])
    ∧ (∀ n < 128, h.exited.getLsbD n = decide (c ≤ n)) ∧ h.helper = 0 ∧ h.uni.traces = [] ∧ h.uni.m = g.uni.m
    ∧ h.uni.s = g.uni.s.set (sNum o.d) (BitVec.ofNat 64 c)
    ∧ (0 < c → ∃ sq, h.split? e = some sq ∧ sq.owned = ~~~h.exited ∧ sq.exec = ~~~h.exited ∧ sq.wait = .none
        ∧ sq.flow = sp.flow.advance 16)
    ∧ (c = 0 → h.split? e = none)

/-- 15 R266: the repack step of a workgroup happens when every listed group holds one instruction with the same immediate,
its RAY counter reads 0 and its carried registers are full; the groups take what the step gives them, and a group that
receives no lane has exited, without a pending fault. 24 R349: a group that would give up a lane in error traps instead. -/
def Sys2Proof.Machine.Claims.RepackStepHappens : Prop := ∀ (k wg t : Nat) (o : Op) (l : List (Nat × Group × Nat × Op))
    (bad : List (Iss × Nat × LaneSet)),
  let surv := l.flatMap fun p => ((~~~(p.2.1.exited ||| p.2.1.helper) : LaneSet).toList).map fun i => (p.2.1, i)
  let holds := fun (s : State) (u : Nat) (g : Group) (e : Nat) (q : Op) => s.group? k u = some g
    ∧ g.held Wait.isRpak = some e ∧ ∃ sp, g.split? e = some sp ∧ sp.wait = .rpak q
  let meets := fun (s : State) => t ∈ s.wgSlots k wg ∧ (∃ g e, holds s t g e o)
      ∧ (∀ u ∈ s.wgSlots k wg, ∀ g e q, holds s u g e q → word2 q = word2 o ∧ word3 q = word3 o)
      ∧ l.map (fun p => p.1) = s.maskSlots k wg (rpakMask o)
      ∧ ∀ p ∈ l, holds s p.1 p.2.1 p.2.2.1 p.2.2.2 ∧ word2 p.2.2.2 = word2 o ∧ word3 p.2.2.2 = word3 o
        ∧ s.groupLive k p.1 = true ∧ (p.2.1.uni.count 2).val = 0
        ∧ ∀ i ≤ bits (word2 o) 25 7, p.2.1.vEmpty.getLsbD (bits (word2 o) 16 9 + i) = false
  let clean := ∀ p ∈ l, ∀ i ≤ bits (word2 o) 25 7,
    p.2.1.laneErr (bits (word2 o) 16 9 + i) &&& ~~~(p.2.1.exited ||| p.2.1.helper) = 0
  Happens (.repackStep k wg)
    (fun s => meets s ∧ ¬ clean ∧ bad = l.filterMap fun p => (p.2.1.repackBad p.2.2.2).bind fun r =>
      (s.issAt k p.1 p.2.2.1).map fun x => (x, r))
    (fun s => s.latchErrors bad)
  ∧ Happens (.repackStep k wg) (fun s => meets s ∧ clean)
    fun s =>
      let s1 := (List.range l.length).foldl (fun s n => match l[n]? with
        | some p => s.modGroup k p.1 fun g => repackGroup g p.2.2.1 n p.2.2.2 surv
        | none => s) s
      ((l.map fun p => p.1).foldl (fun s u => match s.group? k u with
        | some g => if g.hasExited then (s.modGroup k u fun g => { g with uni := { g.uni with pend := 0 } }).leaveLatches k g
          else s
        | none => s) s1).settleTokens k

/-- 15 R265, R266: rpak waits in the latch of its workgroup for the groups listed; the step moves the lanes that have
not exited and are no helper lanes together, in order of group and lane, and every listed group owns and executes its
first lanes, or has exited. 15 R266: the repack step of a workgroup happens when every listed group holds one
instruction with the same immediate, its RAY counter reads 0 and its carried registers are full; the groups take what
the step gives them, and a group that receives no lane has exited, without a pending fault; a group that would give up a
lane in error traps (24 R349). The model's own here: two different rpak in one latch (log 46, DEDUCED), rpak that lists
a group that is gone (log 47, DEDUCED), the number of registers that rpak carries (log 134, DEDUCED). -/
def Obligations.RepackMovesLanes : Prop :=
  Claims.RepackMovesLanes ∧ Claims.RepackStepHappens

/-- 15 R267, R269: rast issues with its inputs captured and its registers empty; its completion lands the scan's lanes, the
helper lanes and the token. -/
def Sys2Proof.Machine.Claims.RasterInstruction : Prop := ∀ o : Op,
  (∀ sp : Split, Runs (.rast o) fun s x =>
    let v := fun j => x.uni.get (sNum o.a.reg + j)
    let marks := fun (s : State) => ((List.range 4).foldl (fun s j => s.markEmpty x (BitVec.ofNat 9 (o.d.toNat + j))) s)
    { req := { g := o.g, phase := .C, who := .group, reads := regRange o.a.reg 6 .s o.a.fe ++ [rdS o.b, rdS o.c],
               writes := regRange o.d 4 .v }
      own := (x.grp.bind fun g => g.split? x.entry) = some sp ∧ (∀ j ∈ [0, 2, 4], vertexOk (v j) = true)
        ∧ tileOk (x.s o.b.reg) = true ∧ (x.s o.c.reg).toNat ≤ 1024 ∧ sp.owned = LaneSet.all ∧ sp.exec = LaneSet.all
      next := ((marks (State.modCore { s with nextId := s.nextId + 1 } x.core fun c => { c with ops := c.ops ++
        [⟨s.nextId, none, s.issuer x, .rast o, (List.range 6).map v ++ [x.s o.b.reg, x.s o.c.reg], [], x.sel,
          x.flow.fmt, []⟩] })).markEmpty x o.c.reg).advance x 8
      parts := [.operations, .ids, .s (sNum o.c.reg)]
        ++ (List.range 4).map fun j => .v (BitVec.ofNat 9 (o.d.toNat + j)).toNat })
  ∧ ∀ (k id slot : Nat) (op : EngineOp),
    let tile := op.val 6
    let token := (op.val 7).toNat
    let total := 256 * (samplePattern (tilePat tile)).length
    let r := if token = 0 then ([], 0)
      else rastScan (rastTri op.vals) (o.fn.getLsbD 0) tile (total - (token - 1)) (token - 1) []
    Happens (.rastComplete k id)
      (fun s => op.instr = .rast o ∧ op.party = .group slot
        ∧ ∃ c, s.core? k = some c ∧ c.nextOp id (fun i => match i with | .rast _ => true | _ => false) = some op)
      fun s => (s.modCore k fun c => { c with ops := c.ops.filter fun p => p.id != id }).modGroup k slot fun g =>
        let h := (List.range 4).foldl (fun g j => g.setV (o.d.toNat + j) op.lanes fun i => match r.1[i]? with
          | some p => p.1.getD j 0 | none => if j = 0 then 0xFFFFFFFF else 0) g
        { h with helper := LaneSet.ofTest fun i => match r.1[i]? with | some p => !p.2 | none => false
                 uni := h.uni.set (sNum o.c.reg) (BitVec.ofNat 64 r.2) }

/-- 15 R269: an issue of the scan emits at most 32 quads, each with a covered sample, and its token is 0, or names an index
after at least 32 more. -/
def Sys2Proof.Machine.Claims.RasterScanAdvances : Prop := ∀ (t : RastTri) (lin : Bool) (tile : DWord) (i : Nat),
  let total := 256 * (samplePattern (tilePat tile)).length
  let r := rastScan t lin tile (total - i) i []
  r.1.length ≤ 128 ∧ r.1.length % 4 = 0
    ∧ (∀ q, 4 * q < r.1.length → ∃ k < 4, ∃ p, r.1[4 * q + k]? = some p ∧ p.2 = true)
    ∧ (r.2 ≠ 0 → r.1.length = 128 ∧ i + 32 < r.2 ∧ r.2 ≤ total)

/-- 15 R267, R269: rast issues with its inputs captured and its registers empty; its completion lands the scan's lanes,
the helper lanes and the token. 15 R269: an issue of the scan emits at most 32 quads, each with a covered sample, and
its token is 0, or names an index after at least 32 more. The model's own here: who may execute rast and rpak (log 48,
DEDUCED), when rast sets %helper (log 49, DEDUCED), quads that the scan of rast passes over (log 133, DESIGN CHOICE). -/
def Obligations.Rasterisation : Prop :=
  Claims.RasterInstruction ∧ Claims.RasterScanAdvances

/-- 15 R268: a sample is covered when E[j] is positive at every edge, or 0 at an edge with dy < 0, or dy = 0 and dx > 0, all of
them negated where A, the same at every sample, is negative; with A = 0 none is. A lane that the scan has found covered stands
at a sample of its pixel, at 256 (X0 + x) + ox and 256 (Y0 + y) + oy, that is covered. -/
def Sys2Proof.Machine.Claims.CoverageIsExact : Prop := ∀ t : RastTri,
  let X := fun (n : Nat) => t.x.getD n 0
  let Y := fun (n : Nat) => t.y.getD n 0
  let ends := fun (j : Nat) => match j with | 0 => (1, 2) | 1 => (2, 0) | _ => (0, 1)
  let dx := fun (j : Nat) => X (ends j).2 - X (ends j).1
  let dy := fun (j : Nat) => Y (ends j).2 - Y (ends j).1
  let E := fun (px py : Int) (j : Nat) => dx j * (py - Y (ends j).1) - dy j * (px - X (ends j).1)
  (∀ px py : Int,
    let A := E px py 0 + E px py 1 + E px py 2
    let sign : Int := if A < 0 then -1 else 1
    t.area = A ∧ (t.covers px py = true ↔ A ≠ 0 ∧ ∀ j < 3, 0 < sign * E px py j
      ∨ (E px py j = 0 ∧ (sign * dy j < 0 ∨ (dy j = 0 ∧ 0 < sign * dx j)))))
  ∧ ∀ (lin : Bool) (tile : DWord) (fuel i : Nat) (p : List Word × Bool), tileOk tile = true →
    p ∈ (rastScan t lin tile fuel i []).1 → p.2 = true →
    let w := p.1.getD 0 0
    ∃ o, (match bits tile 48 2 with
        | 0 => [(128, 128)]
        | 1 => [(64, 64), (192, 192)]
        | _ => [((96 : Int), (32 : Int)), (224, 96), (32, 160), (160, 224)])[bits w 28 4]? = some o
      ∧ bits tile 0 14 ≤ bits w 0 14 ∧ bits w 0 14 < bits tile 0 14 + bits tile 32 6
      ∧ bits tile 16 14 ≤ bits w 14 14 ∧ bits w 14 14 < bits tile 16 14 + bits tile 40 6
      ∧ t.covers (256 * (bits w 0 14 : Nat) + o.1) (256 * (bits w 14 14 : Nat) + o.2) = true

/-- 15 R268: a sample on an edge that two triangles of one winding share, and inside of both otherwise, is covered by exactly
one of them. -/
def Sys2Proof.Machine.Claims.SharedEdges : Prop := ∀ (x0 y0 x1 y1 x2 y2 x3 y3 px py : Int) (z w z' w' : List Word),
  let a : RastTri := ⟨[x0, x1, x2], [y0, y1, y2], z, w⟩
  let b : RastTri := ⟨[x1, x0, x3], [y1, y0, y3], z', w'⟩
  (0 < a.area → 0 < b.area → a.value 2 px py = 0 → 0 < a.value 0 px py → 0 < a.value 1 px py → 0 < b.value 0 px py →
    0 < b.value 1 px py → (a.covers px py = !b.covers px py))
  ∧ (a.area < 0 → b.area < 0 → a.value 2 px py = 0 → a.value 0 px py < 0 → a.value 1 px py < 0 → b.value 0 px py < 0 →
    b.value 1 px py < 0 → (a.covers px py = !b.covers px py))

/-- 15 R268: coverage is exact, by the signs of the three edge values at the sample's position; a sample on an edge that two
triangles of one winding share, and inside of both otherwise, is covered by exactly one of them. -/
def Obligations.SharedEdgeCoveredOnce : Prop :=
  Claims.CoverageIsExact ∧ Claims.SharedEdges

/-- 15 R270, R271: srat combines rates (of a control thread in the low half of its register, the upper half being 0, log
116); twb issues as an operation of class CPY with its two results empty, and when it completes writes the tile, row
after row, where its hash is new or .force is given, and reports. The model's own here: when memory is read and written
(log 5, DESIGN CHOICE), the high halves of a control thread's graph and ray operands (log 116, DESIGN CHOICE). -/
def Obligations.RatesAndTileWriteBack : Prop := ∀ o : Op,
  Runs (.srat o) (fun s x =>
    let field := fun (v : Word) (lo : Nat) => min (bits v lo 2) 2
    let one := fun (k a b : Nat) => match k with | 0 => a | 1 => b | 2 => min a b | 3 => max a b | _ => min (a + b) 2
    let axis := fun (i lo : Nat) => one (bits o.fn 3 3)
      (one (bits o.fn 0 3) (field (x.lane o.a.reg i) lo) (field (x.lane o.b.reg i) lo)) (field (x.lane o.c.reg i) lo)
    let f := fun i => BitVec.ofNat 32 (axis i 0 + 4 * axis i 2)
    { req := { g := o.g, phase := .C, who := .any, reads := [rdAny o.a, rdAny o.b, rdAny o.c],
               writes := regRange o.d 1 (rowKind s.curCt) }
      next := ((if x.isCt then s.setS x o.d ((f 0).setWidth 64) else s.setV x o.d.toNat f)).advance x 8
      parts := blockParts x o.d 1 })
  ∧ (let req : Req := { g := o.g, phase := .C, who := .any, writes := regRange o.d 2 .s
                        reads := [rdS o.a] ++ regRange o.b.reg 2 .s o.b.fe ++ [rdS o.c] }
    Runs (.twb o) (fun s x => { goesOn req 8 s x with own := x.active = 0 })
    ∧ Runs (.twb o) fun s x =>
      let pitch := x.uni.get (sNum o.b.reg + 1)
      let e := BitVec.ofNat 9 (o.d.toNat + 1)
      { req := req, own := x.active ≠ 0 ∧ pitch.hi = 0 ∧ (x.uni.count 0).val < 63
        next := ((((State.modUni { s with nextId := s.nextId + 1 } x fun u => { u with counts := u.counts.modify 0 fun e =>
          { e with done := e.done ++ [.running] } }).modCore x.core fun c =>
          { c with ops := c.ops ++ [⟨s.nextId, some ⟨x.party, 0, (x.uni.count 0).base + (x.uni.count 0).val⟩, s.issuer x,
            .twb o, [x.s o.a.reg, x.s o.b.reg, pitch, x.s o.c.reg], [], 0, x.flow.fmt, []⟩] }).markEmpty x o.d).markEmpty
          x e).advance x 8
        parts := [.counts, .operations, .ids, .s (sNum o.d), .s (sNum e)] })
  ∧ ∀ (k id : Nat) (op : EngineOp),
    let w := if o.fn.getLsbD 0 then 8 else 4
    let wrap := fun (n : Nat) => (op.val n).toNat % 2 ^ 48
    let first := fun (s : State) => op.instr = .twb o
      ∧ ∃ c, s.core? k = some c ∧ c.nextOp id (fun i => match i with | .twb _ => true | _ => false) = some op
    let check := fun (s : State) => s.twbFault op (wrap 0) (wrap 3) (wrap 1) (op.val 2).toNat w
    let put := fun (s : State) (a b : DWord) => s.modParty k op.party fun u => (u.set (sNum o.d) a).set (sNum o.d + 1) b
    let hash := fun (s : State) => tileHash (128 * w) (s.operandBytes op 0 (wrap 0) (1024 * w)) 0x9E3779B97F4A7C15
    let same := fun (s : State) => hash s = BitVec.ofNat 64 (ofLE ((List.range 8).map fun i =>
      taken op.early 33 (aliasOff (wrap 3) + i) (s.sliceByte k (aliasOff (wrap 3) + i))))
    (∀ f, Happens (.twbComplete k id) (fun s => first s ∧ check s = some f) fun s => (put s 0 0).endOp op 0 (some f))
    ∧ Happens (.twbComplete k id) (fun s => first s ∧ check s = none ∧ o.fn.getLsbD 1 = false ∧ same s)
      (fun s => (put s (hash s) 0).endOp op 0 none)
    ∧ Happens (.twbComplete k id) (fun s => first s ∧ check s = none ∧ (o.fn.getLsbD 1 = true ∨ ¬ same s)) fun s =>
      let row := fun (p : State × List Sample) (r : Nat) =>
        let dst := (wrap 1 + r * (op.val 2).toNat) % 2 ^ 48
        let off := if isVirtual dst then dst else aliasOff dst
        ((p.1.copyWrite op.who.core op.who.ctx dst
          [(0, p.1.operandBytes { op with early := p.2 } (r + 1) ((wrap 0 + 32 * w * r) % 2 ^ 48) (32 * w))]).1,
          p.2.filter fun e => !decide (off ≤ e.at_ ∧ e.at_ < off + 32 * w))
      let rows := ((List.range 32).foldl row (s, op.early)).1
      (put (rows.sliceWrite k (aliasOff (wrap 3)) (toLE 8 (hash s).toNat)) (hash s) 1).endOp op 0 none

/-! Overlays, register blocks and launches from control threads (row 0xE). -/

/-- 17 R278, R286 to R288, Table 17.2: ovld completes at once for a token that is there, joins a fill that runs, and starts
one otherwise; ovq reports; ovev takes a token on its way out. -/
def Sys2Proof.Machine.Claims.OverlayTokens : Prop := ∀ o : Op,
  let req : Req := { g := o.g, phase := .C, who := .any, reads := [rdS o.a], writes := [] }
  let tok := fun (x : Iss) => (x.s o.a.reg).extractLsb' 0 12
  let named := fun (x : Iss) => bits (x.s o.a.reg) 12 52 = 0
  let settled := fun (s : State) (x : Iss) => s.settleTokens x.core
  let token := fun (s : State) (x : Iss) => (settled s x).token x.core x.ctx (tok x)
  let ref := fun (x : Iss) => (⟨x.party, 4, (x.uni.count 4).base + (x.uni.count 4).val⟩ : OpRef)
  let counted := fun (s : State) (x : Iss) => (settled s x).modUni x fun u =>
    { u with counts := u.counts.modify 4 fun e => { e with done := e.done ++ [.running] } }
  let parts : List Part := [.counts, .store, .ids]
  Runs (.ovld o) (fun s x =>
    { req := req, own := named x ∧ (x.uni.count 4).val < 63 ∧ (token s x).state = .filling, parts := parts
      next := (((counted s x).setToken x.core x.ctx (tok x) { token s x with evict := false }).modCore x.core fun c => { c with
        fills := c.fills.map fun f =>
          if f.ctx = x.ctx ∧ f.token = tok x then { f with refs := f.refs ++ [ref x] } else f }).advance x 8 })
  ∧ Runs (.ovld o) (fun s x =>
    { req := req, own := named x ∧ (x.uni.count 4).val < 63 ∧ (token s x).state = .resident, parts := parts
      next := ((counted s x).complete x.core (ref x)).advance x 8 })
  ∧ Runs (.ovld o) (fun s x =>
    { req := req, own := named x ∧ (x.uni.count 4).val < 63 ∧ (token s x).state = .evictPending, parts := parts
      next := (((counted s x).setToken x.core x.ctx (tok x) { token s x with state := .resident }).complete x.core
        (ref x)).advance x 8 })
  ∧ (∀ t : State, Answers (.ovld o) fun s x =>
    { req := req, next := t.advance x 8
      own := named x ∧ (x.uni.count 4).val < 63 ∧ ((token s x).state = .absent ∨ (token s x).state = .failed)
        ∧ (counted s x).startFill x.core x.ctx (tok x) [ref x] (s.issuer x) none = .started t })
  ∧ (∀ (c : Core) (cc : CoreCtx), Runs (.ovq o) fun s x =>
    let t := cc.token (tok x)
    let held := t.state = .filling ∨ t.state = .resident ∨ t.state = .evictPending
    let code := match t.state with | .absent => 0 | .filling => 1 | .resident => 2 | .evictPending => 3 | .failed => 4
    { writesS { Req.plain o.g with reads := if o.fn.getLsbD 0 then [] else [rdS o.a], writes := [atS o.d] } 8 o.d
        (BitVec.ofNat 64 (if o.fn.getLsbD 0 then c.freeSlots * 2 ^ 32 + cc.heldSlots * 2 ^ 16 + cc.ovqt
          else t.cause.toNat * 2 ^ 32
            + (if held ∧ (t.image.bind c.image?).any (fun i => i.shr) = true then 2 ^ 24 else 0)
            + (if held then t.slots else 0) * 2 ^ 8 + code)) (settled s x) x with
      own := (settled s x).core? x.core = some c ∧ (settled s x).cctx? x.core x.ctx = some cc
        ∧ (o.fn.getLsbD 0 = false → named x)
      parts := [.store, .s (sNum o.d)] })
  ∧ Runs (.ovev o) fun s x =>
    let old := token s x
    let put := fun (t : Token) => (settled s x).setToken x.core x.ctx (tok x) t
    { req := req, own := named x, parts := [.store]
      next := (match old.state with
        | .filling => put { old with evict := true }
        | .resident => (put { old with state := .evictPending }).settleTokens x.core
        | .failed => put { old with state := .absent }
        | _ => settled s x).advance x 8 }

/-- 17 R281 to R283: a waiting fill starts when its slots are free; a fill whose image verifies makes its token resident, with
the image's words; one that fails makes it failed with the cause of Table 17.3, and the token holds no image, and for an
access or memory error a record joins the fault queue, and a launch that asked for the fill is rejected or tried again; who
waited for a fill that has failed meets 0x0E, whatever the token has become (17 R280, 04 Table 4.3). 17 R289: a forced eviction
in the window makes its token absent, with its cause as it was (Table 17.5), whatever its slots hold, and no other. -/
def Sys2Proof.Machine.Claims.FillsVerifyImages : Prop :=
  (∀ (k : Nat) (c : Core) (f : Fill), Happens (.fillQueueServe k)
    (fun s => s.core? k = some c ∧ c.fills.find? (fun f => !f.started) = some f ∧ f.slots ≤ c.freeSlots)
    fun s => s.modCore k fun c => { c with
      fills := c.fills.map fun g => if g.id = f.id then { g with started := true } else g
      images := c.images ++ [⟨f.image, teShr f.entry, teDigest f.entry, teLen f.entry, teEcnt f.entry, f.slots, false, [], []⟩] })
  ∧ (∀ (s : State) (k id : Nat) (c : Core) (cc : CoreCtx) (f : Fill) (i : Image),
    s.core? k = some c → c.fills.find? (fun f => f.id == id && f.started) = some f →
    c.fills.filter (fun g => g.image == f.image) = [f] → c.image? f.image = some i →
    s.cctx? k f.ctx = some cc → (cc.tokens.map Prod.fst).Nodup → (cc.token f.token).state = .filling →
    (cc.token f.token).evict = false → (cc.token f.token).image = some f.image →
    ∃ t, exec (.fillComplete k id) s = .next t ∧ match s.readImage k f with
      | .ok ws => t.token k f.ctx f.token = { cc.token f.token with state := .resident, waiters := [] }
          ∧ t.codeImage k f.ctx f.token = some { i with ready := true, words := ws, bad := [] }
      | .error e => t.token k f.ctx f.token = ⟨.failed, false, BitVec.ofNat 3 e.cause, 0, none, [],
            (cc.token f.token).owed ++ (cc.token f.token).waiters⟩
          ∧ t.codeImage k f.ctx f.token = none
          ∧ (e.cause = 4 ∨ e.cause = 5 → f.refs = [] → ∀ l w, f.placement = some (l, w) ∨ f.placement = none →
            t = State.settleTokens (State.setToken
              { (s.modCore k fun c => { c with
                    fills := c.fills.filter fun g => g.image != f.image
                    images := c.images.filter fun i => i.id != f.image
                    ecc := if e.code = 0x1B then c.ecc.modify 3 (fun n => if n = BitVec.allOnes 64 then n else n + 1)
                      else c.ecc }).appendRecord (if f.placement = none then f.who.ctx else f.ctx)
                  (if f.placement = none then s.engineRecord f.who 4 e.code e.addr
                    else { FaultRec.zero with
                      phase := s.phase, launch := BitVec.ofNat 64 (w * 64 + l), cls := 4, cause := e.code, addr := e.addr, core := k
                      pc := ⟨f.token, 0⟩ }) with
                launches := if f.placement ≠ none ∧ e.cause = 4 then s.launches.map fun (p : Launch) =>
                  if p.queue = l ∧ p.seq = w then { p with rejected := true } else p else s.launches }
              k f.ctx f.token ⟨.failed, false, BitVec.ofNat 3 e.cause, 0, none, [],
                (cc.token f.token).owed ++ (cc.token f.token).waiters⟩) k))
  ∧ (∀ (s : State) (k id : Nat) (c : Core) (cc : CoreCtx) (f : Fill) (i : Image) (w : TokWait) (g : Going) (x : Iss) (ws : List Word),
    s.core? k = some c → c.fills.find? (fun f => f.id == id && f.started) = some f →
    c.fills.filter (fun g => g.image == f.image) = [f] → c.image? f.image = some i → f.refs = [] → s.readImage k f = .ok ws →
    s.cctx? k f.ctx = some cc → (cc.token f.token).image = some f.image → (cc.token f.token).waiters = [w] →
    w.goes = some g → s.iss? w.thread = some x → x.sup = false → x.pc = w.pc → x.core = k → x.ctx = f.ctx →
    let u := State.setToken (s.modCore k fun c => { c with
        fills := c.fills.filter fun g => g.image != f.image
        images := c.images.map fun j => if j.id = f.image then { j with ready := true, words := ws, bad := [] } else j })
      k f.ctx f.token { cc.token f.token with
        state := if (cc.token f.token).evict then .evictPending else .resident, evict := false, waiters := [] }
    let j := { i with ready := true, words := ws, bad := [] }
    exec (.fillComplete k id) s = .next (State.settleTokens (match j.target g.dest with
      | some off => State.jump (match g.link with | some l => u.setS x l.1 l.2 | none => u) x ⟨f.token, off⟩
      | none => u.raise x { cause := 0x02, flanes := g.sel }) k))
  ∧ (∀ (i : Image) (j : Nat) (off : Word),
    i.target (.entry j) = (if j < i.ecnt then some (i.entryOff j) else none)
    ∧ i.target (.offset off) = if off.toNat < i.len then some off else none)
  ∧ (∀ (s : State) (x : Iss) (tok : BitVec 12) (auto : Bool) (cc : CoreCtx), s.cctx? x.core x.ctx = some cc →
    (∃ p ∈ cc.tokens, ∃ w ∈ p.2.owed, w.thread = x.th ∧ w.pc = x.pc) →
    ∀ g, s.resolve x tok auto g = .trap ((s.settleTokens x.core).dropWaiter x) 0x0E)
  ∧ ∀ (s : State) (k n : Nat) (tok : BitVec 12) (c : Core) (cc : CoreCtx), s.core? k = some c → s.cctx? k n = some cc →
    s.window = .events → (∃ d ∈ c.cctx, d.handling.isSome = true) →
    (s.forceEvict k n tok).token k n tok = ⟨.absent, false, (cc.token tok).cause, 0, none, [], (cc.token tok).owed⟩ ∧ (s.forceEvict k n tok).codeImage k n tok = none
    ∧ (∀ m t, m ≠ n ∨ t ≠ tok → (s.forceEvict k n tok).token k m t = s.token k m t)
    ∧ ∃ d, (s.forceEvict k n tok).core? k = some d ∧ d.fills = c.fills.filter fun f => !(f.ctx == n && f.token == tok)

/-- 17 R278, R286 to R288, Table 17.2: ovld completes at once for a token that is there, joins a fill that runs, and
starts one otherwise; ovq reports; ovev takes a token on its way out. 17 R281 to R283: a waiting fill starts when its
slots are free; a fill whose image verifies makes its token resident, with the image's words; one that fails makes it
failed with the cause of Table 17.3, and the token holds no image; who waited for it traps. That a token evicted by
force while it fills keeps its CAUSE and ends its fill is the model's choice (log 52). The model's own here: SHA-512
(log 10, PRESUMED), ovld of a token that ovev has marked (log 22, DEDUCED), forced eviction (log 52, DESIGN CHOICE), a
shared image that two directory entries give different ECNT (log 135, DESIGN CHOICE), a shared fill that still waits in
the queue (log 136, DESIGN CHOICE), when a waiting call goes on (log 139, DEDUCED). -/
def Obligations.OverlayTokens : Prop :=
  Claims.OverlayTokens ∧ Claims.FillsVerifyImages

/-- 03 R57 to R61, 22 R320, 23 R334, R335: rgiv gives blocks back, rclm claims some and waits, a claim is served or
fails; that it also ends where its group is frozen or detached, which then goes on when it can, is the model's reading
(log 97); rpol reports; lnch writes a record to its queue, or finds it full. The model's own here: lnch by firmware's
control program in a window (log 68, DEDUCED), a detached context's place in queues and latches (log 97, DEDUCED). -/
def Obligations.RegisterBlocksAndLaunches : Prop := ∀ o : Op,
  let n := fun (x : Iss) => if immBit o then (x.s o.a.reg).toNat else bits o.fn 0 6
  let req : Req := { g := o.g, phase := .C, who := .group, reads := if immBit o then [rdS o.a] else [], writes := [] }
  (∀ g : Group,
    Runs (.rgiv o) (fun s x =>
      let b := g.blocks - n x
      { req := req, parts := [.blocks]
        own := x.grp = some g ∧ g.splitCount ≤ 1 ∧ 1 ≤ n x ∧ n x < g.blocks
          ∧ (∀ i < 8 * n x, g.vEmpty.getLsbD (8 * b + i) = false)
        next := (s.modIssGroup x fun h => { h with
          blocks := b, v := h.v.take (8 * b), vTaint := h.vTaint &&& BitVec.ofNat 384 (2 ^ (8 * b) - 1)
          vErr := h.vErr.filter fun p => decide (p.1 < 8 * b) }).advance x 8 })
    ∧ Runs (.rclm o) fun s x =>
      { req := { req with writes := [atS o.d] }, parts := [.claims]
        own := x.grp = some g ∧ g.splitCount ≤ 1 ∧ 1 ≤ n x ∧ g.blocks + n x ≤ 48
        next := (s.modCore x.core fun c => { c with claims := c.claims ++ [⟨x.slot, x.entry, o.d, n x⟩] }).setWait x
          (.claim o.d (n x)) })
  ∧ (∀ c : Core, Runs (.rpol o) fun s x =>
      { writesS { Req.plain o.g with writes := [atS o.d] } 8 o.d (BitVec.ofNat 64
          (c.freeBlocks + c.heldBlocks x.ctx * 2 ^ 10 + c.claims.length * 2 ^ 20)) s x with
        own := s.core? x.core = some c })
  ∧ (∀ (k : Nat) (c : Core) (cc : CoreCtx) (g : Group) (x : Iss) (q : Claim) (qs : List Claim),
    let ends := fun (s : State) (x : Iss) (d : BitVec 9) (v : DWord) =>
      if s.groupLive k x.slot then (s.setS x d v).advance x 8 else (s.setS x d v).setWait x .claimed
    Happens (.rclmClaimServed k)
      (fun s => s.core? k = some c ∧ c.claims = q :: qs ∧ c.group? q.slot = some g ∧ c.cctx? g.ctx = some cc
        ∧ q.n ≤ c.freeBlocks ∧ c.heldBlocks g.ctx + q.n ≤ cc.vbq
        ∧ State.issAt (s.modCore k fun c => Core.modGroup { c with claims := qs } q.slot fun g => { g with
            blocks := g.blocks + q.n, v := g.v ++ List.replicate (8 * q.n) (List.replicate 128 0)
            vEmpty := g.vEmpty &&& BitVec.ofNat 384 (2 ^ (8 * g.blocks) - 1)
            vTaint := g.vTaint &&& BitVec.ofNat 384 (2 ^ (8 * g.blocks) - 1) }) k q.slot q.entry = some x)
      (fun s => ends (s.modCore k fun c => Core.modGroup { c with claims := qs } q.slot fun g => { g with
          blocks := g.blocks + q.n, v := g.v ++ List.replicate (8 * q.n) (List.replicate 128 0)
          vEmpty := g.vEmpty &&& BitVec.ofNat 384 (2 ^ (8 * g.blocks) - 1)
          vTaint := g.vTaint &&& BitVec.ofNat 384 (2 ^ (8 * g.blocks) - 1) }) x q.d (BitVec.ofNat 64 (g.blocks + q.n)))
    ∧ Happens (.rclmClaimFail k)
      (fun s => s.core? k = some c ∧ c.claims = q :: qs ∧ c.claimFits q = false
        ∧ ∀ t < 96, ∀ g, c.group? t = some g → g.parked = true ∨ g.hasExited = true ∨ (∃ p ∈ c.claims, p.slot = t)
            ∨ ∃ d, s.ctx? g.ctx = some d ∧ d.detached = true)
      (fun s => (q :: qs).foldl (fun s p => match s.issAt k p.slot p.entry with
        | some x => ends s x p.d 0 | none => s) (s.modCore k fun c => { c with claims := [] })))
  ∧ ∀ q : LaunchQueue,
    let lreq : Req := { Req.plain o.g with who := .ct, reads := [rdS o.a, rdS o.b], writes := [atS o.d] }
    let at_ := fun (x : Iss) => bits (x.s o.a.reg) 0 48
    let own := fun (s : State) (x : Iss) => s.queues[(x.s o.b.reg).toNat]? = some q ∧ (x.s o.b.reg).toNat < 64
      ∧ q.en = true ∧ q.src = true ∧ q.ctx = x.ctx ∧ s.accessCheck x [0] (fun _ => at_ x) 64 64 false = none
    Runs (.lnch o) (fun s x => { writesS lreq 8 o.d 0 s x with
      own := own s x ∧ (q.widx - q.ridx).toNat = 2 ^ q.lsz })
    ∧ Runs (.lnch o) fun s x =>
      { req := lreq, own := own s x ∧ (q.widx - q.ridx).toNat ≠ 2 ^ q.lsz, parts := [.launches, .s (sNum o.d)]
        next := (State.setS { s with queues := s.queues.set (x.s o.b.reg).toNat { q with
          ring := AMap.set q.ring (q.widx.toNat % 2 ^ q.lsz) (s.sliceRead x.core (aliasOff (at_ x)) 64)
          widx := q.widx + 1 } } x o.d 1).advance x 8 }

/-! Privileged instructions (row 0xF). -/

namespace Sys2Proof.Machine

/-- The shared checks of a row 0xF instruction (21 R309). -/
def supReq (g : Guard) (reads writes : List Opnd) : Req :=
  { g := g, phase := .A, who := .super, reads := reads, writes := writes }

/-- SEL of a CT context names this group, which is parked or frozen by the delivery that the context is handling, be it a
straggler event (21 R306, 23 R334). -/
def selects (s : State) (x : Iss) (own : CoreCtx) (g : Group) : Prop :=
  let slot := 6 * bits own.sel 4 4 + bits own.sel 8 3
  s.group? x.core slot = some g ∧ g.ctx = bits own.sel 0 4
    ∧ (g.parked = true ∨ (g.frozen = true ∧ ∃ d e, own.handling = some d ∧ d.src = .group slot e)
      ∨ (own.handling.isSome = true ∧ own.held = true ∧ g.ctx = x.ctx ∧ g.hasExited = false))

/-- Numbers of CSRs that can be read (21 Table 21.1). -/
def csrHas (n : Nat) : Prop :=
  n ≤ 5 ∨ (0x10 ≤ n ∧ n ≤ 0x15) ∨ (0x20 ≤ n ∧ n ≤ 0x25) ∨ (0x40 ≤ n ∧ n ≤ 0x46 ∧ n ≠ 0x44) ∨ (0x80 ≤ n ∧ n < 0xC0)

/-- Numbers of CSRs that can be written. -/
def csrTakes (n : Nat) : Prop :=
  n = 0 ∨ n = 3 ∨ (0x15 ≤ n ∧ n ≤ 0x25 ∧ n ≠ 0x20 ∧ (n = 0x15 ∨ 0x21 ≤ n)) ∨ (0x40 ≤ n ∧ n ≤ 0x46 ∧ n ≠ 0x44)
    ∨ (0x80 ≤ n ∧ n < 0xC0)

end Sys2Proof.Machine

/-- 21 R305, R306, R310 and Table 21.1: what csrd reads of every CSR, and that a number without a register traps. -/
def Sys2Proof.Machine.Claims.CsrReads : Prop := ∀ (o : I64) (own : CoreCtx),
  let n := bits o.imm 0 12
  let req := supReq o.g [] [atS o.d]
  let reads := fun (p : State → Iss → Prop) (v : State → Iss → DWord) => Runs (.csrd o) fun s x =>
    { writesS req 8 o.d (v s x) s x with own := s.cctx? x.core x.ctx = some own ∧ p s x }
  let always := fun (v : DWord) => reads (fun _ _ => True) fun _ _ => v
  let link := fun (p : Pc) => BitVec.ofNat 64 (p.token.toNat * 2 ^ 32 + p.off.toNat)
  let half := fun (m : LaneSet) (h : Nat) => BitVec.ofNat 64 (m.toNat / 2 ^ (64 * h))
  let ctx := bits own.sel 0 4
  let reg := own.sel.extractLsb' 15 9
  (n = 0x000 → always (own.sel.setWidth 64)) ∧ (n = 0x001 → always (own.tcause.setWidth 64))
  ∧ (n = 0x002 → always (own.tsrc.setWidth 64)) ∧ (n = 0x003 → always (link own.tpc))
  ∧ (n = 0x004 → always (own.taddr.setWidth 64)) ∧ (n = 0x005 → always (own.vec.setWidth 64))
  ∧ (∀ (g : Group) (sp : Split),
    let there := fun (s : State) (x : Iss) => selects s x own g ∧ g.split? (bits own.sel 11 4) = some sp
    let free := fun (s : State) (x : Iss) => selects s x own g ∧ g.split? (bits own.sel 11 4) = none
    (n = 0x010 → reads there fun _ _ => link sp.flow.pc) ∧ (n = 0x010 → reads free fun _ _ => 0)
    ∧ (0x011 ≤ n → n ≤ 0x014 → reads free fun _ _ => 0)
    ∧ (n = 0x011 → reads there fun _ _ => half sp.owned 0) ∧ (n = 0x012 → reads there fun _ _ => half sp.owned 1)
    ∧ (n = 0x013 → reads there fun _ _ => half sp.exec 0) ∧ (n = 0x014 → reads there fun _ _ => half sp.exec 1)
    ∧ (n = 0x015 → isS reg = true → reads (fun s x => selects s x own g ∧ g.uni.sErr.getLsbD (sNum reg) = false)
        fun _ _ => g.uni.get (sNum reg))
    ∧ (n = 0x015 → isS reg = false → reads (fun s x => selects s x own g ∧ reg.toNat < 8 * g.blocks
          ∧ (g.laneErr reg.toNat).getLsbD (bits own.sel 24 7) = false) fun _ _ =>
        ((g.v.getD reg.toNat []).getD (bits own.sel 24 7) 0).setWidth 64)
    ∧ (n = 0x015 → Answers (.csrd o) fun s x =>
      { req := req
        own := s.cctx? x.core x.ctx = some own ∧ selects s x own g ∧
          if isS reg then g.uni.sErr.getLsbD (sNum reg) = true
          else reg.toNat < 8 * g.blocks ∧ (g.laneErr reg.toNat).getLsbD (bits own.sel 24 7) = true
        next := (s.countEcc x.core).raise x { cause := 0x1B, flanes := x.sel, taddr := 0, detail := 0x500 } })
    ∧ (0x010 ≤ n → n ≤ 0x015 → Answers (.csrd o) fun s x =>
      { req := req
        own := s.cctx? x.core x.ctx = some own ∧ s.group? x.core (6 * bits own.sel 4 4 + bits own.sel 8 3) = some g
          ∧ g.parked = false ∧ own.held = false
          ∧ ∀ d e, own.handling = some d → d.src ≠ .group (6 * bits own.sel 4 4 + bits own.sel 8 3) e
        next := s.raise x { cause := 0x02, flanes := x.sel } }))
  ∧ (∀ (d : Ctx) (c : CoreCtx),
    let here := fun (s : State) (x : Iss) => s.ctx? ctx = some d ∧ s.cctx? x.core ctx = some c
    let bit := fun (b : Bool) (i : Nat) => if b then 2 ^ i else 0
    (n = 0x020 → reads here fun _ _ => BitVec.ofNat 64
      (bit c.handling.isSome 4 + bit c.running 3 + bit d.detached 2 + bit d.member 1 + bit c.resident 0))
    ∧ (n = 0x021 → reads here fun _ _ => BitVec.ofNat 64 c.slbase) ∧ (n = 0x022 → reads here fun _ _ => BitVec.ofNat 64 c.sllim)
    ∧ (n = 0x023 → reads here fun _ _ => BitVec.ofNat 64 c.vbq) ∧ (n = 0x024 → reads here fun _ _ => BitVec.ofNat 64 c.ovqt)
    ∧ (n = 0x025 → reads here fun _ _ => c.ctent.setWidth 64) ∧ (n = 0x040 → reads here fun _ _ => BitVec.ofNat 64 d.ovtb)
    ∧ (n = 0x041 → reads here fun _ _ => d.ptroot) ∧ (n = 0x042 → reads here fun _ _ => d.fq)
    ∧ (n = 0x043 → reads here fun _ _ => BitVec.ofNat 64 d.npool) ∧ (n = 0x045 → reads here fun _ _ => d.cores)
    ∧ (n = 0x046 → reads here fun _ _ => if d.excl then 1 else 0)
    ∧ (0x80 ≤ n → n < 0xC0 → reads here fun _ _ => BitVec.ofNat 64 (d.scncap.getD (n - 0x80) 0)))
  ∧ (¬ csrHas n → fieldsOk (.csrd o) = false ∧ Answers (.csrd o) fun s x =>
      { req := req, own := s.cctx? x.core x.ctx = some own, next := s.raise x ⟨0x01, x.sel, 0, 0, 0⟩ })

/-- 21 R305 to R308, R310: what cswr writes: SEL, TPC and a register of the selected group, the CSRs of a context on the core
within their limits, and, for the next window, the context-wide CSRs; a number that cannot be written traps. -/
def Sys2Proof.Machine.Claims.CsrWrites : Prop := ∀ (o : I64) (own : CoreCtx) (c : Core) (cc : CoreCtx) (d : Ctx) (g : Group),
  let n := bits o.imm 0 12
  let v := fun (x : Iss) => x.s o.a.reg
  let req := supReq o.g [rdS o.a] []
  let ctx := bits own.sel 0 4
  let reg := own.sel.extractLsb' 15 9
  let there := fun (s : State) (x : Iss) => s.cctx? x.core x.ctx = some own ∧ s.core? x.core = some c
    ∧ s.cctx? x.core ctx = some cc ∧ s.ctx? ctx = some d
  let writes := fun (p : State → Iss → Prop) (f : Iss → State → State) => Answers (.cswr o) fun s x =>
    { req := req, own := there s x ∧ p s x, next := (f x s).advance x 8 }
  let queued := fun (s : State) (x : Iss) => s.modCtx ctx fun d => { d with csrWrites := d.csrWrites ++ [(x.core, n, v x)] }
  let wide := fun (p : State → Iss → Prop) => writes p fun x s => queued s x
  let fits := fun (s : State) (x : Iss) => (queued s x).lanternFits = true
  let parts := fun (s : State) (x : Iss) => (queued s x).partitionOk ctx = true
  (n = 0x000 → writes (fun _ x => bits (v x) 31 33 = 0 ∧ bits (v x) 8 3 ≤ 5) fun x s =>
    s.modCctx x.core x.ctx fun y => { y with sel := (v x).extractLsb' 0 31 })
  ∧ (n = 0x003 → writes (fun s x => bits (v x) 44 20 = 0 ∧ bits (v x) 0 2 = 0
      ∧ ∀ i, s.codeImage x.core x.ctx ((v x).extractLsb' 32 12) = some i → bits (v x) 0 32 < i.len) fun x s =>
    s.modCctx x.core x.ctx fun y => { y with tpc := ⟨(v x).extractLsb' 32 12, (v x).extractLsb' 0 32⟩ })
  ∧ (n = 0x015 → isS reg = true → writes (fun s x => selects s x own g) fun x s =>
    s.modGroup x.core (6 * bits own.sel 4 4 + bits own.sel 8 3) fun g => { g with uni := g.uni.set (sNum reg) (v x) })
  ∧ (n = 0x015 → isS reg = false → writes (fun s x => selects s x own g ∧ reg.toNat < 8 * g.blocks) fun x s =>
    s.modGroup x.core (6 * bits own.sel 4 4 + bits own.sel 8 3) fun g =>
      g.setV reg.toNat (1#128 <<< bits own.sel 24 7) fun _ => (v x).lo)
  ∧ (n = 0x021 → writes (fun _ x => (v x).toNat % 4096 = 0 ∧ (v x).toNat ≤ cc.sllim
      ∧ ∀ p ∈ c.wgs, p.2.ctx = ctx → (v x).toNat ≤ p.2.base) fun x s =>
    s.modCctx x.core ctx fun y => { y with slbase := (v x).toNat })
  ∧ (n = 0x022 → writes (fun _ x => (v x).toNat % 4096 = 0 ∧ cc.slbase ≤ (v x).toNat ∧ (v x).toNat ≤ 0x03C00000
      ∧ ∀ p ∈ c.wgs, p.2.ctx = ctx → p.2.limit ≤ (v x).toNat) fun x s =>
    s.modCctx x.core ctx fun y => { y with sllim := (v x).toNat })
  ∧ (n = 0x023 → writes (fun _ x => (v x).toNat ≤ 512 ∧ c.heldBlocks ctx ≤ (v x).toNat) fun x s =>
    s.modCctx x.core ctx fun y => { y with vbq := (v x).toNat })
  ∧ (n = 0x024 → writes (fun _ x => (v x).toNat ≤ 256 ∧ cc.heldSlots ≤ (v x).toNat) fun x s =>
    s.modCctx x.core ctx fun y => { y with ovqt := (v x).toNat })
  ∧ (n = 0x025 → writes (fun _ x => (v x).toNat < 2 ^ 13) fun x s => s.modCctx x.core ctx fun y => { y with
      ctent := (v x).setWidth 13, starting := y.starting || ((v x).getLsbD 12 && !y.running)
      startAt := if ((v x).getLsbD 12 && !y.running) = true then (v x).setWidth 12 else y.startAt })
  ∧ (n = 0x040 → wide fun _ x => isVirtual (v x).toNat = true ∧ (v x).toNat % 4096 = 0)
  ∧ (n = 0x041 → wide fun _ x => bits (v x) 1 11 = 0 ∧ bits (v x) 48 16 = 0)
  ∧ (n = 0x042 → wide fun _ x => fqOk (v x) = true)
  ∧ (n = 0x043 → wide fun s x => (v x).toNat % 64 = 0 ∧ 64 ≤ (v x).toNat ∧ (v x).toNat ≤ 2 ^ 27 ∧ fits s x)
  ∧ (n = 0x045 → wide parts)
  ∧ (n = 0x046 → wide fun s x => (v x).toNat ≤ 1 ∧ parts s x)
  ∧ (0x80 ≤ n → n < 0xC0 → wide fun s x => 1 ≤ (v x).toNat ∧ (v x).toNat ≤ 2 ^ 25 ∧ fits s x)
  ∧ (¬ csrTakes n → fieldsOk (.cswr o) = false ∧ Answers (.cswr o) fun s x =>
      { req := req, own := there s x, next := s.raise x ⟨0x01, x.sel, 0, 0, 0⟩ })

/-- 21 R306, R307: the window applies the context-wide CSRs that wait, by issuing core and then in issue order, so that the last
write of each in that order gives its value; a new pool size empties the pool; and what R307 asks of CORES and EXCL looks at the
values that the waiting writes will give. -/
def Sys2Proof.Machine.Claims.WideWritesApply : Prop :=
  (∀ (s : State) (ctx : Nat) (d : Ctx), ctx < 16 → s.ctx? ctx = some d → d.scncap.length = 64 →
    (∀ w ∈ d.csrWrites, w.2.1 = 0x040 ∨ w.2.1 = 0x041 ∨ w.2.1 = 0x042 ∨ w.2.1 = 0x043 ∨ w.2.1 = 0x045 ∨ w.2.1 = 0x046
      ∨ (0x080 ≤ w.2.1 ∧ w.2.1 < 0x0C0)) →
    let order := (List.range 64).flatMap fun k => d.csrWrites.filter fun w => w.1 == k
    let last := fun (n : Nat) => (((order.filter fun w => w.2.1 == n).getLast?).map fun w => w.2.2 : Option DWord)
    ∃ e, s.openWindow.ctx? ctx = some e ∧ e.csrWrites = [] ∧ e.ovtb = ((last 0x040).map BitVec.toNat).getD d.ovtb
      ∧ e.ptroot = (last 0x041).getD d.ptroot ∧ e.fq = (last 0x042).getD d.fq
      ∧ e.npool = ((last 0x043).map BitVec.toNat).getD d.npool ∧ e.pool = (if (last 0x043).isSome then [] else d.pool)
      ∧ e.cores = (last 0x045).getD d.cores ∧ e.excl = ((last 0x046).map fun v => v.getLsbD 0).getD d.excl
      ∧ ∀ i < 64, e.scncap.getD i 0 = ((last (0x080 + i)).map BitVec.toNat).getD (d.scncap.getD i 0))
  ∧ ∀ (s : State) (ctx : Nat) (d : Ctx), s.ctx? ctx = some d →
    let cores := fun (d : Ctx) => (((d.orderedWrites.filter fun w => w.2.1 == 0x045).getLast?).map fun w => w.2.2).getD d.cores
    let excl := fun (d : Ctx) => (((d.orderedWrites.filter fun w => w.2.1 == 0x046).getLast?).map fun w => w.2.2 == 1).getD d.excl
    (s.partitionOk ctx = true ↔ (excl d = true →
      (∀ n < 16, ∀ e, n ≠ ctx → s.ctx? n = some e → excl e = true → cores e &&& cores d = 0)
      ∧ ∀ k < 64, ∀ c, (cores d).getLsbD k = true → s.core? k = some c → ∀ n ∈ c.residents, n = ctx))

/-- 21 R305, R306, R310 and Table 21.1: what csrd reads of every CSR, and that a number without a register traps. 24
R349: GREG of a register in error traps with 0x1B in the lane that it reads, with the detail that the model chooses (log
31). 21 R305 to R308, R310: what cswr writes: SEL, TPC and a register of the selected group, the CSRs of a context on
the core within their limits, and, for the next window, the context-wide CSRs, which it applies in order; a number that
cannot be written traps. The model's own here: where and when memory errors happen (log 31, DESIGN CHOICE), checks
against writes that wait for the window (log 53, DEDUCED), csrd of a split entry that is free (log 137, DESIGN CHOICE).
-/
def Obligations.ControlRegisters : Prop :=
  Claims.CsrReads ∧ Claims.CsrWrites ∧ Claims.WideWritesApply

/-- 21 R303, R311; 23 R334; 24 R342, R343: a delivery that starts stops the user CT, sets TCAUSE, TSRC, TPC and TADDR, starts
the supervisor at VEC and sets %flanes of its source, with the PC that the user CT has now for a straggler or window event;
the groups of the context that no delivery keeps frozen go on. -/
def Sys2Proof.Machine.Claims.DeliveryStarts : Prop := ∀ (s : State) (k ctx : Nat) (c : CoreCtx) (d : Delivery) (ds : List Delivery),
  s.cctx? k ctx = some c → c.handling = none → c.deliveries = d :: ds →
  let t := s.startDelivery k ctx
  let source : BitVec 16 := match d.src with
    | .userCt => BitVec.ofNat 16 (4096 * ctx)
    | .group slot e => BitVec.ofNat 16 (4096 * ctx + 256 * e + 32 * (slot % 6) + 2 * (slot / 6) + 1)
  t.cctx? k ctx = some { c with
      handling := some d, deliveries := ds, stopped := true, tcause := d.detail ++ d.cause, tsrc := source, taddr := d.taddr
      held := d.cause == 0x18#8 && d.detail == 1#16, tpc := if d.cause = 0x18 then c.user.flow.pc else d.tpc
      sup := { c.sup with flow := { c.sup.flow with pc := ⟨0, c.vec⟩ } }, supErr := c.supErr.filter fun r => r != .pc }
  ∧ ∀ n g, s.group? k n = some g → t.group? k n = some { g with
      frozen := g.frozen && !(g.ctx == ctx && (d :: ds).all fun p => match p.src with | .group m _ => m != n | .userCt => true)
      flanes := match d.src with | .group m _ => if m = n then d.flanes else g.flanes | .userCt => g.flanes }

/-- 22 R326, 04 R90: a split does not issue while another split of its partition comes before it: one that is ready and has not
given way, where it has; an urgent one, or one that became urgent earlier; of two that are not urgent, the one that has been
ready longer; but of the two that a partition issues in one clock the lower in slot and entry may go first, once (04 R89, log 123). A
control thread does not issue while one that comes earlier in turn is ready. A thread that no other ready one of
its place stands beside may issue. A split is ready from the clock on at which its instruction could first issue, and not while it
cannot issue. -/
def Sys2Proof.Machine.Claims.PartitionChoice : Prop := ∀ s : State,
  let age := fun (t : DWord) => (s.clock - t).toNat
  (∀ (k slot slot' e e' : Nat) (sp sq : Split) (t : DWord), s.split? (.group k slot e) = some sp →
    s.split? (.group k slot' e') = some sq → slot / 6 = slot' / 6 → e' < 16 → sq.since = some t → sq.yielded = false →
    (sp.yielded = true
      ∨ (sq.urgent = true ∧ (sp.urgent = false ∨ age sp.urgentAt < age sq.urgentAt))
      ∨ (sq.urgent = false ∧ sp.urgent = false ∧ ∀ u, sp.since = some u → age u < age t)) →
    (sp.yielded = true ∨ sq.passed = true ∨ 16 * slot' + e' ≤ 16 * slot + e) →
    s.mayIssue (.group k slot e) = false)
  ∧ (∀ (t u : Thread) (sp sq : Split), s.split? t = some sp → s.split? u = some sq → s.firstOf t (fun _ => true) = some u →
    s.firstOf t (fun v => v != u) = some t → sp.yielded = false → sq.passed = false → t.place < u.place → s.mayIssue t = true)
  ∧ (∀ (k n m : Nat) (c : Core), s.core? k = some c → m ∈ c.residents → s.isReady (.ct k m) = true →
    (m + 15 - c.lastCt) % 16 < (n + 15 - c.lastCt) % 16 → s.mayIssue (.ct k n) = false)
  ∧ (∀ t : Thread, (∀ u, u ≠ t → u.pipe = t.pipe → s.isReady u = false) → s.mayIssue t = true)
  ∧ (∀ (k slot e : Nat) (x : Iss) (sp : Split), k < 64 → slot < 96 → e < 16 → s.iss? (.group k slot e) = some x →
    s.split? (.group k slot e) = some sp → s.watch.split? (.group k slot e) = some { sp with
      since := if s.couldIssue (.group k slot e) then sp.since.orElse fun _ => some s.clock else none })
  ∧ ∀ (k slot e : Nat) (sp : Split), slot < 96 → e < 16 → s.iss? (.group k slot e) = none →
    s.split? (.group k slot e) = some sp → s.watch.split? (.group k slot e) = some { sp with since := none }

/-- 21 R303, R311, R312, R314; 22 R326; 24 R345: tret resumes the source of the delivery at TPC and lets the next one
start; halt ends the delivery with a record and resumes nothing, and lets the next one start; tinv drops cached
translations; pdet; a queued delivery starts, and what a halted one has left frozen goes on; a split that has been ready
for 32 clocks becomes urgent, and which split of a partition issues. The model's own here: which agent moves next, and
how long everything takes (log 4, DESIGN CHOICE), which translations are cached (log 8, DESIGN CHOICE), pdet.det of a
context that is no member (log 60, DEDUCED), a user control thread after tret (log 65, DEDUCED), %flanes (log 69,
DEDUCED), a trap at the end of a loop (log 101, DESIGN CHOICE), what halt leaves frozen (log 107, DEDUCED), the order of
two instructions that a partition issues in one clock (log 123, DEDUCED), which registers of a supervisor state an
instruction reads (log 138, DEDUCED). -/
def Obligations.DeliveriesEnd : Prop :=
  Claims.DeliveryStarts ∧ Claims.PartitionChoice
  ∧ (∀ (o : Op) (c : CoreCtx) (d : Delivery),
    let req := supReq o.g [] []
    let own := fun (s : State) (x : Iss) => s.cctx? x.core x.ctx = some c ∧ c.handling = some d
    let done := fun (x : Iss) (t : State) => ((t.modCctx x.core x.ctx fun y =>
      { y with handling := none, stopped := !c.deliveries.isEmpty
               held := y.held && !(d.cause == 0x18#8 && d.detail == 1#16) }).startDelivery x.core x.ctx).settleTokens x.core
    let waits := fun (slot : Nat) => c.deliveries.any fun d => match d.src with | .group t _ => t == slot | .userCt => false
    (∀ slot e, d.src = .group slot e → Answers (.tret o) fun s x =>
      { req := req, own := own s x
        next := done x ((s.advance x 8).modGroup x.core slot fun g =>
          { g.modSplit e fun sp => { sp with flow := sp.flow.goto c.tpc } with frozen := waits slot }) })
    ∧ (d.src = .userCt → Answers (.tret o) fun s x =>
      { req := req, own := own s x
        next := done x ((s.advance x 8).modCctx x.core x.ctx fun y =>
          { y with user := { y.user with flow := y.user.flow.goto c.tpc }
                   wait := if y.user.flow.pc = c.tpc then y.wait else .none }) })
    ∧ Answers (.halt o) fun s x =>
      { req := req, own := own s x
        next := (((s.advance x 8).haltRecord x.core x.ctx d).modCctx x.core x.ctx fun y =>
          { y with handling := none }).startDelivery x.core x.ctx })
  ∧ (∀ o : Op,
    let page := bits o.fn 0 2 = 0
    let all := bits o.fn 0 2 = 2
    Runs (.tinv o) (fun s x =>
      { req := supReq o.g ((if page then [rdS o.a] else []) ++ (if all then [] else [rdS o.b])) []
        own := bits o.fn 0 2 ≤ 2 ∧ (all ∨ (x.s o.b.reg).toNat ≤ 15)
          ∧ ∀ c ∈ s.cores, ∀ n ∈ c.nodes, ∀ p ∈ n.left, p.2 < 2 ^ 26
        parts := [.translations]
        next := State.advance { s with tlb := s.tlb.filter fun c => !(all || (c.ctx == (x.s o.b.reg).toNat
          && (!page || c.va / 2 ^ 30 == bits (x.s o.a.reg) 0 48 / 2 ^ 30))) } x 8 })
    ∧ Answers (.tinv o) (fun s x =>
      { req := supReq o.g ((if page then [rdS o.a] else []) ++ (if all then [] else [rdS o.b])) []
        own := bits o.fn 0 2 ≤ 2 ∧ (all ∨ (x.s o.b.reg).toNat ≤ 15)
          ∧ ∃ c ∈ s.cores, ∃ n ∈ c.nodes, ∃ p ∈ n.left, 2 ^ 26 ≤ p.2
        next := s })
    ∧ Answers (.pdetDet o) (fun s x =>
      { req := supReq o.g [rdS o.a] [], next := (s.advance x 8).detach (bits (x.s o.a.reg) 0 4) (some x.core) })
    ∧ Answers (.pdetAtt o) fun s x =>
      { req := supReq o.g [rdS o.a] [], own := s.window ≠ .closed
        next := (s.modCtx (bits (x.s o.a.reg) 0 4) fun d => { d with rejoin := d.rejoin || d.detached }).advance x 8 })
  ∧ (∀ (k ctx : Nat) (c : CoreCtx) (d : Delivery) (ds : List Delivery), Happens (.trapDelivery k ctx)
    (fun s => s.cctx? k ctx = some c ∧ c.handling = none ∧ c.deliveries = d :: ds) fun s => s.startDelivery k ctx)
  ∧ ∀ (k slot e : Nat) (x : Iss) (sp : Split), Happens (.splitUrgent k slot e)
    (fun s => s.iss? (.group k slot e) = some x ∧ (x.grp.bind fun g => g.split? e) = some sp ∧ sp.urgent = false
      ∧ ∃ t, sp.since = some t ∧ 32 ≤ (s.clock - t).toNat)
    fun s => s.modGroup k slot fun g => g.modSplit e fun sp => { sp with urgent := true, urgentAt := sp.since.getD 0 + 32 }

/-- 23 R335, R336: detaching a context takes it out of membership, ends its deliveries and takes its matrix engines, and
what it has issued of an exchange superstep comes to nothing from now on; its claims stay in their queues, which is the
model's reading (log 97); it changes no other context, and no group that neither belongs to it nor takes part in its
matrix operations. The model's own here: a detached context's place in queues and latches (log 97, DEDUCED). -/
def Obligations.DetachmentIsOneContexts : Prop := ∀ (s : State) (ctx : Nat) (asker : Option Nat) (d : Ctx),
  s.ctx? ctx = some d → d.detached = false →
  let t := s.detach ctx asker
  (∃ e, t.ctx? ctx = some e ∧ e.detached = true ∧ e.member = false ∧ e.rejoin = false ∧ e.pool = d.pool
      ∧ e.scenes = d.scenes ∧ e.ovtb = d.ovtb ∧ e.ptroot = d.ptroot ∧ e.fq = d.fq ∧ e.voidBefore = s.nextId)
  ∧ (∀ n, n ≠ ctx → t.ctx? n = s.ctx? n)
  ∧ (∀ k, (t.core? k).map Core.claims = (s.core? k).map Core.claims)
  ∧ (∀ k < 64, ∀ c, t.cctx? k ctx = some c → c.handling = none ∧ c.deliveries = [])
  ∧ ((∀ c ∈ s.cores, ∀ o ∈ c.mat.owner.toList ++ c.mat.susp, ∀ q ∈ o.ops, ∀ r ∈ q.refs, ∃ n, r.party = .group n) →
      ∀ k n, n ≠ ctx → t.cctx? k n = s.cctx? k n)
  ∧ (∀ k < 64, ∀ c, t.core? k = some c → (∀ o, c.mat.owner = some o → o.ctx ≠ ctx) ∧ (∀ o ∈ c.mat.susp, o.ctx ≠ ctx)
      ∧ ∀ o ∈ c.mat.queue, o.ctx ≠ ctx)
  ∧ (∀ k slot g, s.group? k slot = some g → g.ctx ≠ ctx → (∀ c, s.core? k = some c →
      ∀ o ∈ c.mat.owner.toList ++ c.mat.susp ++ c.mat.queue, o.ctx = ctx → slot ∉ o.members) →
      (∀ c, s.core? k = some c → ∀ o ∈ c.mat.owner.toList ++ c.mat.susp, o.ctx = ctx → ∀ q ∈ o.ops, ∀ r ∈ q.refs,
        r.party ≠ .group slot) → t.group? k slot = some g)

/-! Saving, restoring and resetting contexts. -/

/-- 21 R313: ctsv writes the image of a context on the core and releases it there; ctld restores an image; a fault or a bad
header gives 0 and changes nothing else. What is restored is what was saved: registers and masks of groups, both thread
states of the control thread, the bytes of the allocations, and which of their bank words are in error (24 R350). -/
def Sys2Proof.Machine.Claims.ContextImages : Prop :=
  (∀ (o : Op) (d : Ctx),
    let req := supReq o.g [rdS o.a, rdS o.b] [atS o.d]
    let ctx := fun (x : Iss) => (x.s o.b.reg).toNat
    let at_ := fun (x : Iss) => bits (x.s o.a.reg) 0 48
    let named := fun (s : State) (x : Iss) => ctx x ≤ 15 ∧ s.ctx? (ctx x) = some d ∧ (s.window ≠ .closed ∨ d.detached = true)
    let told := fun (cause e : Nat) (s : State) (w : Issuer) =>
      (if cause = 0x1B then s.countEcc w.core else s).appendRecord w.ctx (s.engineRecord w 0 cause e)
    let faulted := fun (cause e : Nat) (s : State) (x : Iss) => ((told cause e s (s.issuer x)).setS x o.d 0).advance x 8
    (∀ (t : State) (len : Nat), Answers (.ctsv o) fun s x =>
      { req := req
        own := named s x ∧ s.drained (ctx x) = true ∧ s.writeImage x.core (ctx x) x.ctx (at_ x) = .ok (t, len)
        next :=
          let u := match (s.imageOf x.core (ctx x) 0).inError with | some a => told 0x1B a t (s.issuer x) | none => t
          ((u.setS x o.d (BitVec.ofNat 64 len)).advance x 8).release x.core (ctx x) })
    ∧ (∀ e : Nat, Answers (.ctsv o) fun s x =>
      { req := req, next := faulted (s.walkCause x.ctx e true) e s x
        own := named s x ∧ s.drained (ctx x) = true ∧ s.writeImage x.core (ctx x) x.ctx (at_ x) = .error e })
    ∧ ∀ cc : CoreCtx,
      let free := fun (s : State) (x : Iss) => named s x ∧ s.cctx? x.core (ctx x) = some cc ∧ cc.resident = false
      (∀ v : SavedCtx, Answers (.ctld o) fun s x =>
        { req := req
          own := free s x ∧ s.readImageAt x.ctx (at_ x) = .image v ∧ s.roomFor x.core (ctx x) v = true
          next := ((s.restoreImage x.core (ctx x) v).setS x o.d (BitVec.ofNat 64 v.len)).advance x 8 })
      ∧ (∀ v : SavedCtx, Runs (.ctld o) fun s x =>
        { writesS req 8 o.d 0 s x with
          own := free s x ∧ (s.readImageAt x.ctx (at_ x) = .mismatch
            ∨ (s.readImageAt x.ctx (at_ x) = .image v ∧ s.roomFor x.core (ctx x) v = false)) })
      ∧ ∀ cause e : Nat, Answers (.ctld o) fun s x =>
        { req := req, own := free s x ∧ s.readImageAt x.ctx (at_ x) = .fault cause e, next := faulted cause e s x })
  ∧ (∀ v : SavedCtx, (v.poison ≠ [] → ∃ w ∈ v.poison, v.inError = some (16 * w) ∧ ∀ u ∈ v.poison, w ≤ u)
    ∧ (v.inError = none → v.poison = [] ∧ v.cctx.supErr = [] ∧ v.cctx.user.uni.sErr = 0 ∧ v.cctx.sup.uni.sErr = 0
        ∧ ∀ p ∈ v.groups, p.2.uni.sErr = 0 ∧ ∀ q ∈ p.2.vErr, q.2 = 0))
  ∧ (∀ (s t : State) (k ctx len : Nat) (c ct : Core) (cc tc : CoreCtx) (d : Ctx), s.core? k = some c → s.cctx? k ctx = some cc →
    s.ctx? ctx = some d → t.core? k = some ct → ct.groups.length = 96 → t.cctx? k ctx = some tc → (t.ctx? ctx).isSome = true →
    s.memoryOk = true → t.memoryOk = true → (c.wgs.map Prod.fst).Nodup →
    let v := s.imageOf k ctx len
    let u := t.restoreImage k ctx v
    t.roomFor k ctx v = true →
    (∀ n g, n < 96 → c.group? n = some g → g.ctx = ctx → ∃ m, u.group? k m = some g)
    ∧ (∃ e, u.cctx? k ctx = some e ∧ e.user = cc.user ∧ e.sup = cc.sup ∧ e.supErr = cc.supErr ∧ e.running = cc.running ∧ e.slbase = cc.slbase
        ∧ e.sllim = cc.sllim ∧ e.vbq = cc.vbq ∧ e.ovqt = cc.ovqt ∧ e.dq = cc.dq ∧ e.resident = true ∧ e.pops.length = cc.pops.length
        ∧ e.tokens = [] ∧ e.vec = tc.vec ∧ e.wings = cc.wings.filter (fun w => w.owner != .ct)
        ∧ e.objs = cc.objs.filter fun b => b.owner != .ct)
    ∧ (∀ p ∈ c.wgs, p.2.ctx = ctx → (∀ off, p.2.base ≤ off → off < p.2.limit → u.sliceByte k off = s.sliceByte k off)
        ∧ ∃ cu w, u.core? k = some cu ∧ AMap.get? cu.wgs p.1 = some w ∧ w = { p.2 with slots := w.slots }
          ∧ w.slots.length = p.2.slots.length
          ∧ ∀ (i n : Nat) g, p.2.slots[i]? = some n → n < 96 → c.group? n = some g → g.ctx = ctx →
            ∃ m, w.slots[i]? = some m ∧ u.group? k m = some g)
    ∧ (∀ off, (∀ p ∈ c.wgs, p.2.ctx = ctx → off < p.2.base ∨ p.2.limit ≤ off) → u.sliceByte k off = t.sliceByte k off)
    ∧ (∃ cu, u.core? k = some cu ∧ ∀ w, (w ∈ cu.poison ↔
        if (∃ p ∈ c.wgs, p.2.ctx = ctx ∧ p.2.base ≤ 16 * w ∧ 16 * w < p.2.limit) then w ∈ c.poison else w ∈ ct.poison))
    ∧ (∀ n g, t.group? k n = some g → u.group? k n = some g)
    ∧ ∃ e, u.ctx? ctx = some e ∧ e.pointer = d.pointer)
  ∧ ∀ (s : State) (k ctx : Nat) (c : Core), s.core? k = some c →
    let u := s.release k ctx
    (∀ n g, u.group? k n = some g ↔ c.group? n = some g ∧ g.ctx ≠ ctx)
    ∧ (∀ cc, u.cctx? k ctx = some cc → cc.resident = false ∧ cc.wings = [] ∧ cc.objs = [] ∧ cc.tokens = [] ∧ cc.dq = [] ∧ cc.vbq = 0)
    ∧ (∀ cu, u.core? k = some cu → (∀ p ∈ cu.wgs, p.2.ctx ≠ ctx) ∧ ∀ o ∈ cu.ops, o.who.ctx ≠ ctx)
    ∧ (∀ j, j ≠ k → u.core? j = s.core? j) ∧ u.ctxs = s.ctxs

/-- 23 R337 to R340: in a boundary window a request that is due is carried out, when none of an earlier kind is due; a
reset context has no group, no enabled queue and no published scene, and is no member; a missed deadline detaches. -/
def Sys2Proof.Machine.Claims.ContextRequests : Prop := ∀ (ctx : Nat) (r : ReqRegs) (d : Ctx),
  let due := fun (s : State) => s.window = .requests ∧ s.reqs[ctx]? = some r ∧ r.busy = true ∧ r.due = true
    ∧ s.ctx? ctx = some d
  let ends := fun (n : BitVec 3) (s : State) => { s with reqs := s.reqs.modify ctx fun (r : ReqRegs) =>
    { r with busy := false, due := false, missed := false, result := n } }
  (∀ s, due s → (r.req = 3 ∨ r.missed = true) → ∃ t, exec (.contextReset ctx) s = .next t
    ∧ (∃ e, t.ctx? ctx = some e ∧ e.member = false ∧ e.scenes = [] ∧ e.pool = [] ∧ e.retained = 1 ∧ e.pointer = 0)
    ∧ (∀ k < 64, ∀ n g, t.group? k n = some g → g.ctx ≠ ctx)
    ∧ (∀ q ∈ t.queues, q.ctx = ctx → q.en = false)
    ∧ ∃ q, t.reqs[ctx]? = some q ∧ q.busy = false ∧ q.result = if r.missed then 2 else 1)
  ∧ (∀ u : State, Happens (.contextSave ctx) (fun s => due s ∧ r.req = 1 ∧ r.missed = false ∧ s.earlierDue 1 = false
      ∧ s.drained ctx = true ∧ State.writeImages ctx r.savea r.savesz (s.residentOn ctx) s = (u, true)) fun s =>
    ends 1 (((s.residentOn ctx).foldl (fun s k => s.release k ctx) u).modCtx ctx fun d => { d with
      member := false, saved := true, savedOn := (s.residentOn ctx).foldl (fun (m : DWord) k => m ||| (1#64 <<< k)) 0 }))
  ∧ (∀ u : State, Happens (.contextSave ctx) (fun s => due s ∧ r.req = 1 ∧ r.missed = false ∧ s.earlierDue 1 = false
      ∧ s.drained ctx = true ∧ State.writeImages ctx r.savea r.savesz (s.residentOn ctx) s = (u, false)) fun _ =>
    ends 3 (u.modCtx ctx fun d => { d with member := false, detached := true }))
  ∧ (∀ l : List (Nat × SavedCtx),
    let dest := fun (k : Nat) => (BitVec.ofNat 6 k ^^^ r.reloc).toNat
    let wide := l.any fun p => p.2.wgs.any fun w => w.2.shape != 0
    let fits := fun (s : State) => ((r.reloc.getLsbD 0 || r.reloc.getLsbD 3) && wide) = false
      ∧ ∀ p ∈ l, s.roomFor (dest p.1) ctx p.2 = true ∧ ∃ c, s.cctx? (dest p.1) ctx = some c ∧ c.resident = false
    let own := fun (s : State) => due s ∧ r.req = 2 ∧ r.missed = false ∧ s.earlierDue 2 = false
      ∧ s.savedImages ctx r d.savedOn = .ok l
    Happens (.contextRestore ctx) (fun s => own s ∧ fits s) (fun s =>
      ends 1 ((l.foldl (fun s p => s.restoreImage (dest p.1) ctx p.2) s).modCtx ctx fun d =>
        { d with member := true, detached := false, saved := false, rejoin := true }))
    ∧ Happens (.contextRestore ctx) (fun s => own s ∧ ¬ fits s) (ends 4))
  ∧ (∀ e : Option (Nat × Nat), Happens (.contextRestore ctx) (fun s => due s ∧ r.req = 2 ∧ r.missed = false
      ∧ s.earlierDue 2 = false ∧ s.savedImages ctx r d.savedOn = .error e) fun s => ends 3 (match e with
        | some (k, a) =>
          let n := (BitVec.ofNat 6 k ^^^ r.reloc).toNat
          (s.countEcc n).appendRecord ctx { FaultRec.zero with phase := s.phase, core := n, cause := 0x1B, addr := a }
        | none => s))
  ∧ Happens (.deadlineMissed ctx) (fun s => s.reqs[ctx]? = some r ∧ s.ctx? ctx = some d ∧ r.busy = true ∧ r.missed = false
      ∧ r.dl ≤ (s.clock - r.since).toNat ∧ s.holdsBack ctx = true)
    fun s => { s.detach ctx none with reqs := (s.detach ctx none).reqs.modify ctx fun (r : ReqRegs) =>
      { r with missed := true, due := false } }

/-- 21 R313: ctsv writes the image of a context on the core and releases it there; ctld restores an image; a fault or a
bad header gives 0 and changes nothing else. What is restored is what was saved: registers and masks of groups, both
thread states of the control thread, the bytes of the allocations. 23 R337 to R340: in a boundary window a request that
is due is carried out, when none of an earlier kind is due; a reset context has no group, no enabled queue and no
published scene, and is no member; a missed deadline detaches. The model's own here: the bytes of a context image (log
6, DESIGN CHOICE), how an image is found again (log 7, DESIGN CHOICE), whose addresses an image has (log 55, DEDUCED), a
context number above 15 in ctsv and ctld (log 56, DEDUCED), what a context that has left a core leaves behind (log 57,
DESIGN CHOICE), wings and objects of control threads in an image (log 58, DEDUCED), where restored groups sit (log 59,
DEDUCED), slice of a restored context (log 66, DEDUCED), a save that fails (log 67, DEDUCED), DEADLINE of a reset
request (log 73, DEDUCED), a restore of a context that no save is known of (log 87, DEDUCED), who reports an error that
a save or a restore reads (log 124, DESIGN CHOICE). -/
def Obligations.ContextImages : Prop :=
  Claims.ContextImages ∧ Claims.ContextRequests

/-! Boundaries, stragglers and placement. -/

/-- 09 R188, R190, R191; 23 R331; 26 R368: a boundary of a device alone runs when everything has arrived, or ended: PHASE
counts, every control thread of a member starts at its label; the window opens, raises its events, each a delivery to the
control thread with cause 0x18 and detail 2 on every core of a member that asked for them, and closes, when parked groups go on. A
device of a ring sends ARRIVE first. -/
def Sys2Proof.Machine.Claims.BoundariesAdvance : Prop := ∀ s : State, s.boot = 6 →
  (s.phase.getLsbD 0 = false → s.window = .closed → s.allArrived = true → (∀ c ∈ s.cores, c.claims = []) →
    (s.ring.en = false → ∃ t, exec .cToXBoundary s = .next t ∧ t.phase = s.phase + 1 ∧ t.window = .closed
      ∧ t.straggle = some s.clock
      ∧ (∀ n d, n < 16 → t.ctx? n = some d → d.changes = [] ∧ d.sceneReqs = [])
      ∧ ∀ n ∈ s.members, ∀ k < 64, ∀ c l, s.cctx? k n = some c → c.wait = .arrived l → c.running = true →
        ∃ e, t.cctx? k n = some e ∧ e.user.flow.pc = l ∧ e.resume = c.user.flow.pc ∧ e.wait = .none)
    ∧ (s.ring.en = true → s.ring.sent = false → s.ring.released = false → s.ring.lead = false →
        exec .cToXBoundary s = .next { s with
          ring := { s.ring with sent := true }, outbox := s.outbox ++ [.ringArrive s.ring.lnode] }))
  ∧ (s.phase.getLsbD 0 = true → s.window = .closed → s.allEnded = true → s.ring.en = false →
      let t := s.openWindow
      exec .xToCBoundary s = .next t ∧ t.window = .requests ∧ t.phase = s.phase ∧ t.straggle = none
        ∧ ∀ q ∈ t.queues, q.passed = false ∧ q.avail = q.widx)
  ∧ (s.phase.getLsbD 0 = true → s.window = .requests → (∀ n < 16, s.dueReq n = none) →
      let told := fun (k n : Nat) => n ∈ s.members ∧ (∃ r, s.reqs[n]? = some r ∧ r.wev = true)
        ∧ ∃ c, s.cctx? k n = some c ∧ c.resident = true
      ∃ t, exec .xToCBoundary s = .next t ∧ t.window = .events ∧ t.phase = s.phase
        ∧ (∀ k < 64, ∀ n c, told k n → s.cctx? k n = some c →
            let d : Delivery := ⟨.userCt, 0x18, 2, c.user.flow.pc, c.user.flow.pc, 0, 0⟩
            ∃ e, t.cctx? k n = some e
              ∧ (c.handling = none → c.deliveries = [] → e.handling = some d ∧ e.deliveries = [] ∧ e.tcause = 2#16 ++ 0x18#8
                ∧ e.tsrc = BitVec.ofNat 16 (4096 * n) ∧ e.tpc = c.user.flow.pc ∧ e.taddr = 0 ∧ e.stopped = true
                ∧ e.sup.flow.pc = ⟨0, c.vec⟩ ∧ e.user = c.user)
              ∧ (c.handling.isSome = true → e.handling = c.handling ∧ e.deliveries = c.deliveries ++ [d]))
        ∧ ∀ k n, (k < 64 → ¬ told k n) → t.cctx? k n = s.cctx? k n)
  ∧ (s.phase.getLsbD 0 = true → s.window = .events → s.handlersDone = true →
      ∃ t, exec .xToCBoundary s = .next t ∧ t.window = .closed ∧ t.phase = s.phase + 1 ∧ t.straggle = none ∧ t.warned = false
        ∧ ∀ k < 64, ∀ slot g d, s.group? k slot = some g → g.ctx < 16 → s.ctx? g.ctx = some d →
            (d.detached = false ∨ d.rejoin = true) →
            ∃ h, t.group? k slot = some h ∧ h.parked = false ∧ (d.rejoin = true → h.frozen = false)
              ∧ ∀ e sp, g.split? e = some sp → h.split? e = some (match sp.wait with
                | .parv _ => if g.parked then { sp with wait := .none, flow := sp.flow.advance 8 } else sp
                | _ => sp))

/-- 09 R192: a flip exchanges the halves of a wing pair, and no other byte of the slice changes. -/
def Sys2Proof.Machine.Claims.FlipExchangesHalves : Prop := ∀ (c : Core) (w : Wing),
  (∀ i < w.size, (c.flip w).slice.read (w.base + i) = c.slice.read (w.base + w.size + i)
    ∧ (c.flip w).slice.read (w.base + w.size + i) = c.slice.read (w.base + i))
  ∧ ∀ a, a < w.base ∨ w.base + 2 * w.size ≤ a → (c.flip w).slice.read a = c.slice.read a

/-- 09 R193 to R195: binding and freeing a wing pair. 09 R192: a flip exchanges the halves of a wing pair, and no
other byte of the slice changes. -/
def Obligations.WingPairs : Prop :=
  Claims.WingPairs ∧ Claims.FlipExchangesHalves

/-- 23 R332 to R335: at PSTO1 each straggling member takes a straggler event, once; at PSTO2 it is detached, without an event
where PSTO2 is at most PSTO1. -/
def Sys2Proof.Machine.Claims.StragglersAreDetached : Prop :=
  Happens .stragglerEvent
    (fun s => s.boot = 6 ∧ s.warned = false ∧ s.psto1 < s.psto2
      ∧ (∃ n, s.straggle = some n ∧ s.psto1 ≤ (s.clock - n).toNat)
      ∧ ∃ k < 64, ∃ n ∈ s.members, s.straggles k n = true)
    (fun s => ((List.range 64).flatMap fun k => (s.members.filter fun n => s.straggles k n).map fun n => (k, n)).foldl
      (fun t p => match t.cctx? p.1 p.2 with
        | some c => t.deliver p.1 p.2 ⟨.userCt, 0x18, 1, c.user.flow.pc, c.user.flow.pc, 0, 0⟩ | none => t)
      { s with warned := true })
  ∧ Happens .stragglerDetach
    (fun s => s.boot = 6 ∧ (s.psto1 < s.psto2 → s.warned = true)
      ∧ (∃ n, s.straggle = some n ∧ s.psto2 ≤ (s.clock - n).toNat) ∧ ∃ k < 64, ∃ n ∈ s.members, s.straggles k n = true)
    (fun s => (s.members.filter fun n => (List.range 64).any fun k => s.straggles k n).foldl (fun s n => s.detach n none) s)
  ∧ ∀ s : State, s.psto2 ≤ s.psto1 → exec .stragglerEvent s = .fault (.notEnabled "STRAGGLER_EVENT")

/-- 09 R188, R190, R191; 23 R331; 26 R368: a boundary of a device alone runs when everything has arrived, or ended:
PHASE counts, every control thread of a member starts at its label; the window opens, raises its events and closes. A
device of a ring sends ARRIVE first. 23 R332 to R335: at PSTO1 each straggling member takes a straggler event, once; at
PSTO2 it is detached. The model's own here: barrier arrivals still travelling at a boundary (log 9, DEDUCED), boundaries
without a member (log 37, DESIGN CHOICE), the last stage's contributions (log 42, DEDUCED). -/
def Obligations.BoundariesAdvance : Prop :=
  Claims.BoundariesAdvance ∧ Claims.StragglersAreDetached

/-- 01 R22 and Table 1.6, 22 R325: a workgroup that is placed takes the lowest free run of its region, zeroed but for its
parameter block; each of its groups starts at entry 0 of its token with its identity in s0 to s5 and everything else zero. -/
def Sys2Proof.Machine.Claims.WorkgroupsArePlaced : Prop := ∀ (s : State) (l : Launch) (data : List Byte × List Byte)
    (k i j dx dy base : Nat) (c : Core) (cc : CoreCtx) (img : Image),
  let r := l.record
  let t := s.placeWorkgroup l data k i j dx dy
  s.memoryOk = true → s.core? k = some c → s.cctx? k l.ctx = some cc → s.codeImage k l.ctx (lrToken r) = some img →
  freeRun cc.slbase cc.sllim (lrSlice r) c.extents = some base → data.2.length ≤ lrSlice r → c.groups.length = 96 →
  lrGroups r ≤ ((List.range 96).filter fun n => (c.group? n).isNone).length →
  ∃ d w, t.core? k = some d ∧ AMap.get? d.wgs s.nextId = some w ∧ w.ctx = l.ctx ∧ w.base = base
    ∧ w.limit = base + lrSlice r ∧ w.cls = lrClass r ∧ w.slots.length = lrGroups r
    ∧ (∀ a < lrSlice r, d.slice.read (base + a) = data.2.getD a 0)
    ∧ (∀ a, a < base ∨ base + lrSlice r ≤ a → d.slice.read a = c.slice.read a)
    ∧ (∀ n g, c.group? n = some g → d.group? n = some g)
    ∧ ∀ n < lrGroups r, ∃ slot g sp, w.slots[n]? = some slot ∧ c.group? slot = none ∧ d.group? slot = some g ∧ g.gidx = n
      ∧ g.ctx = l.ctx ∧ g.wg = s.nextId ∧ g.blocks = lrVblk r ∧ g.vEmpty = 0 ∧ g.uni.sEmpty = 0
      ∧ g.uni.s = [BitVec.ofNat 64 base, BitVec.ofNat 64 (base + lrSlice r), BitVec.ofNat 64 i, BitVec.ofNat 64 n,
          BitVec.ofNat 64 (j + 16 * dx + 32 * dy), BitVec.ofNat 64 (l.seq * 64 + l.queue)] ++ List.replicate 122 0
      ∧ g.split? 0 = some sp ∧ sp.owned = LaneSet.all ∧ sp.exec = LaneSet.all ∧ sp.flow.pc = ⟨lrToken r, img.entryOff 0⟩
      ∧ sp.flow.fmt = 0 ∧ g.helper = 0 ∧ g.fflags = 0 ∧ g.gang = 0 ∧ g.uni.m = List.replicate 16 0
      ∧ g.v = List.replicate (8 * lrVblk r) (List.replicate 128 0)

/-- 22 R318, R319, Table 22.3: a record is rejected for the first reason that applies, 1 to 5 when it is examined, 6 when its
entry fails and 7 when its parameters or records cannot be read, and its queue goes on; a completion record holds the status, the
reason and the tag. -/
def Sys2Proof.Machine.Claims.LaunchRecordsAreExamined : Prop := ∀ (s : State) (ctx : Nat) (r : List Byte),
  let ks := s.coresOf ctx
  let r1 := lrNotZero r = true
  let r2 := lrWgcnt r = 0 ∨ lrWpc r = 0 ∨ 12 < lrWpc r ∨ lrWgcnt r % lrWpc r ≠ 0
  let r3 := lrVblk r = 0 ∨ 48 < lrVblk r ∨ ∀ k ∈ ks, ∀ c, s.cctx? k ctx = some c → c.vbq < lrGroups r * lrVblk r
  let r4 := lrSlice r = 0 ∨ lrSlice r % 4096 ≠ 0 ∨ lrSlice r < lrPblen r
    ∨ ∀ k ∈ ks, ∀ c, s.cctx? k ctx = some c → c.sllim - c.slbase < lrSlice r
  let r5 := ∀ b < 64, alignedBlock (lrShape r) b = true → ∃ p ∈ blockLoad r b, p.1 ∉ ks
    ∨ 96 < p.2 * lrGroups r ∨ 512 < p.2 * lrGroups r * lrVblk r ∨ 0x03C00000 < p.2 * lrSlice r
  (s.rejection ctx r = some 1 ↔ r1) ∧ (s.rejection ctx r = some 2 ↔ ¬ r1 ∧ r2) ∧ (s.rejection ctx r = some 3 ↔ ¬ r1 ∧ ¬ r2 ∧ r3)
  ∧ (s.rejection ctx r = some 4 ↔ ¬ r1 ∧ ¬ r2 ∧ ¬ r3 ∧ r4)
  ∧ (s.rejection ctx r = some 5 ↔ ¬ r1 ∧ ¬ r2 ∧ ¬ r3 ∧ ¬ r4 ∧ r5)
  ∧ (s.rejection ctx r = none ↔ ¬ r1 ∧ ¬ r2 ∧ ¬ r3 ∧ ¬ r4 ∧ ¬ r5)
  ∧ (∀ (l : Launch) (late : List (Nat × Nat × BitVec 12)),
    let fill := l.rejected = true
    let entry := ∃ b ∈ s.blocksFrom l.ctx l.record, Fit.noEntry ∈ s.blockFits late l.ctx l.record b
    let rejects := fun (u : State) (n : Nat) =>
      let w := u.completion l.ctx l.queue l.seq l.record 2 n
      (s.serveHead late l).1 = .rejected ∧ (s.serveHead late l).2.1 = { w with
        queues := w.queues.modify l.queue fun v => { v with head := none, ridx := v.ridx + 1, stat := v.stat &&& 1#2 }
        launches := w.launches.filter fun m => !(m.queue == l.queue && m.seq == l.seq) }
    (fill ∨ entry → rejects s 6)
    ∧ (¬ fill → ¬ entry → (s.serveHead late l).1 = .rejected →
        ∃ (u : State) (e : Nat × Nat), u.staged l.ctx l.record = .error e ∧ rejects (u.distributorFault l.ctx l.queue l.seq e.2 e.1) 7)
    ∧ ∀ k n, s.fit late l.ctx l.record k n = .noEntry →
        n ≠ 0 ∧ ∃ i, s.codeImage k l.ctx (lrToken l.record) = some i ∧ i.ecnt = 0)
  ∧ ∀ (q n status reason : Nat) (t : State), lrDonea r ≠ 0 →
    s.virtWrite ctx (lrDonea r) (toLE 8 (status + reason * 256) ++ toLE 8 (recField r 320 64)) = .ok t →
    s.completion ctx q n r status reason = t

/-- 01 R22 and Table 1.6, 22 R325: a workgroup that is placed takes the lowest free run of its region, zeroed but for
its parameter block; each of its groups starts at entry 0 of its token with its identity in s0 to s5 and everything else
zero. 22 R318, R319, Table 22.3: a record is rejected for the first reason that applies; a completion record holds the
status, the reason and the tag. The model's own here: reason 5 of Table 22.3 (log 61, PRESUMED), allocations where
regions overlap (log 70, DEDUCED), the order within placement (log 71, DEDUCED), entry 0 of an image without entries
(log 80, DEDUCED). -/
def Obligations.LaunchesAreExaminedAndPlaced : Prop :=
  Claims.WorkgroupsArePlaced ∧ Claims.LaunchRecordsAreExamined

/-! The world outside: the command window, the ring, the fabric, power-on. -/

/-- 22 R315, R316; 23 R329; 24 R348; 26 R365, R366, R368; Tables 22.1, 23.1, 26.2, 26.3: a register of the command
window that has been written reads back what it took. The model's own here: LSZ of a queue (log 62, DEDUCED), the
request register while BUSY (log 72, DEDUCED), bits of command-window registers that have no field (log 82, DEDUCED). -/
def Obligations.CommandWindowReadsBack : Prop := ∀ (s : State) (v : DWord), s.boot = 6 →
  let reads := fun (off : Nat) (w : DWord) => (s.hostWrite off v).register off = w
  (bits v 8 56 = 0 → 1 ≤ bits v 0 4 → bits v 0 4 ≤ 8 → reads 0x0800 v)
  ∧ (2 ^ 10 ≤ v.toNat → v.toNat ≤ 2 ^ 40 → reads 0x0908 v ∧ reads 0x0910 v ∧ (s.ring.en = false → reads 0x0988 v)
      ∧ ∀ n < 16, s.reqs.length = 16 → reads (0x0A08 + 32 * n) v)
  ∧ (v.toNat < 2 ^ 10 ∨ 2 ^ 40 < v.toNat → reads 0x0908 (BitVec.ofNat 64 s.psto1) ∧ reads 0x0910 (BitVec.ofNat 64 s.psto2))
  ∧ reads 0x0900 s.phase
  ∧ (∀ n < 4, s.ring.en = false → reads (0x09A0 + 8 * n) v)
  ∧ (∀ n < 16, s.loss.length = 16 → reads (0x0C00 + 16 * n) v)
  ∧ reads 0x0E00 (BitVec.ofNat 64 (min v.toNat s.capacity))
  ∧ (v.toNat < 256 → reads 0x0E08 v)
  ∧ (∀ n < 256, v.toNat < 2 ^ 17 → s.routes.length = 256 → reads (0x2000 + 8 * n) v)
  ∧ (∀ q < 64, ∀ w, s.queues[q]? = some w →
      (w.en = true → (v.lo - w.ridx).toNat ≤ 2 ^ w.lsz → reads (0x1008 + 32 * q) (v.lo.setWidth 64))
      ∧ (w.en = true → 2 ^ w.lsz < (v.lo - w.ridx).toNat →
          reads (0x1008 + 32 * q) ((w.ridx + BitVec.ofNat 32 (2 ^ w.lsz)).setWidth 64))
      ∧ (w.en = false → queueWordOk v = true → v.getLsbD 59 = true → s.enabledQueues (bits v 54 4) < 8 →
          reads (0x1000 + 32 * q) v ∧ (s.hostWrite (0x1000 + 32 * q) v).register (0x1010 + 32 * q) = w.widx.setWidth 64)
      ∧ (w.en = false → v.toNat < 4 → reads (0x1018 + 32 * q) v)
      ∧ (w.en = true → (s.hostWrite (0x1000 + 32 * q) v).queues = s.queues))
  ∧ ∀ k < 64, ∀ c, s.core? k = some c → c.ecc.length = 4 → ∀ j < 4, reads (0x2800 + 32 * k + 8 * j) v

/-- 22 R315, R316; 23 R329, R330; 24 R348; 26 R365, R366, R368; 27 R375; Tables 22.1, 23.1, 26.2, 26.3: what a write of the
command window changes: its register, where the value is in range and the register may be written, and nothing else. -/
def Sys2Proof.Machine.Claims.WindowWrites : Prop := ∀ (s : State) (v : DWord),
  let gives := fun (off : Nat) (t : State) => s.hostWrite off v = t
  let timed := 2 ^ 10 ≤ v.toNat ∧ v.toNat ≤ 2 ^ 40
  (∀ off, s.boot ≠ 6 → gives off s)
  ∧ (s.boot = 6 →
    (bits v 8 56 = 0 ∧ 1 ≤ bits v 0 4 ∧ bits v 0 4 ≤ 8 → gives 0x0800 { s with distributor := v.setWidth 8 })
    ∧ (¬ (bits v 8 56 = 0 ∧ 1 ≤ bits v 0 4 ∧ bits v 0 4 ≤ 8) → gives 0x0800 s)
    ∧ (timed → gives 0x0908 { s with psto1 := v.toNat } ∧ gives 0x0910 { s with psto2 := v.toNat })
    ∧ (timed → s.ring.en = false → gives 0x0988 { s with ring := { s.ring with rto := v.toNat } })
    ∧ (¬ timed → gives 0x0908 s ∧ gives 0x0910 s) ∧ (¬ timed ∨ s.ring.en = true → gives 0x0988 s)
    ∧ (bits v 18 46 = 0 → bits v 1 7 = 0 → gives 0x0980 { s with ring := { s.ring with
        lead := v.getLsbD 16, lnode := v.extractLsb' 8 8, drop := s.ring.drop && v.getLsbD 0, pending := some v } })
    ∧ (bits v 18 46 ≠ 0 ∨ bits v 1 7 ≠ 0 → gives 0x0980 s)
    ∧ (∀ i < 4, s.ring.en = true → gives (0x09A0 + 8 * i) s)
    ∧ (∀ i < 4, s.ring.en = false → ∃ m : BitVec 256, gives (0x09A0 + 8 * i) { s with ring := { s.ring with rmem := m } }
        ∧ ∀ n < 256, m.getLsbD n = if 64 * i ≤ n ∧ n < 64 * i + 64 then v.getLsbD (n - 64 * i) else s.ring.rmem.getLsbD n)
    ∧ (∀ n < 16, ∀ r, s.reqs[n]? = some r →
      let sets := fun (q : ReqRegs) (t : State) => t = { s with reqs := s.reqs.set n q }
      let asked := { r with wev := v.getLsbD 12, reloc := v.extractLsb' 2 6, req := v.extractLsb' 0 2 }
      (r.busy = false → bits v 13 51 = 0 → bits v 0 2 = 0 → sets asked (s.hostWrite (0x0A00 + 32 * n) v))
      ∧ (r.busy = false → bits v 13 51 = 0 → bits v 0 2 ≠ 0 → sets { asked with
          busy := true, result := 0, since := s.clock, missed := false, due := false } (s.hostWrite (0x0A00 + 32 * n) v))
      ∧ (r.busy = true ∨ bits v 13 51 ≠ 0 → sets r (s.hostWrite (0x0A00 + 32 * n) v))
      ∧ sets (if timed then { r with dl := v.toNat } else r) (s.hostWrite (0x0A08 + 32 * n) v)
      ∧ sets (if isVirtual v.toNat = true ∧ v.toNat % 4096 = 0 then { r with savea := v.toNat } else r)
          (s.hostWrite (0x0A10 + 32 * n) v)
      ∧ sets (if v.toNat < 2 ^ 32 ∧ v.toNat % 4096 = 0 then { r with savesz := v.toNat } else r)
          (s.hostWrite (0x0A18 + 32 * n) v))
    ∧ (∀ n < 16, gives (0x0C00 + 16 * n) { s with loss := s.loss.set n v })
    ∧ gives 0x0E00 { s with explim := min v.toNat s.capacity }
    ∧ gives 0x0E08 (if v.toNat < 256 then { s with node := v.setWidth 8 } else s)
    ∧ (∀ n < 256, gives (0x2000 + 8 * n) (if v.toNat < 2 ^ 17 then { s with routes := s.routes.set n v } else s))
    ∧ (∀ k < 64, ∀ j < 4, gives (0x2800 + 32 * k + 8 * j) (s.modCore k fun c => { c with ecc := c.ecc.set j v }))
    ∧ (∀ q < 64, ∀ w, s.queues[q]? = some w →
      let en := v.getLsbD 59 && decide (s.enabledQueues (bits v 54 4) < 8)
      let u := { w with src := v.getLsbD 58, ctx := bits v 54 4, prio := bits v 52 2, qbase := bits v 0 48, en := en
                        lsz := if bits v 48 4 = 0 then 16 else bits v 48 4 }
      (w.en = true ∨ queueWordOk v = false → gives (0x1000 + 32 * q) s)
      ∧ (w.en = false → queueWordOk v = true → gives (0x1000 + 32 * q) { s with queues := s.queues.set q (if en then { u with
          ridx := w.widx, avail := w.widx, seq := 0, head := none, passed := false, stat := w.stat &&& 1#2 } else u) })
      ∧ gives (0x1008 + 32 * q) { s with queues := s.queues.set q { w with widx :=
          if w.en = true ∧ 2 ^ w.lsz < (v.lo - w.ridx).toNat then w.ridx + BitVec.ofNat 32 (2 ^ w.lsz) else v.lo } }
      ∧ (w.en = false → v.toNat < 4 → gives (0x1018 + 32 * q) { s with queues := s.queues.set q { w with stat := v.setWidth 2 } })
      ∧ (w.en = true ∨ 4 ≤ v.toNat → gives (0x1018 + 32 * q) s) ∧ gives (0x1010 + 32 * q) s)
    ∧ ∀ off, (off < 0x0800 ∨ off = 0x0900 ∨ off = 0x0918 ∨ off = 0x0E10 ∨ (0x3000 ≤ off ∧ off < 0x10000)) → gives off s)

/-- 22 R315, R316; 23 R329; 26 R366 to R369: writes and accesses from outside: each window write is a write of its
register (LSZ code 0, writes while BUSY and bits of no field as the model reads them, logs 62, 72 and 82); the fabric's
accesses are answered, or refused; the ring's messages, an ARRIVE recorded and RELEASE sent when every member has
arrived. The model's own here: LSZ of a queue (log 62, DEDUCED), the request register while BUSY (log 72, DEDUCED),
memory of other nodes (log 76, DESIGN CHOICE), when ring registers take effect (log 78, DEDUCED), bits of command-window
registers that have no field (log 82, DEDUCED), fabric accesses to the command window (log 83, DEDUCED), which accesses
another node accepts (log 113, DESIGN CHOICE). -/
def Obligations.OutsideAccesses : Prop :=
  Claims.WindowWrites
  ∧ (∀ v : DWord,
    (∀ q < 64, v.getLsbD 59 = true → Happens (.queueEnable q v) (fun s => s.boot ≠ 0) fun s => s.hostWrite (0x1000 + 32 * q) v)
    ∧ (∀ q < 64, Happens (.widxWrite q v) (fun s => s.boot ≠ 0) fun s => s.hostWrite (0x1008 + 32 * q) v)
    ∧ Happens (.explimWrite v) (fun s => s.boot ≠ 0) (fun s => s.hostWrite 0x0E00 v)
    ∧ Happens (.ringEnableWrite v) (fun s => s.boot ≠ 0) (fun s => s.hostWrite 0x0980 v)
    ∧ ∀ off, off < 0x10000 → off % 8 = 0 → off ≠ 0x0980 → off ≠ 0x0E00 →
        (off < 0x1000 ∨ 0x1800 ≤ off ∨ (off % 32 ≠ 8 ∧ (off % 32 = 0 → v.getLsbD 59 = false))) →
        Happens (.registerWrite off v) (fun s => s.boot ≠ 0) fun s => s.hostWrite off v)
  ∧ (∀ a : FabricAccess,
    let reply := fun (ok : Bool) (data : List Byte) (s : State) => { s with outbox := s.outbox ++ [.fabricReply a.src ok data] }
    let n := if a.write then a.data.length else a.len
    let off := a.off - 0xFFFFFF0000
    (a.off + n < 0xFFFFFF0000 → a.write = true → Happens (.fabricAccess a) (fun s => s.boot ≠ 0 ∧ a.off + n ≤ s.explim)
      fun s => reply true [] { s with
        gddr := s.gddr.writeBytes a.off a.data, gddrStart := s.gddrStart.writeBytes a.off a.data
        gddrErr := s.healGddr a.off a.data.length })
    ∧ (a.off + n < 0xFFFFFF0000 → a.write = false → Happens (.fabricAccess a) (fun s => s.boot ≠ 0 ∧ a.off + n ≤ s.explim)
      fun s => reply true (s.gddr.readBytes a.off n) s)
    ∧ (a.off < 0xFFFFFF0000 → Happens (.fabricAccess a) (fun s => s.boot ≠ 0 ∧ s.explim < a.off + n) (reply false []))
    ∧ (0xFFFFFF0000 ≤ a.off → n = 8 → off % 8 = 0 → off < 0x10000 →
        (a.write = false → Happens (.fabricAccess a) (fun s => s.boot ≠ 0) fun s => reply true (toLE 8 (s.register off).toNat) s)
        ∧ (a.write = true → Happens (.fabricAccess a) (fun s => s.boot ≠ 0) fun s =>
            reply true [] (s.hostWrite off (BitVec.ofNat 64 (ofLE a.data))))))
  ∧ (∀ node : BitVec 8,
      let arrived := fun (s : State) => s.ring.arrived ||| (1#256 <<< node.toNat)
      let all := fun (s : State) => ∀ n < 256, s.ring.rmem.getLsbD n = true → (arrived s).getLsbD n = true
      let comes := fun (s : State) => s.boot = 6 ∧ s.ring.lead = true ∧ s.ring.rmem.getLsbD node.toNat = true
      Happens (.ringArrive node) (fun s => comes s ∧ ¬ all s) (fun s => { s with
        ring := { s.ring with arrived := arrived s, since := some (s.ring.since.getD s.clock) } })
      ∧ Happens (.ringArrive node) (fun s => comes s ∧ all s) fun s => { s with
        outbox := s.outbox ++ ((List.range 256).filter fun n => s.ring.rmem.getLsbD n && n != s.node.toNat).map fun n =>
          .ringRelease (BitVec.ofNat 8 n)
        ring := { s.ring with arrived := 0, since := none, released := s.ring.released || s.ring.rmem.getLsbD s.node.toNat } })
  ∧ Happens .ringRelease (fun s => s.boot = 6 ∧ s.ring.en = true ∧ s.ring.sent = true ∧ s.ring.released = false)
      (fun s => { s with ring := { s.ring with released := true } })
  ∧ Happens .ringDrop (fun s => s.boot = 6)
      (fun s => { s with ring := { s.ring with drop := true, en := false, sent := false, released := false, pending := none } })
  ∧ ∀ s : State, s.boot = 6 → s.ring.lead = true →
      (∃ c, s.ring.since = some c ∧ s.ring.rto ≤ (s.clock - c).toNat) → s.ring.arrived.getLsbD s.node.toNat = true →
      ∃ t, exec .ringTimeout s = .next t ∧ t.ring.rmem = s.ring.rmem &&& s.ring.arrived ∧ t.ring.arrived = 0
        ∧ ∀ n < 256, s.ring.rmem.getLsbD n = true → n ≠ s.node.toNat →
          (if s.ring.arrived.getLsbD n then Message.ringRelease (BitVec.ofNat 8 n) else .ringDrop (BitVec.ofNat 8 n)) ∈ t.outbox

/-- 27 R371 to R375: the step of power-on that fails is the first whose condition does not hold: the boot ROM; the version, key
and signature of the three images; the configuration; what the self-test leaves on; the rest. What the steps before it have done
stays: the measurements, the units that are off, the lantern memory, the log. -/
def Sys2Proof.Machine.Claims.PowerOnSteps : Prop := ∀ (s : State) (b : BootInputs),
  let off := b.cfgCoresOff ||| b.testCoresOff ||| b.testSlicesOff
  let on : BitVec 16 := ~~~(b.cfgStationsOff ||| b.testStationsOff)
  let f1 := b.romOk = false
  let f2 := ∃ i ∈ [b.management, b.core, b.config], i.version ≠ 1 ∨ keyDigestOf i ≠ b.keyDigest
    ∨ P521.verify (Sha512.digest i.bytes) i.keyX i.keyY i.sigR i.sigS = false
  let f3 := b.configOk = false
  let f4 := 32 < ((List.range 64).filter fun k => off.getLsbD k).length ∨ on = 0 ∨ b.linksFailed ≠ 0
  let f5 := b.finishOk = false
  let ends := fun (n : Nat) (p : State → Prop) => ∃ t, exec (.powerOnReset b) s = .next t ∧ t.boot = n ∧ t.phase = 0 ∧ t.clock = 0
    ∧ t.deposits = [] ∧ t.launches = [] ∧ t.gddr = s.gddr ∧ t.certificate = b.certificate ∧ p t
  let failed := fun (n : Nat) (t : State) => t.bootFail = n ∧ t.iss? t.cur = none
  let measured := fun (t : State) => t.publicKey = P521.publicKey Config.identityKey
    ∧ t.measured = Sha512.digest b.management.bytes ++ Sha512.digest b.core.bytes ++ Sha512.digest b.config.bytes
  let tested := fun (t : State) => measured t ∧ t.lsize = b.lsizeGiB ∧ t.stations = on ∧ t.testLog = selfTestLog b
    ∧ ∀ k < 64, ∃ c, t.core? k = some c ∧ c.on = !off.getLsbD k ∧ c.groups = List.replicate 96 none
  (f1 → ends 1 (failed 1)) ∧ (¬ f1 → f2 → ends 2 fun t => failed 2 t ∧ measured t)
  ∧ (¬ f1 → ¬ f2 → f3 → ends 3 fun t => failed 3 t ∧ measured t)
  ∧ (¬ f1 → ¬ f2 → ¬ f3 → f4 → ends 4 fun t => failed 4 t ∧ tested t)
  ∧ (¬ f1 → ¬ f2 → ¬ f3 → ¬ f4 → f5 → ends 5 fun t => failed 5 t ∧ tested t)
  ∧ (¬ f1 → ¬ f2 → ¬ f3 → ¬ f4 → ¬ f5 → ends 6 fun t => t.bootFail = 0 ∧ tested t
    ∧ (∀ p < 16, bits t.portWidth (4 * p) 4 = (let n := min (bits b.portWidth (4 * p) 4) (bits b.cfgPortLimit (4 * p) 4)
        if 8 ≤ n then 8 else if 4 ≤ n then 4 else if 2 ≤ n then 2 else 0))
    ∧ ∀ k < 64, ∀ n < 16, ∃ cc, t.cctx? k n = some cc ∧ cc.vec = BitVec.ofNat 32 b.vec ∧ cc.resident = false)

/-- 27 R377, 22 R323: an attestation report carries the measurements, the nonce, the self-test log and their signature with the
device's identity key, r and then s; a supply droop is noted. -/
def Sys2Proof.Machine.Claims.ReportsAndDroops : Prop :=
  (∀ nonce : List Byte, nonce.length = 64 → Happens (.attestationRequest nonce) (fun s => s.boot ≠ 0 ∧ s.bootFail ≠ 1)
    fun s =>
      let sig := P521.sign (Sha512.digest (s.measured ++ nonce ++ s.testLog)) Config.identityKey (Config.signNonce s.ticks)
      let bigEndian := fun (n : Nat) => (List.range 66).map fun i => BitVec.ofNat 8 (n / 256 ^ (65 - i))
      { s with outbox := s.outbox ++ [.attestation s.measured nonce s.testLog (bigEndian sig.1 ++ bigEndian sig.2)] })
  ∧ ∀ k < 64, Happens (.supplyDroopEvent k) (fun s => s.boot = 6) fun s => s.modCore k fun c =>
    { c with droops := (c.droops.filter fun d => decide ((s.clock - d).toNat < 2 ^ 20)) ++ [s.clock] }

/-- 27 R371 to R377, 22 R323: power-on ends in step 6 with the units that are on, or in the safe talkative state at the
step that fails, with what the steps before it have done (what BOOT shows there is the model's reading, log 74);
attestation; supply droops. The model's own here: registers for which the spec states no reset value (log 3, DESIGN
CHOICE), SHA-512 (log 10, PRESUMED), what power-on finds when nothing says it (log 63, DESIGN CHOICE), BOOT in the safe
talkative state (log 74, DEDUCED), the identity key and the secret numbers of its signatures (log 77, DESIGN CHOICE),
P-521 signatures (log 99, PRESUMED). -/
def Obligations.PowerOn : Prop :=
  Claims.PowerOnSteps ∧ Claims.ReportsAndDroops

/-! The whole machine: encodings, the checks of every instruction, fetching, invariants. -/

namespace Sys2Proof

/-- OPC of an instruction. -/
def Raw.opc : Raw → Nat
  | .op n _ => n
  | .i64 n _ => n
  | .b64 n _ => n
  | .m64 n _ => n
  | .pad => 0

/-- Phase class by opcode (02 Table 2.14). -/
def Raw.phaseClass (r : Raw) : PhaseClass :=
  let n := r.opc
  match n / 16 with
  | 0x0 => .A
  | 0x1 => .A
  | 0x2 => if 0x24 ≤ n ∧ n ≤ 0x26 then .C else .A
  | 0x9 => if n = 0x98 then .A else .C
  | 0xA => if n = 0xA0 then .C else if n = 0xA7 then .A else .X
  | 0xE => if n = 0xE1 ∨ n = 0xE5 ∨ n = 0xE6 then .A else .C
  | 0xF => .A
  | _ => .C

/-- Thread class by opcode (02 Table 2.14; 15: rast and rpak are G entries). -/
def Raw.threadClass (r : Raw) : ThreadClass :=
  let n := r.opc
  match n / 16 with
  | 0x0 => match r with
    | .op _ o => if n = 0x0D then (if o.fn.getLsbD 0 then .group else .ct) else .any
    | _ => .any
  | 0x1 => .any
  | 0x2 => if 0x24 ≤ n ∧ n ≤ 0x26 then .group else .any
  | 0x9 => if n = 0x92 then .group else .any
  | 0xA => if n = 0xA0 ∨ n = 0xA7 then .any else .ct
  | 0xC => if n = 0xC8 then .ct else .any
  | 0xD => if n = 0xD2 ∨ n = 0xD3 then .group else if 0xD6 ≤ n then .ct else .any
  | 0xE => if n = 0xE3 ∨ n = 0xE4 then .group else if n = 0xE6 then .ct else .any
  | 0xF => .super
  | _ => .group

end Sys2Proof

/-- 02 R25, R26, R43 to R45, Tables 2.3 to 2.8, 2.13: the decoder reads back every well-formed instruction from its words,
at every offset of a fetch block at which it fits, whatever words follow; and what it reads is well formed and encodes to
the words it was read from. -/
def Obligations.DecodeInvertsEncode : Prop :=
  (∀ (i : Instr) (ws rest : List Word) (off : Nat), i.wf = true → i ≠ .shortPad → encode i = some ws →
    off % 4 = 0 → off + 4 * ws.length ≤ 32 → decode off (ws ++ rest) = .ok i)
  ∧ (∀ rest : List Word, encode .shortPad = some [0#32] ∧ decode 0x1C (0#32 :: rest) = .ok .shortPad)
  ∧ ∀ (i : Instr) (ws : List Word) (off : Nat), decode off ws = .ok i →
      i.wf = true ∧ ∃ u rest, encode i = some u ∧ ws = u ++ rest ∧ off + 4 * u.length ≤ 32

/-- 02 Tables 2.3 to 2.8, 2.13: a few instructions, their words written out from the tables. -/
def Obligations.WordsDecode : Prop :=
  decode 0 [0x00000000#32, 0x00000000#32] = .ok (.nop ⟨⟨false, 0⟩, 0, 0, ⟨false, 0⟩, ⟨false, 0⟩, ⟨false, 0⟩, false, false, .none⟩)
  ∧ decode 0 [0x000200C0#32, 0x00001604#32]
      = .ok (.iadd ⟨⟨false, 0⟩, 0, 4, ⟨true, 4⟩, ⟨false, 5⟩, ⟨false, 0⟩, false, false, .none⟩)
  ∧ decode 4 [0x80C08041#32, 0x00000182#32, 0x00000005#32]
      = .ok (.sadd ⟨⟨false, 0⟩, 0x80, 385, ⟨false, 386⟩, ⟨false, 0⟩, ⟨false, 0⟩, false, false, .w2 5⟩)
  ∧ decode 8 [0x00000C04#32, 0x0004FFFE#32] = .ok (.bra ⟨⟨false, 3⟩, 0, 0, 0xFFFE, 4⟩)
  ∧ decode 0 [0x040401C0#32, 0x0021FF86#32] = .ok (.ld ⟨⟨false, 0⟩, 4, 8, 6, 0x3FF, 16⟩)
  ∧ decode 24 [0x00C003C4#32, 0x00000C00#32] = .ok (.csrd ⟨⟨false, 0⟩, 0, 384, ⟨false, 0⟩, 3⟩)
  ∧ decode 0 [0x000003C0#32, 0x00000000#32]
      = .ok (.tret ⟨⟨false, 0⟩, 0, 0, ⟨false, 0⟩, ⟨false, 0⟩, ⟨false, 0⟩, false, false, .none⟩)
  ∧ decode 0 [0x00000003#32, 0x00000000#32] = .error .lenReserved
  ∧ decode 28 [0x000200C0#32, 0x00001604#32] = .error .crossesBlock
  ∧ decode 0 [0x000000A4#32, 0x00000000#32] = .error .unassigned
  ∧ decode 0 [0x00000100#32, 0x00000000#32] = .ok (.fadd ⟨⟨false, 0⟩, 0, 0, ⟨false, 0⟩, ⟨false, 0⟩, ⟨false, 0⟩, false, false, .none⟩)
  ∧ decode 0 [0x000000C0#32, 0x40000000#32] = .error .badFields

/-- 02 R44, R46, Tables 2.14 and 2.16; 00 R7: which threads and phases an instruction is for, and the traps 0x17, 0x02,
0x05 and 0x03 elsewhere, in that order, with every active lane in the record. The model's own here: who may execute rast
and rpak (log 48, DEDUCED). -/
def Obligations.ClassesOfInstructions : Prop := ∀ (i : Instr) (r : Raw) (s : State) (x : Iss),
  i.wf = true → i.raw = some r → s.iss? s.cur = some x →
  (r.threadClass = .super → x.sup = false → exec i s = trapR x s 0x17)
  ∧ (r.threadClass = .group → x.isCt = true → exec i s = trapR x s 0x02)
  ∧ (r.threadClass = .ct → x.isCt = false → exec i s = trapR x s 0x05)
  ∧ ((r.threadClass = .super → x.sup = true) → (r.threadClass = .group → x.isCt = false) →
      (r.threadClass = .ct → x.isCt = true ∧ x.sup = false) → r.threadClass ≠ .any →
      r.phaseClass.admits s.phase = false → exec i s = trapR x s 0x03)
  ∧ (r.threadClass = .any → x.sup = false → r.phaseClass.admits s.phase = false → exec i s = trapR x s 0x03)

/-- 02 R46 steps 4 to 7, R387; 03 R53, R54; 24 R343, R349: once the checks of thread, phase and operands are passed, an
instruction that selects no lane is skipped, unless its entry gives it an effect then, an empty source with FE = 1
traps, any other empty register makes it wait, and otherwise it has its own effect, unless a source that it reads is in
error beyond correction, which traps, but for an instruction that looks for errors itself; that a joint instruction
which selects no lane has its effect is the model's reading (log 86); an operand that R33 forbids traps. The model's own
here: empty source registers with FE (log 19, DEDUCED), where and when memory errors happen (log 31, DESIGN CHOICE),
joint instructions by a split whose %exec is empty (log 86, DEDUCED). -/
def Obligations.RegistersAreWaitedFor : Prop := ∀ (r : Req) (len : Nat) (s : State) (x : Iss) (eff : Iss → Res),
  s.iss? s.cur = some x →
  let y := { x with sel := guardSel r.g x.uni x.exec }
  (∀ c, r.check x s.phase = some c → issue r len s eff = trapR x s c x.exec)
  ∧ (r.check x s.phase = none → r.always = false → r.joint = false → y.sel = 0 → issue r len s eff = .next (s.advance y len))
  ∧ (r.check x s.phase = none → r.always = true → r.joint = false → y.sel = 0 → issue r len s eff = eff y)
  ∧ (r.check x s.phase = none → y.sel ≠ 0 ∨ r.joint = true →
      ((∃ o ∈ r.reads, o.fe = true ∧ x.empty o.reg = true) → issue r len s eff = trapR y s 0x06)
      ∧ ((∀ o ∈ r.reads, o.fe = true → x.empty o.reg = false) → (∃ o ∈ r.reads ++ r.writes, x.empty o.reg = true) →
          issue r len s eff = .next s)
      ∧ ((∀ o ∈ r.reads ++ r.writes, x.empty o.reg = false) →
          let lanes := if r.whole then LaneSet.all else y.sel
          (r.own = true ∨ (∀ o ∈ r.reads, y.inError lanes o.reg = 0) → issue r len s eff = eff y)
          ∧ ∀ l o rest, r.own = false → r.reads = l ++ o :: rest → (∀ p ∈ l, y.inError lanes p.reg = 0) → y.inError lanes o.reg ≠ 0 →
            issue r len s eff = .next ((s.countEcc x.core).raise y
              { cause := 0x1B, flanes := y.inError lanes o.reg, taddr := o.reg.toNat
                detail := if 384 ≤ o.reg.toNat then 768 else 512 })))
  ∧ (r.check x s.phase = none → (∀ o ∈ r.reads ++ r.writes,
        if 384 ≤ o.reg.toNat then o.kind ≠ .v else o.kind ≠ .s ∧ x.isCt = false ∧ o.reg.toNat < 8 * x.blocks))

/-- A state without its clocks, the count of stragglers and the clocks since which splits have been ready. -/
def Sys2Proof.Machine.State.unwatched (s : State) : State :=
  let split := fun (sp : Split) => { sp with since := none }
  let group := fun (g : Group) => { g with splits := g.splits.map fun sp => sp.map split }
  { s with clock := 0, ticks := 0, straggle := none
           cores := s.cores.map fun c => { c with groups := c.groups.map fun g => g.map group } }

/-- 17 R277, R280; 21 R302; 02 R46: a step that looks at a thread executes the instruction that its next words decode
to; words that are no instruction trap, and so do words in error beyond correction; a token that is not resident is
waited for, or traps; that a split behind whose back its claim has ended goes on is the model's reading (log 97); a
thread that another of its place comes before does not issue (22 R326); where accesses of the core are still to be
performed, or its own is to be late, the instruction runs in their order. An event of the agenda is its own step.
Nothing else happens but the passing of clocks, the start of the count of stragglers, and the noting of who has issued,
who is ready since when, and of a dq.pop that waits. The model's own here: which agent moves next, and how long
everything takes (log 4, DESIGN CHOICE), when memory is read and written (log 5, DESIGN CHOICE), the free values of
Config (log 17, DESIGN CHOICE), firmware beyond its store (log 94, DEDUCED), a detached context's place in queues and
latches (log 97, DEDUCED), the order of two instructions that a partition issues in one clock (log 123, DEDUCED), which
registers of a supervisor state an instruction reads (log 138, DEDUCED). -/
def Obligations.StepRunsDecoded : Prop := ∀ (s : State) (r : List Action),
  let s0 := { s with agenda := r }
  (∀ (t : Thread) (x : Iss),
    let s1 := { s with agenda := r, cur := t }
    let goes := fun (o : Host.Outcome State Fault Refusal) => step s = ended (match o with
      | .next u => .next (s0.taken (s0.startOrder u x) t x)
      | o => o)
    s.agenda = .issue t :: r → s0.mayIssue t = true → s1.iss? t = some x → s0.quiet x.core = true →
    (x.claimed = true → goes (.next (s1.advance x 8)))
    ∧ (x.claimed = false →
    let off := x.pc.off.toNat
    let marked := fun (s2 : State) (p : SupReg → Bool) =>
      x.sup && match s2.cctx? x.core x.ctx with | some c => c.supErr.any p | none => false
    let tells := fun (s2 : State) (bad : List Nat) (ws : List Word) =>
      let hit := fun (i : Nat) => off ≤ i ∧ i < off + wordsLen off ws ∧ i / 8 ∈ bad
      ((∀ i, ¬ hit i) →
        (∀ i, decode (off % 32) ws = .ok i →
          (marked s2 (supReads (ws.headD 0) i) = false → goes (healSup x (ws.headD 0) i (exec i s2)))
          ∧ (marked s2 (supReads (ws.headD 0) i) = true → goes (.next ((s2.countEcc x.core).raise x
              { cause := 0x1B, flanes := x.sel, detail := 1280 }))))
        ∧ ∀ e, decode (off % 32) ws = .error e → goes (trapR x s2
            (if e.stepOne = false ∧ x.sup = false ∧ bits (ws.headD 0) 6 4 = 15 then 0x17 else 0x01)))
      ∧ ∀ i, hit i → (∀ j, j < i → ¬ hit j) → goes (.next ((s2.countEcc x.core).raise x
          { cause := 0x1B, flanes := x.sel, taddr := i, detail := 1024 }))
    (x.sup = true → ∀ c, s1.core? x.core = some c →
      if marked s1 SupReg.always then goes (.next ((s1.countEcc x.core).raise x { cause := 0x1B, flanes := x.sel, detail := 1280 }))
      else tells s1 c.fwErr (firmwareWords c.firmware off))
    ∧ (x.sup = false →
        (∀ s2 m, s1.resolve x x.pc.token true = .code s2 m → tells s2 m.bad (m.codeWords off))
        ∧ (∀ s2, s1.resolve x x.pc.token true = .wait s2 → goes (.next s2))
        ∧ ∀ s2 c, s1.resolve x x.pc.token true = .trap s2 c → goes (trapR x s2 c))))
  ∧ (∀ (t : Thread) (x : Iss) (late : Bool),
    let s1 := { s with agenda := r, cur := t }
    let goes := fun (o : Host.Outcome State Fault Refusal) => step s = ended (match o with
      | .next u => .next (s0.taken u t x)
      | o => o)
    s.agenda = (if late then .late t else .issue t) :: r → s0.mayIssue t = true → s1.iss? t = some x → x.claimed = false →
    (late = true ∨ s0.quiet x.core = false) →
    (∀ i ws, s1.peek x = some (i, ws) → goes (s1.runInOrder t x i late)) ∧ (s1.peek x = none → goes (s1.runIss x)))
  ∧ (∀ (t : Thread) (late : Bool), s.agenda = (if late then .late t else .issue t) :: r → s0.mayIssue t = false →
      step s = .next s0.after)
  ∧ (∀ (e : Instr) (t : State), s.agenda = .event e :: r → e.raw = none → (∀ k < 64, s0.quiet k = true) →
      exec e s0 = .next t → step s = .next t.after)
  ∧ ∀ t : State, t.after.clock = t.clock + BitVec.ofNat 64 (Config.stepClocks t.ticks) ∧ t.after.ticks = t.ticks + 1
      ∧ t.after.unwatched = t.unwatched

/-- 09 R190, R191, 23 R329, 26 R366: an instruction of a thread, of whichever chapter (03 to 09, 11, 13, 15, 17, 21, 22), changes none of `State.fixed`: PHASE, the registers of the phase controller, the distributor, the ring and the fabric, the boundary window, the boot state, the requests on contexts, the clock. Only events change them: cores do not reach their own command window. -/
def Obligations.InstructionsLeaveTheDeviceAlone : Prop := ∀ (i : Instr) (s t : State),
  i.raw ≠ none → exec i s = .next t → t.fixed = s.fixed

/-- 27 R371, 03 R70, 13 R237, R250, 15 R257, 22 R316: what reset leaves: PHASE and the clock are 0, no thread can issue,
no workgroup is resident, no context is a member, the pools and scenes are as after a pool reset, no launch queue is
enabled. The model's own here: registers for which the spec states no reset value (log 3, DESIGN CHOICE). -/
def Obligations.ResetState : Prop :=
  let s := State.reset
  s.phase = 0 ∧ s.clock = 0 ∧ s.boot = 0 ∧ (∀ t, s.iss? t = none) ∧ s.cores.length = 64 ∧ s.ctxs.length = 16
  ∧ (∀ k < 64, ∃ c, s.core? k = some c ∧ c.groups = List.replicate 96 none ∧ c.wgs = [] ∧ c.mat.owner = none
      ∧ c.cctx.length = 16 ∧ ∀ n < 16, ∃ cc, c.cctx? n = some cc ∧ cc.resident = false ∧ cc.handling = none
        ∧ cc.deliveries = [] ∧ cc.dq = [] ∧ cc.wings = [] ∧ cc.objs = [] ∧ cc.tokens = [])
  ∧ (∀ n < 16, ∃ d, s.ctx? n = some d ∧ d.member = false ∧ d.detached = false ∧ d.nf = List.replicate 32 0
      ∧ d.openTag = some 0 ∧ d.rho = 0 ∧ d.scenes = [])
  ∧ ∀ q ∈ s.queues, q.en = false

/-- Every byte memory of the reset state is canonical, its registers are in range, and no window is open. The model's
own here: what a byte of memory that nothing has written reads as (log 2, DESIGN CHOICE), registers for which the spec
states no reset value (log 3, DESIGN CHOICE). -/
def Obligations.ResetInvariant : Prop :=
  State.reset.memoryOk = true ∧ State.reset.registersOk = true ∧ State.reset.windowOk = true

/-- 22 R323, 23 Table 23.1, 26 Table 26.3, 09 R191: every step keeps every byte memory canonical; keeps the registers of
the phase controller, the distributor and the ring in range; and a boundary window is open in exchange supersteps only.
The model's own here: what a byte of memory that nothing has written reads as (log 2, DESIGN CHOICE). -/
def Obligations.StepKeepsInvariant : Prop := ∀ s t : State, step s = .next t →
  (s.memoryOk = true → t.memoryOk = true) ∧ (s.registersOk = true → t.registersOk = true)
  ∧ (s.windowOk = true → t.windowOk = true)
end

