-- ==== Sys2Proof/Laws/Memory.lean ====
section
/-! SUPPORT. Laws of byte memories: what a read gives after a write, and that every operation keeps the canonical form. -/
namespace Sys2Proof.Machine

/-! The canonical form as a predicate on the list. -/

theorem Memory.wfFrom_cons {low a : Nat} {b : Byte} {m : Memory} :
    Memory.wfFrom low ((a, b) :: m) = true ↔ low ≤ a ∧ b ≠ unlistedByte ∧ Memory.wfFrom (a + 1) m = true := by
  simp [Memory.wfFrom, and_assoc]

theorem Memory.wfFrom_mono {low high : Nat} {m : Memory} (h : low ≤ high) (hm : Memory.wfFrom high m = true) :
    Memory.wfFrom low m = true := by
  cases m with
  | nil => rfl
  | cons c m => obtain ⟨a, b⟩ := c; rw [Memory.wfFrom_cons] at *; exact ⟨by omega, hm.2⟩

/-- Addresses strictly rising, and no listed byte is the unlisted one. -/
theorem Memory.wfFrom_iff {low : Nat} {m : Memory} :
    Memory.wfFrom low m = true ↔
      m.Pairwise (fun p q => p.1 < q.1) ∧ ∀ p ∈ m, low ≤ p.1 ∧ p.2 ≠ unlistedByte := by
  induction m generalizing low with
  | nil => simp [Memory.wfFrom]
  | cons c m ih =>
    obtain ⟨a, b⟩ := c
    rw [Memory.wfFrom_cons, ih]
    simp only [List.pairwise_cons, List.mem_cons, forall_eq_or_imp]
    constructor
    · rintro ⟨h1, h2, h3, h4⟩
      exact ⟨⟨fun p hp => (h4 p hp).1, h3⟩, ⟨h1, h2⟩, fun p hp => ⟨by have := (h4 p hp).1; omega, (h4 p hp).2⟩⟩
    · rintro ⟨⟨h1, h2⟩, ⟨h3, h4⟩, h5⟩
      exact ⟨h3, h4, h2, fun p hp => ⟨h1 p hp, (h5 p hp).2⟩⟩

theorem Memory.wf_iff {m : Memory} :
    m.wf = true ↔ m.Pairwise (fun p q => p.1 < q.1) ∧ ∀ p ∈ m, p.2 ≠ unlistedByte := by
  simp [Memory.wf, Memory.wfFrom_iff]

@[simp] theorem Memory.wf_nil : Memory.wf [] = true := rfl

/-! Reading. -/

theorem Memory.read_below {low a : Nat} {m : Memory} (hm : Memory.wfFrom low m = true) (h : a < low) :
    Memory.read m a = unlistedByte := by
  induction m generalizing low with
  | nil => rfl
  | cons c m ih =>
    obtain ⟨k, v⟩ := c
    rw [Memory.wfFrom_cons] at hm
    rw [Memory.read, if_neg (by omega)]
    exact ih hm.2.2 (by omega)

/-! Writing one byte. -/

theorem Memory.wfFrom_write {low a : Nat} {b : Byte} {m : Memory} (hm : Memory.wfFrom low m = true) (h : low ≤ a) :
    Memory.wfFrom low (Memory.write m a b) = true := by
  induction m generalizing low with
  | nil => unfold Memory.write; split <;> simp_all [Memory.wfFrom]
  | cons c m ih =>
    obtain ⟨k, v⟩ := c
    rw [Memory.wfFrom_cons] at hm
    obtain ⟨h1, h2, h3⟩ := hm
    unfold Memory.write
    split
    · rw [Memory.wfFrom_cons]; exact ⟨h1, h2, ih h3 (by omega)⟩
    · split
      · subst_vars
        split
        · exact Memory.wfFrom_mono (by omega) h3
        · rw [Memory.wfFrom_cons]; exact ⟨h, by assumption, h3⟩
      · split
        · rw [Memory.wfFrom_cons]; exact ⟨h1, h2, h3⟩
        · rw [Memory.wfFrom_cons, Memory.wfFrom_cons]; exact ⟨h, by assumption, by omega, h2, h3⟩

theorem Memory.wf_write {m : Memory} (hm : m.wf = true) (a : Nat) (b : Byte) : (m.write a b).wf = true :=
  Memory.wfFrom_write hm (Nat.zero_le a)

/-- A read after a write of the same byte. -/
theorem Memory.read_write_same {low : Nat} {m : Memory} (hm : Memory.wfFrom low m = true) (a : Nat) (b : Byte) :
    Memory.read (Memory.write m a b) a = b := by
  induction m generalizing low with
  | nil => unfold Memory.write; split <;> simp_all [Memory.read]
  | cons c m ih =>
    obtain ⟨k, v⟩ := c
    rw [Memory.wfFrom_cons] at hm
    obtain ⟨h1, h2, h3⟩ := hm
    unfold Memory.write
    split
    · rw [Memory.read, if_neg (by omega)]; exact ih h3
    · split
      · subst_vars
        split
        · subst_vars; exact Memory.read_below h3 (by omega)
        · simp [Memory.read]
      · split
        · subst_vars
          rw [Memory.read, if_neg (by omega)]; exact Memory.read_below h3 (by omega)
        · simp [Memory.read]

/-- A write leaves every other byte as it was. -/
theorem Memory.read_write_other (m : Memory) {a c : Nat} (b : Byte) (h : c ≠ a) :
    Memory.read (Memory.write m a b) c = Memory.read m c := by
  induction m with
  | nil => unfold Memory.write; split <;> simp [Memory.read]; omega
  | cons p m ih =>
    obtain ⟨k, v⟩ := p
    unfold Memory.write
    split
    · simp only [Memory.read]; split
      · rfl
      · exact ih
    · split
      · subst_vars
        split
        · simp only [Memory.read]; rw [if_neg (by omega)]
        · simp only [Memory.read]; rw [if_neg (by omega), if_neg (by omega)]
      · split
        · rfl
        · simp only [Memory.read]; rw [if_neg (by omega)]

/-! Writing many. -/

theorem Memory.wf_writeBytes {m : Memory} (hm : m.wf = true) (a : Nat) (bs : List Byte) :
    (m.writeBytes a bs).wf = true := by
  induction bs generalizing m a with
  | nil => exact hm
  | cons b bs ih => exact ih (Memory.wf_write hm a b) (a + 1)

theorem Memory.wf_writeAll {m : Memory} (hm : m.wf = true) (l : List (Nat × Byte)) : (m.writeAll l).wf = true := by
  induction l generalizing m with
  | nil => exact hm
  | cons p l ih => obtain ⟨a, b⟩ := p; exact ih (Memory.wf_write hm a b)

/-- Bytes outside the stored extent are as they were. -/
theorem Memory.read_writeBytes_other (m : Memory) (a c : Nat) (bs : List Byte) (h : c < a ∨ a + bs.length ≤ c) :
    Memory.read (m.writeBytes a bs) c = Memory.read m c := by
  induction bs generalizing m a with
  | nil => rfl
  | cons b bs ih =>
    simp only [List.length_cons] at h
    rw [Memory.writeBytes, ih _ _ (by omega), Memory.read_write_other _ _ (by omega)]

/-- Bytes inside the stored extent are those stored. -/
theorem Memory.read_writeBytes_same {m : Memory} (hm : m.wf = true) (a i : Nat) (bs : List Byte) (h : i < bs.length) :
    Memory.read (m.writeBytes a bs) (a + i) = bs[i] := by
  induction bs generalizing m a i with
  | nil => simp at h
  | cons b bs ih =>
    rw [Memory.writeBytes]
    cases i with
    | zero =>
      rw [Nat.add_zero, Memory.read_writeBytes_other _ _ _ _ (by omega)]
      exact Memory.read_write_same hm a b
    | succ i =>
      have := ih (m := m.write a b) (Memory.wf_write hm a b) (a + 1) i (by simpa using h)
      rw [show a + (i + 1) = a + 1 + i by omega, this]; rfl

/-! Blocks. -/

theorem Memory.wf_filter {m : Memory} (hm : m.wf = true) (p : Host.Cell → Bool) : Memory.wf (m.filter p) = true := by
  rw [Memory.wf_iff] at *
  exact ⟨hm.1.filter _, fun q hq => hm.2 q (List.mem_of_mem_filter hq)⟩

theorem Memory.wf_map_addr {m : Memory} (hm : m.wf = true) (f : Nat → Nat) (q : Nat → Prop)
    (hf : ∀ a b, q a → q b → a < b → f a < f b) (hq : ∀ c ∈ m, q c.1) :
    Memory.wf (m.map fun c => (f c.1, c.2)) = true := by
  rw [Memory.wf_iff] at *
  refine ⟨?_, ?_⟩
  · rw [List.pairwise_map]
    exact hm.1.imp_of_mem fun {a b} ha hb h => hf a.1 b.1 (hq a ha) (hq b hb) h
  · intro c hc
    obtain ⟨d, hd, rfl⟩ := List.mem_map.1 hc
    exact hm.2 d hd

theorem Memory.wf_extract {m : Memory} (hm : m.wf = true) (a n : Nat) : (m.extract a n).wf = true :=
  Memory.wf_map_addr (Memory.wf_filter hm _) (fun x => x - a) (fun x => a ≤ x) (fun x y hx _ h => by omega)
    (fun c hc => by have := List.of_mem_filter hc; simp at this; exact this.1)

theorem Memory.wf_append {m n : Memory} (hm : m.wf = true) (hn : n.wf = true) (h : ∀ p ∈ m, ∀ q ∈ n, p.1 < q.1) :
    Memory.wf (m ++ n) = true := by
  rw [Memory.wf_iff] at *
  refine ⟨List.pairwise_append.2 ⟨hm.1, hn.1, h⟩, ?_⟩
  intro p hp
  rcases List.mem_append.1 hp with hp | hp
  · exact hm.2 p hp
  · exact hn.2 p hp

theorem Memory.wf_blit {m cells : Memory} (hm : m.wf = true) (hc : cells.wf = true) (a n : Nat) :
    (m.blit a n cells).wf = true := by
  unfold Memory.blit
  refine Memory.wf_append (Memory.wf_append (Memory.wf_filter hm _)
    (Memory.wf_map_addr (Memory.wf_filter hc _) (fun x => a + x) (fun _ => True) (fun _ _ _ _ h => by omega)
      (fun _ _ => trivial)) ?_) (Memory.wf_filter hm _) ?_
  · intro p hp q hq
    have h1 := List.of_mem_filter hp
    obtain ⟨d, hd, rfl⟩ := List.mem_map.1 hq
    simp at h1 ⊢; omega
  · intro p hp q hq
    have h2 := List.of_mem_filter hq
    rcases List.mem_append.1 hp with hp | hp
    · have h1 := List.of_mem_filter hp
      simp at h1 h2; omega
    · obtain ⟨d, hd, rfl⟩ := List.mem_map.1 hp
      have h1 := List.of_mem_filter hd
      simp at h1 h2 ⊢; omega

theorem Memory.wf_clear {m : Memory} (hm : m.wf = true) (a n : Nat) : (m.clear a n).wf = true :=
  Memory.wf_blit hm rfl a n

theorem Memory.wf_swapHalves {m : Memory} (hm : m.wf = true) (a z : Nat) : (m.swapHalves a z).wf = true :=
  Memory.wf_blit (Memory.wf_blit hm (Memory.wf_extract hm _ _) _ _) (Memory.wf_extract hm _ _) _ _

theorem Memory.wf_writeLE {m : Memory} (hm : m.wf = true) (a n v : Nat) : (m.writeLE a n v).wf = true :=
  Memory.wf_writeBytes hm a _

/-! Little-endian values. -/

theorem length_toLE (n v : Nat) : (toLE n v).length = n := by simp [toLE]

theorem toLE_succ (n v : Nat) : toLE (n + 1) v = BitVec.ofNat 8 v :: toLE n (v / 256) := by
  simp only [toLE, List.range_succ_eq_map, List.map_cons, List.map_map]
  congr 1
  · simp
  · apply List.map_congr_left
    intro i _
    simp [Function.comp, pow_succ', Nat.div_div_eq_div_mul]

/-- The value of the n little-endian bytes of v. -/
theorem ofLE_toLE (n v : Nat) : ofLE (toLE n v) = v % 256 ^ n := by
  induction n generalizing v with
  | zero => simp [toLE, ofLE, Nat.mod_one]
  | succ n ih =>
    rw [toLE_succ, ofLE, ih, pow_succ', Nat.mod_mul]
    simp

/-- A read of n bytes after a write of n bytes at the same place. -/
theorem Memory.readBytes_writeBytes {m : Memory} (hm : m.wf = true) (a : Nat) (bs : List Byte) :
    (m.writeBytes a bs).readBytes a bs.length = bs := by
  apply List.ext_getElem
  · simp [Memory.readBytes]
  · intro i h1 h2
    simp only [Memory.readBytes, List.getElem_map, List.getElem_range]
    exact Memory.read_writeBytes_same hm a i bs h2

/-- A value written is the value read, as far as the bytes go. -/
theorem Memory.readLE_writeLE {m : Memory} (hm : m.wf = true) (a n v : Nat) :
    (m.writeLE a n v).readLE a n = v % 256 ^ n := by
  have h := Memory.readBytes_writeBytes hm a (toLE n v)
  rw [length_toLE] at h
  rw [Memory.readLE, Memory.writeLE, h, ofLE_toLE]

end Sys2Proof.Machine
end

