-- ==== Sys2Proof/Laws/Keeps.lean ====
section
/-! SUPPORT. What the operations that instructions are built from keep: the registers of `State.fixed`, and the canonical
form of every memory. One lemma for each operation; an instruction's own lemma follows by citing them. -/
namespace Sys2Proof.Machine

/-- t has the fixed registers of s, and canonical memories if s has. -/
def Keeps (s t : State) : Prop := t.fixed = s.fixed ∧ (s.memoryOk = true → t.memoryOk = true)
/-- Every next state of an outcome keeps what s has. -/
def KeepsR (s : State) (r : Res) : Prop := ∀ t, r = .next t → Keeps s t
/-- A change of a core keeps its memories canonical. -/
def CoreKeeps (f : Core → Core) : Prop := ∀ c, c.memoryOk = true → (f c).memoryOk = true

@[refl] theorem Keeps.refl (s : State) : Keeps s s := ⟨rfl, id⟩
theorem Keeps.trans {s t u : State} (h : Keeps s t) (k : Keeps t u) : Keeps s u :=
  ⟨k.1.trans h.1, fun m => k.2 (h.2 m)⟩

theorem KeepsR.next {s t : State} (h : Keeps s t) : KeepsR s (.next t) := by rintro u ⟨⟩; exact h
theorem KeepsR.fault {s : State} (f : Fault) : KeepsR s (.fault f) := by rintro u ⟨⟩
theorem KeepsR.refused {s : State} (f : Refusal) : KeepsR s (.refused f) := by rintro u ⟨⟩
/-- A list of changes. -/
theorem Keeps.foldl {α : Type} {f : State → α → State} {s t : State} {l : List α} (h : Keeps s t)
    (hf : ∀ u a, Keeps s u → Keeps s (f u a)) : Keeps s (l.foldl f t) := by
  induction l generalizing t with
  | nil => exact h
  | cons a l ih => exact ih (hf t a h)

/-- A list of changes that carries something along. -/
theorem Keeps.foldlFst {α β : Type} {f : State × β → α → State × β} {s : State} {p : State × β} {l : List α}
    (h : Keeps s p.1) (hf : ∀ q a, Keeps s q.1 → Keeps s (f q a).1) : Keeps s (l.foldl f p).1 := by
  induction l generalizing p with
  | nil => exact h
  | cons a l ih => exact ih (hf p a h)

theorem CoreKeeps.id : CoreKeeps fun c => c := fun _ h => h
theorem CoreKeeps.foldl {α : Type} {f : Core → α → Core} {l : List α} (h : ∀ a, CoreKeeps fun c => f c a) :
    CoreKeeps fun c => l.foldl f c := by
  induction l with
  | nil => exact .id
  | cons a l ih => exact fun c hc => ih _ (h a c hc)

variable {s t : State}

/-! Cores and contexts. -/

theorem Core.memoryOk_iff {c : Core} : c.memoryOk = true ↔ c.slice.wf = true ∧ c.firmware.wf = true ∧
    c.mat.active.wf = true ∧ c.mat.shadow.wf = true ∧ ∀ p ∈ c.wgs, p.2.records.wf = true := by
  simp [Core.memoryOk, and_assoc]

theorem State.memoryOk_iff : s.memoryOk = true ↔ (s.gddr.wf = true ∧ s.gddrStart.wf = true) ∧
    (s.remote.wf = true ∧ s.remoteStart.wf = true) ∧ (∀ c ∈ s.cores, c.memoryOk = true) ∧ ∀ p ∈ s.saves, p.2.memoryOk = true := by
  simp [State.memoryOk, and_assoc]

theorem mem_modify {α : Type} {l : List α} {k : Nat} {f : α → α} {b : α} (h : b ∈ l.modify k f) :
    b ∈ l ∨ ∃ a ∈ l, b = f a := by
  rw [List.mem_iff_getElem] at h
  obtain ⟨i, hi, rfl⟩ := h
  rw [List.length_modify] at hi
  rw [List.getElem_modify]
  split
  · exact .inr ⟨l[i], List.getElem_mem hi, rfl⟩
  · exact .inl (List.getElem_mem hi)

theorem Keeps.modCore {f : Core → Core} {k : Nat} (h : Keeps s t) (hf : CoreKeeps f) : Keeps s (t.modCore k f) := by
  refine h.trans ⟨rfl, fun m => ?_⟩
  rw [State.memoryOk_iff] at *
  refine ⟨m.1, m.2.1, fun c hc => ?_, m.2.2.2⟩
  rcases mem_modify hc with hc | ⟨a, ha, rfl⟩
  · exact m.2.2.1 c hc
  · exact hf a (m.2.2.1 a ha)

/-- A change of a core that leaves its memories alone. -/
theorem Keeps.modCoreId {f : Core → Core} {k : Nat} (h : Keeps s t)
    (hf : ∀ c, (f c).memoryOk = c.memoryOk) : Keeps s (t.modCore k f) := h.modCore fun c hc => (hf c).trans hc
/-- A change of the state that leaves memory, cores and what is fixed alone. -/
theorem Keeps.same {u : State} (h : Keeps s t) (h1 : u.fixed = t.fixed) (h2 : u.memoryOk = t.memoryOk) : Keeps s u :=
  h.trans ⟨h1, fun m => h2.trans m⟩
theorem Keeps.modCtx {f : Ctx → Ctx} {c : Nat} (h : Keeps s t) : Keeps s (t.modCtx c f) := h.same rfl rfl
theorem Keeps.modGroup {f : Group → Group} {k n : Nat} (h : Keeps s t) : Keeps s (t.modGroup k n f) :=
  h.modCoreId fun _ => rfl
theorem Keeps.modCctx {f : CoreCtx → CoreCtx} {k n : Nat} (h : Keeps s t) : Keeps s (t.modCctx k n f) :=
  h.modCoreId fun _ => rfl
theorem Core.memoryOk_modParty (c : Core) (p : Party) (f : Uni → Uni) : (c.modParty p f).memoryOk = c.memoryOk := by
  cases p <;> rfl
theorem Keeps.modParty {f : Uni → Uni} {k : Nat} {p : Party} (h : Keeps s t) : Keeps s (t.modParty k p f) :=
  h.modCoreId fun c => c.memoryOk_modParty p f
theorem Keeps.fresh (h : Keeps s t) : Keeps s t.fresh.2 := h.same rfl rfl
theorem Keeps.complete {k : Nat} {r : OpRef} {b : Bool} (h : Keeps s t) : Keeps s (t.complete k r b) := by
  unfold State.complete; split
  · exact h.modGroup
  · exact h.modParty
theorem Keeps.countEcc {k : Nat} (h : Keeps s t) : Keeps s (t.countEcc k) := h.modCoreId fun _ => rfl
theorem Keeps.countOp {k : Nat} {p : Party} {c : Nat} (h : Keeps s t) : Keeps s (t.countOp k p c).2 := h.modParty

/-! Memory outside the cores, and fault records. -/

theorem Keeps.physWrite {p : Phys} {bs : List Byte} (h : Keeps s t) : Keeps s (t.physWrite p bs) := by
  unfold State.physWrite; split
  · exact h.trans ⟨rfl, fun m => by
      rw [State.memoryOk_iff] at *
      exact ⟨m.1, ⟨Memory.wf_writeBytes m.2.1.1 _ _, Memory.wf_writeBytes m.2.1.2 _ _⟩, m.2.2⟩⟩
  · exact h.trans ⟨rfl, fun m => by
      rw [State.memoryOk_iff] at *
      exact ⟨⟨Memory.wf_writeBytes m.1.1 _ _, Memory.wf_writeBytes m.1.2 _ _⟩, m.2⟩⟩
theorem Keeps.physWriteBy {k : Nat} {p : Phys} {bs : List Byte} (h : Keeps s t) : Keeps s (t.physWriteBy k p bs) := by
  unfold State.physWriteBy
  dsimp only
  refine Keeps.modCoreId ?_ fun _ => rfl
  split
  · exact h.trans ⟨rfl, fun m => by
      rw [State.memoryOk_iff] at *; exact ⟨m.1, ⟨Memory.wf_writeBytes m.2.1.1 _ _, m.2.1.2⟩, m.2.2⟩⟩
  · exact h.trans ⟨rfl, fun m => by
      rw [State.memoryOk_iff] at *; exact ⟨⟨Memory.wf_writeBytes m.1.1 _ _, m.1.2⟩, m.2⟩⟩
theorem Keeps.virtStoreBy {k ctx a : Nat} {bs : List Byte} (h : Keeps s t) : Keeps s (t.virtStoreBy k ctx a bs) := by
  unfold State.virtStoreBy
  refine h.foldl fun u c hu => ?_
  split
  · exact hu
  · exact hu.physWriteBy
theorem Keeps.virtStore {ctx a : Nat} {bs : List Byte} (h : Keeps s t) : Keeps s (t.virtStore ctx a bs) := by
  unfold State.virtStore
  refine h.foldl fun u c hu => ?_
  split
  · exact hu
  · exact hu.physWrite
theorem Keeps.virtWrite {u : State} {ctx a : Nat} {bs : List Byte} (h : Keeps s t) (hw : t.virtWrite ctx a bs = .ok u) :
    Keeps s u := by
  unfold State.virtWrite at hw; split at hw
  · cases hw
  · cases hw; exact h.virtStore
theorem Keeps.countLoss {n : Nat} (h : Keeps s t) : Keeps s (t.countLoss n) := h.same rfl rfl
theorem Keeps.appendRecord {n : Nat} {r : FaultRec} (h : Keeps s t) : Keeps s (t.appendRecord n r) := by
  have hl : ∀ {u : State}, Keeps s u → ∀ e : Nat × Nat, Keeps s ((if e.1 = 0x1B then u.countEcc r.core else u).countLoss n) :=
    fun hu e => by
      split
      · exact hu.countEcc.countLoss
      · exact hu.countLoss
  unfold State.appendRecord
  split
  · exact h
  · split
    · exact h.countLoss
    · extract_lets qb size lost
      split
      · extract_lets widx
        split
        · split
          · exact hl h _
          · split
            · exact hl h _
            · exact h.virtWrite ‹_›
        · split
          · exact hl h _
          · split
            · exact hl (h.virtWrite ‹_›) _
            · exact (h.virtWrite ‹_›).virtWrite ‹_›
      · exact hl h _
      · exact hl h _
theorem Keeps.deferFault {w : Issuer} {c d a : Nat} (h : Keeps s t) : Keeps s (t.deferFault w c d a) := h.appendRecord

/-! The issuing thread. -/

variable {x : Iss}

theorem Keeps.modUni {f : Uni → Uni} (h : Keeps s t) : Keeps s (t.modUni x f) := h.modParty
theorem Keeps.modIssGroup {f : Group → Group} (h : Keeps s t) : Keeps s (t.modIssGroup x f) := h.modGroup
theorem Keeps.modFlow {f : Flow → Flow} (h : Keeps s t) : Keeps s (t.modFlow x f) := by
  unfold State.modFlow; split
  · exact h.modCctx
  · exact h.modGroup
theorem Keeps.setWait {w : Wait} (h : Keeps s t) : Keeps s (t.setWait x w) := by
  unfold State.setWait; split
  · exact h.modCctx
  · exact h.modGroup
theorem Keeps.advance {n : Nat} (h : Keeps s t) : Keeps s (t.advance x n) := h.modFlow
theorem Keeps.jump {p : Pc} (h : Keeps s t) : Keeps s (t.jump x p) := h.modFlow
theorem Keeps.setS {r : BitVec 9} {v : DWord} {b : Bool} (h : Keeps s t) : Keeps s (t.setS x r v b) := h.modUni
theorem Keeps.setV {r : Nat} {f : Nat → Word} {b : Bool} (h : Keeps s t) : Keeps s (t.setV x r f b) := h.modIssGroup
theorem Keeps.setM {r : BitVec 9} {m : LaneSet} (h : Keeps s t) : Keeps s (t.setM x r m) := h.modUni
theorem Keeps.markEmpty {r : BitVec 9} (h : Keeps s t) : Keeps s (t.markEmpty x r) := by
  unfold State.markEmpty; split
  · exact h.modUni
  · exact h.modIssGroup
theorem Keeps.orFlags {f : BitVec 5} (h : Keeps s t) : Keeps s (t.orFlags x f) := h.modIssGroup

/-! Deliveries and detachment. -/

theorem Core.memoryOk_thawHalted (c : Core) (d : CoreCtx) (n : Nat) : (c.thawHalted d n).memoryOk = c.memoryOk := rfl
theorem Keeps.startDelivery {k n : Nat} (h : Keeps s t) : Keeps s (t.startDelivery k n) := by
  unfold State.startDelivery
  split
  · exact h
  · split
    · dsimp only
      have h1 := h.modCoreId (k := k) fun c => c.memoryOk_thawHalted ‹CoreCtx› n
      split
      · exact h1.modCctx.modGroup
      · exact h1.modCctx
    · exact h
theorem Keeps.deliver {k n : Nat} {d : Delivery} (h : Keeps s t) : Keeps s (t.deliver k n d) := h.modCctx.startDelivery
theorem Keeps.haltRecord {k n : Nat} {d : Delivery} (h : Keeps s t) : Keeps s (t.haltRecord k n d) := h.appendRecord
theorem Keeps.haltAll {k n : Nat} (h : Keeps s t) : Keeps s (t.haltAll k n) := by
  unfold State.haltAll; split
  · exact h
  · exact (h.foldl fun _ _ hu => hu.haltRecord).modCctx
theorem Keeps.dropMatOp {k : Nat} {m : List Nat} {o : MatOp} (h : Keeps s t) : Keeps s (t.dropMatOp k m o) := by
  unfold State.dropMatOp
  have h1 : Keeps s (o.refs.foldl (fun s r => s.complete k r) t) := h.foldl fun _ _ hu => hu.complete
  dsimp only; split
  · split
    · exact h1.foldl fun _ _ hu => hu.modGroup
    · exact h1
  · exact h1
theorem Keeps.dropMatrix {k n : Nat} (h : Keeps s t) : Keeps s (t.dropMatrix k n) := by
  unfold State.dropMatrix; split
  · exact h
  · dsimp only
    refine .modCoreId (.foldl (.foldl h fun u o hu => .foldl hu fun _ _ hv => hv.dropMatOp) fun _ _ hu => hu.modGroup)
      fun _ => rfl
theorem Core.memoryOk_leaveLatches (c : Core) (n : Nat) : (c.leaveLatches n).memoryOk = c.memoryOk := rfl
theorem Keeps.detach {n : Nat} {a : Option Nat} (h : Keeps s t) : Keeps s (t.detach n a) := by
  unfold State.detach; split
  · exact h
  · split
    · exact h
    · dsimp only
      exact .foldl (.foldl (.modCtx (.foldl h fun _ _ hu => hu.haltAll)) fun _ _ hu =>
        hu.dropMatrix.modCoreId fun c => c.memoryOk_leaveLatches n) fun _ _ hu => hu.appendRecord
theorem Keeps.firmwareTrap {k n : Nat} (h : Keeps s t) : Keeps s (t.firmwareTrap k n) := by
  unfold State.firmwareTrap
  refine Keeps.same (t := State.detach _ n (some k)) (Keeps.detach ?_) rfl rfl
  split
  · exact h
  · split
    · exact h
    · exact h.haltRecord.modCctx
theorem Keeps.raise {i : TrapInfo} (h : Keeps s t) : Keeps s (t.raise x i) := by
  unfold State.raise; split
  · exact h.firmwareTrap
  · dsimp only
    split
    · exact h.deliver
    · exact h.modIssGroup.deliver
theorem KeepsR.trap {c : Nat} {l : LaneSet} {a : Nat} (h : Keeps s t) : KeepsR s (trapR x t c l a) := .next h.raise
theorem KeepsR.ecc {k a : Nat} {l : LaneSet} (h : Keeps s t) : KeepsR s (eccR x t k a l) := .next h.countEcc.raise
theorem KeepsR.regEcc {r : BitVec 9} {l : LaneSet} (h : Keeps s t) : KeepsR s (regEccR x t r l) := .ecc h
theorem KeepsR.waitR (h : Keeps s t) : KeepsR s (waitR t) := .next h

/-- An instruction keeps what its own effect keeps. -/
theorem KeepsR.issue {r : Req} {n : Nat} {eff : Iss → Res} (h : ∀ x, KeepsR s (eff x)) :
    KeepsR s (issue r n s eff) := by
  unfold Machine.issue; split
  · exact .fault _
  · split
    · exact .trap (.refl s)
    · exact .regEcc (.refl s)
    · exact .next (Keeps.refl s).advance
    · exact .next (.refl s)
    · exact h _

end Sys2Proof.Machine
end

