-- ==== Sys2Proof/Laws/KeepsThreads.lean ====
section
/-! SUPPORT. What the operations of the thread families keep (see Laws/Keeps.lean): overlays, control, slices, engines,
supersteps, exchange programs. -/
namespace Sys2Proof.Machine

variable {s t u : State} {x : Iss}

/-! Overlays. -/

theorem Keeps.setToken {k n : Nat} {i : BitVec 12} {v : Token} (h : Keeps s t) : Keeps s (t.setToken k n i v) := h.modCctx
theorem Core.memoryOk_makeAbsent (c : Core) (n i : Nat) : (c.makeAbsent n i).memoryOk = c.memoryOk := rfl
theorem CoreKeeps.settleTokens : CoreKeeps Core.settleTokens := by
  refine CoreKeeps.foldl fun n c hc => ?_
  dsimp only; split
  · exact hc
  · rename_i cc _
    refine CoreKeeps.foldl (l := cc.tokens) (fun p d hd => ?_) c hc
    dsimp only; split
    · split
      · exact hd
      · exact hd
    · exact hd
theorem Keeps.settleTokens {k : Nat} (h : Keeps s t) : Keeps s (t.settleTokens k) := h.modCore .settleTokens
theorem Keeps.startFill {k n : Nat} {i : BitVec 12} {l : List OpRef} {w : Issuer} {p : Option (Nat × Nat)}
    (h : Keeps s t) (hu : t.startFill k n i l w p = .started u) : Keeps s u := by
  unfold State.startFill at hu
  split at hu
  · extract_lets owed read e bad badAt m shr shared now at hu
    clear_value shared
    split at hu
    · cases hu
    · split at hu
      · split at hu
        · cases hu; exact h.setToken.foldl fun _ _ hv => hv.complete
        · cases hu; exact h.fresh.setToken.modCoreId fun _ => rfl
      · cases hu
        exact h.fresh.fresh.setToken.modCoreId fun _ => rfl
  · cases hu
theorem Keeps.serveFill {k : Nat} (h : Keeps s t) (hu : t.serveFill k = some u) : Keeps s u := by
  unfold State.serveFill at hu
  split at hu
  · cases hu
  · split at hu
    · cases hu
    · split at hu
      · cases hu; exact h.modCoreId fun _ => rfl
      · cases hu
theorem Keeps.writeLink {g : Going} (h : Keeps s t) : Keeps s (t.writeLink x g) := by
  unfold State.writeLink; split
  · exact h.setS
  · exact h
theorem Keeps.land {i : BitVec 12} {g : Going} {j : Image} (h : Keeps s t) : Keeps s (t.land x i g j) := by
  unfold State.land; split
  · exact h.raise
  · exact h.writeLink.jump
theorem Keeps.reach {k n : Nat} {i : BitVec 12} {j : Image} {w : TokWait} (h : Keeps s t) : Keeps s (t.reach k n i j w) := by
  unfold State.reach
  dsimp only; split
  · split
    · exact h.land
    · exact h
  · split
    · exact h.setWait.land
    · exact h
  · exact h
theorem Keeps.endFill {k : Nat} {f : Fill} {r : Except FillFault (List Word)} (h : Keeps s t) :
    Keeps s (t.endFill k f r) := by
  unfold State.endFill
  refine Keeps.foldl ?_ fun _ _ hv => hv.complete
  dsimp only; split
  · split
    · exact h.setToken.foldl fun _ _ hv => hv.reach
    · exact h.setToken
  · rename_i e
    refine Keeps.setToken ?_
    generalize hv : (if e.cause = 4 ∨ e.cause = 5 then _ else t : State) = v
    have h1 : Keeps s v := by
      rw [← hv]
      have h0 : Keeps s (if e.code = 0x1B then t.countEcc k else t) := by
        split
        · exact h.countEcc
        · exact h
      split
      · split
        · exact h0.appendRecord
        · exact h0.deferFault
      · exact h
    split
    · split
      · exact h1
      · exact h1.same rfl rfl
    · exact h1
theorem Keeps.finishFill {k i : Nat} (h : Keeps s t) (hu : t.finishFill k i = some u) : Keeps s u := by
  unfold State.finishFill at hu
  split at hu
  · cases hu
  · split at hu
    · cases hu
    · cases hu
      exact .settleTokens (.foldl (h.modCoreId fun _ => rfl) fun _ _ hv => hv.endFill)

theorem Keeps.dropWaiter (h : Keeps s t) : Keeps s (t.dropWaiter x) := h.modCctx
theorem Keeps.awaitToken {i : BitVec 12} {g : Option Going} (h : Keeps s t) : Keeps s (t.awaitToken x i g) := h.setToken

/-- What coming to a token keeps. -/
def Resolve.Keeps (s : State) : Resolve → Prop
  | .code t _ => Machine.Keeps s t
  | .wait t => Machine.Keeps s t
  | .trap t _ => Machine.Keeps s t
theorem Keeps.resolve {i : BitVec 12} {b : Bool} {g : Option Going} (h : Keeps s t) : (t.resolve x i b g).Keeps s := by
  unfold State.resolve
  have h1 : Keeps s ((t.settleTokens x.core).dropWaiter x) := h.settleTokens.dropWaiter
  generalize t.owedTrap x = o
  generalize (t.settleTokens x.core).dropWaiter x = v at h1 ⊢
  dsimp only
  split
  · exact h1
  · split
    · split <;> exact h1
    · split <;> exact h1
    · exact h1.awaitToken
    · exact h1
    · split
      · exact h1
      · split
        · exact h1
        · split
          · exact h1
          · rename_i w hw
            have h2 : Keeps s w := Keeps.startFill h1.countOp hw
            split
            · exact h2
            · exact h2.awaitToken

/-! Control. -/

theorem Keeps.trapEach {l : List Iss} {c a : Nat} (h : Keeps s t) : Keeps s (t.trapEach l c a) := by
  unfold State.trapEach
  refine Keeps.foldl (Keeps.foldl h fun _ _ hv => hv.setWait) fun _ _ hv => ?_
  split
  · exact hv
  · exact hv.raise
theorem Keeps.mismatch {l : List Iss} (h : Keeps s t) : Keeps s (t.mismatch l) := h.trapEach
theorem Keeps.leaveLatches {k : Nat} {g : Group} (h : Keeps s t) : Keeps s (t.leaveLatches k g) := h.mismatch
theorem Keeps.settleGroup (h : Keeps s t) : Keeps s (t.settleGroup x) := by
  unfold State.settleGroup
  dsimp only
  refine Keeps.settleTokens ?_
  split
  · exact h.modIssGroup
  · split
    · exact h.modIssGroup.leaveLatches
    · exact h.modIssGroup
theorem Keeps.joinAfter {f : Group → Group} (h : Keeps s t) : Keeps s (t.joinAfter x f) := h.modIssGroup.settleGroup
theorem KeepsR.goTo {i : BitVec 12} {b : Bool} {g : Going} (h : Keeps s t) : KeepsR s (t.goTo x i b g) := by
  unfold State.goTo
  split
  · exact .next h.writeLink.jump
  · have hr := h.resolve (x := x) (i := i) (b := b) (g := some g)
    split
    · rename_i hv; rw [hv] at hr; exact .trap hr
    · rename_i hv; rw [hv] at hr; exact .waitR hr
    · rename_i hv; rw [hv] at hr; exact .next (Keeps.land hr).settleTokens
theorem KeepsR.deliverPending {m : BitVec 5} (h : Keeps s t) : KeepsR s (deliverPending x t m) := .next h.modUni.raise
theorem Core.memoryOk_serveDq (n : Nat) (l : List DWord) (p : List Pop) (c : Core) :
    (serveDq n l p c).2.2.memoryOk = c.memoryOk := by
  induction n generalizing l p c with
  | zero => rfl
  | succ n ih => cases l <;> cases p <;> simp only [serveDq]; rw [ih]; rfl
theorem Keeps.matchDq {k n : Nat} (h : Keeps s t) : Keeps s (t.matchDq k n) := by
  refine h.modCoreId fun c => ?_
  dsimp only; split
  · rfl
  · exact Core.memoryOk_serveDq _ _ _ _

/-! Slices and results. -/

theorem CoreKeeps.storeBytes (off : Nat) (bs : List Byte) : CoreKeeps fun c => c.storeBytes off bs := by
  intro c hc
  rw [Core.memoryOk_iff] at *
  exact ⟨Memory.wf_writeBytes hc.1 _ _, hc.2⟩
theorem Keeps.sliceWrite {k off : Nat} {bs : List Byte} (h : Keeps s t) : Keeps s (t.sliceWrite k off bs) :=
  h.modCore (.storeBytes off bs)
theorem KeepsR.faultR {f : AccessFault} (h : Keeps s t) : KeepsR s (faultR x t f) := by
  unfold Machine.faultR
  refine .next (Keeps.raise ?_)
  split
  · exact h.modCoreId fun _ => rfl
  · exact h
theorem Keeps.pendResult {k : ResKind} {l : LaneSet} {v : List (Nat × List Word)} {r : List (Nat × DWord)} {b : Bool}
    {o : Option OpRef} {e : Bool} (h : Keeps s t) : Keeps s (t.pendResult x k l v r b o e) := by
  unfold State.pendResult
  dsimp only
  exact .foldl (.foldl (h.fresh.modCoreId fun _ => rfl) fun _ _ hv => hv.modIssGroup) fun _ _ hv => hv.modUni
theorem Keeps.landResult {k : Nat} {r : Result} (h : Keeps s t) : Keeps s (t.landResult k r) := by
  unfold State.landResult
  have h1 : Keeps s (t.modCore k fun c => { c with results := c.results.filter fun q => q.id != r.id }) :=
    h.modCoreId fun _ => rfl
  dsimp only
  split
  · refine Keeps.complete (Keeps.foldl ?_ fun _ _ hv => hv.modParty)
    split
    · exact h1.modGroup
    · exact h1
  · refine Keeps.foldl ?_ fun _ _ hv => hv.modParty
    split
    · exact h1.modGroup
    · exact h1
theorem KeepsR.landEvent {n : String} {k : ResKind} {c i : Nat} (h : Keeps s t) : KeepsR s (landEvent n k c i t) := by
  unfold Machine.landEvent; split
  · exact .fault _
  · exact .next h.landResult
theorem Keeps.setMLanes {d : BitVec 9} {m : LaneSet} (h : Keeps s t) : Keeps s (t.setMLanes x d m) := h.setM
theorem Keeps.setVF {d : Nat} {l : List FRes} {b : Bool} (h : Keeps s t) : Keeps s (t.setVF x d l b) := h.setV.orFlags
theorem Keeps.storeLanes {k : Nat} {a : Nat → Nat} {b : Nat → List Byte} {l : List Nat} (h : Keeps s t) :
    Keeps s (t.storeLanes k a b l) := h.foldl fun _ _ hv => hv.sliceWrite
theorem Keeps.clearTaint {r : BitVec 9} (h : Keeps s t) : Keeps s (t.clearTaint x r) := by
  unfold State.clearTaint; split
  · exact h.modUni
  · exact h.modIssGroup
theorem Keeps.atomLanes {k n : Nat} {a : Nat → Nat} {f : Nat → Nat → Option Nat × FFlags} {l : List Nat}
    (h : Keeps s t) : Keeps s (t.atomLanes k n a f l).s := by
  unfold State.atomLanes
  suffices hs : ∀ r : AtomRun, Keeps s r.s → Keeps s (l.foldl (fun r i =>
      let off := aliasOff (a i)
      let w := r.s.sliceLE k off n
      let y := f i w
      ⟨match y.1 with | some v => r.s.sliceWrite k off (toLE n v) | none => r.s, r.old ++ [(i, w)], r.flags ||| y.2⟩)
      r).s from hs _ h
  induction l with
  | nil => exact fun r hr => hr
  | cons i l ih =>
    intro r hr
    refine ih _ ?_
    dsimp only; split
    · exact hr.sliceWrite
    · exact hr

/-! Engines. -/

theorem KeepsR.regsGate {m : LaneSet} {l w : List Opnd} {k : Res} (h : Keeps s t) (hk : KeepsR s k) :
    KeepsR s (regsGate x t m l w k) := by
  unfold Machine.regsGate; split
  · exact .trap h
  · split
    · exact .trap h
    · split
      · exact .waitR h
      · split
        · exact .regEcc h
        · exact hk
theorem Keeps.issueEngine {c : Nat} {i : Instr} {v : List DWord} {r : List (List Word)} {l : LaneSet} (h : Keeps s t) :
    Keeps s (t.issueEngine x c i v r l) := by
  unfold State.issueEngine
  exact h.countOp.fresh.modCoreId fun _ => rfl
theorem KeepsR.engineR {c n : Nat} {i : Instr} {v : List DWord} {r : List (List Word)} {l : LaneSet} (h : Keeps s t) :
    KeepsR s (engineR x t c n i v r l) := by
  unfold Machine.engineR; split
  · exact .waitR h
  · exact .next h.issueEngine.advance
theorem Keeps.dropOp {k i : Nat} (h : Keeps s t) : Keeps s (t.dropOp k i) := h.modCoreId fun _ => rfl
theorem Keeps.partyFlags {k : Nat} {p : Option Party} {f : FFlags} (h : Keeps s t) : Keeps s (t.partyFlags k p f) := by
  unfold State.partyFlags; split
  · exact h.modGroup
  · exact h
theorem Keeps.completeOp {o : EngineOp} {b : Bool} (h : Keeps s t) : Keeps s (t.completeOp o b) := by
  unfold State.completeOp; split
  · exact h.complete
  · exact h
theorem Keeps.endOp {o : EngineOp} {c : Nat} {f : Option (Nat × Nat)} {l : FFlags} (h : Keeps s t) :
    Keeps s (t.endOp o c f l) := by
  unfold State.endOp
  refine Keeps.completeOp (Keeps.partyFlags ?_)
  split
  · refine Keeps.deferFault ?_
    split
    · exact h.dropOp.countEcc
    · exact h.dropOp
  · exact h.dropOp
theorem Keeps.sweepRows {o : EngineOp} {p : Op} {q : SweepPlan} {n i : Nat} {f : FFlags} (h : Keeps s t) :
    Keeps s (t.sweepRows o p q n i f).1 := by
  induction n generalizing t o i f with
  | zero => exact h
  | succ n ih => rw [State.sweepRows]; exact ih h.sliceWrite
theorem Keeps.runSweep {o : EngineOp} (h : Keeps s t) (hu : t.runSweep o = some u) : Keeps s u := by
  unfold State.runSweep at hu
  split at hu
  · dsimp only at hu; split at hu
    · cases hu; exact h.endOp
    · split at hu
      · cases hu; exact h.endOp
      · cases hu; exact h.sliceWrite.endOp
  · dsimp only at hu; split at hu
    · cases hu; exact h.endOp
    · cases hu; exact h.sweepRows.endOp
  · cases hu
theorem Keeps.sendDeposit {o : EngineOp} {r : OpRef} {p : Op} {g a e c : Nat} {b : List (Nat × Byte)} (h : Keeps s t) :
    Keeps s (t.sendDeposit o r p g a e c b) := h.same rfl rfl
theorem Keeps.copyWrite {k n a : Nat} {l : List (Nat × List Byte)} (h : Keeps s t) : Keeps s (t.copyWrite k n a l).1 := by
  refine Keeps.foldlFst (p := (t, [])) h fun q b hq => ?_
  dsimp only; split
  · exact hq.virtStoreBy
  · exact hq.sliceWrite
theorem Keeps.moveBytes {k n i a b m : Nat} {e : List Sample} (h : Keeps s t) : Keeps s (t.moveBytes k n i e a b m).1 := h.copyWrite
theorem Keeps.runCpy {o : EngineOp} {p : Op} (h : Keeps s t) : Keeps s (t.runCpy o p) := by
  unfold State.runCpy
  dsimp only; split
  · exact h.endOp
  · split
    · exact h.endOp
    · split
      · split
        · exact h.endOp
        · exact h.sendDeposit.dropOp
      · exact h.moveBytes.endOp
theorem Keeps.runXst {o : EngineOp} {p : Op} (h : Keeps s t) : Keeps s (t.runXst o p) := by
  unfold State.runXst; split
  · exact h.endOp
  · exact h.sendDeposit.dropOp
theorem Keeps.runCpyx {o : EngineOp} {p : Op} (h : Keeps s t) : Keeps s (t.runCpyx o p) := by
  unfold State.runCpyx
  dsimp only; split
  · exact h.endOp
  · split
    · exact h.endOp
    · refine Keeps.endOp (Keeps.foldlFst (p := (t, [], fNone)) h fun q y hq => ?_)
      split
      · exact hq
      · exact hq.copyWrite

/-! Supersteps. -/

theorem CoreKeeps.flip (w : Wing) : CoreKeeps fun c => c.flip w := by
  intro c hc
  rw [Core.memoryOk_iff] at *
  exact ⟨Memory.wf_swapHalves hc.1 _ _, hc.2⟩
theorem CoreKeeps.flipBound (n : Nat) (b : Option Nat) : CoreKeeps fun c => c.flipBound n b := by
  intro c hc
  dsimp only
  unfold Core.flipBound; split
  · exact hc
  · exact CoreKeeps.foldl (f := Core.flip) (fun w => .flip w) c hc
theorem CoreKeeps.flipTimes (m n k : Nat) : CoreKeeps fun c => flipTimes m c n k := by
  induction m with
  | zero => exact .id
  | succ m ih => exact fun c hc => ih _ (CoreKeeps.flipBound n (some k) c hc)
theorem Keeps.putObj {k n : Nat} {o : Obj} {v : ObjVal} (h : Keeps s t) : Keeps s (t.putObj k n o v) :=
  h.modCore fun c hc => CoreKeeps.flipTimes _ _ _ _ (CoreKeeps.storeBytes _ _ c hc)
theorem Keeps.sendArrivals {k : Nat} {g : Word} {f : Bool} {l : List Nat} (h : Keeps s t) :
    Keeps s (t.sendArrivals x k g f l) := h.foldl fun _ _ hv => hv.same rfl rfl
theorem Keeps.tryArrival {a : Arrival} (h : Keeps s t) : Keeps s (t.tryArrival a) := by
  have hd : ∀ l : List Arrival, Keeps s { t with arrivals := l } := fun _ => h.same rfl rfl
  unfold State.tryArrival
  split
  · exact hd _
  · split
    · exact (hd _).countEcc.deferFault
    · split
      · exact hd _
      · exact (hd _).putObj
theorem Keeps.judge {i : Nat} {b : Bool} (h : Keeps s t) : Keeps s (t.judge i b) := h.same rfl rfl

/-! Exchange programs. -/

theorem Keeps.xWrite {k n a : Nat} {l : List (Nat × List Byte)} (h : Keeps s t) : Keeps s (t.xWrite k n a l).1 := by
  unfold State.xWrite; split
  · exact h.foldl fun _ _ hv => hv.sliceWrite
  · exact h.modCtx.copyWrite
theorem Keeps.xMove {o : EngineOp} {b : Bool} {n : Nat} (h : Keeps s t) : Keeps s (t.xMove o b n) := h.xWrite.endOp
theorem Keeps.xmcPlain {o : EngineOp} {n : Nat} {d : List Byte} (h : Keeps s t) : Keeps s (t.xmcPlain o n d) := by
  refine Keeps.completeOp (Keeps.dropOp (Keeps.foldlFst (p := (t, false)) h fun q a hq => ?_))
  dsimp only; split
  · exact hq.deferFault
  · exact hq.deferFault
  · exact hq.countEcc.deferFault
  · exact hq.sliceWrite
theorem Keeps.xmcDep {o : EngineOp} {p : Op} {n : Nat} {d : List Byte} (h : Keeps s t) : Keeps s (t.xmcDep o p n d) := by
  unfold State.xmcDep; split
  · exact Keeps.dropOp (Keeps.foldl h fun _ _ hv => hv.sendDeposit)
  · exact h.endOp
theorem Keeps.xAddQueue {o : EngineOp} {a n : Nat} (h : Keeps s t) : Keeps s (t.xAddQueue o a n) := by
  unfold State.xAddQueue
  dsimp only; split
  · exact h.modCtx
  · exact h
theorem Keeps.runXfer {o : EngineOp} (h : Keeps s t) (hu : t.runXfer o = some u) : Keeps s u := by
  have hx : ∀ (f : Option (Nat × Nat)) (g : State), Keeps s g → (match f with
      | some e => some (t.endOp o 5 (some e))
      | none => some g) = some u → Keeps s u := by
    intro f g hg hf; split at hf
    · cases hf; exact h.endOp
    · cases hf; exact hg
  unfold State.runXfer at hu
  dsimp only at hu
  split at hu
  · split at hu
    · cases hu; exact h.endOp
    · exact hx _ _ h.xMove hu
  · split at hu
    · cases hu; exact h.endOp
    · exact hx _ _ h.xMove hu
  · split at hu
    · cases hu; exact h.endOp
    · exact hx _ _ h.xMove hu
  · split at hu
    · cases hu; exact h.endOp
    · refine hx _ _ ?_ hu
      split
      · exact h.xmcDep
      · exact h.xmcPlain
  · split at hu
    · cases hu; exact h.endOp
    · exact hx _ _ h.xAddQueue.endOp hu
  · cases hu
theorem Keeps.faultLate {w : Issuer} {r c d a : Nat} (h : Keeps s t) : Keeps s (t.faultLate w r c d a) := by
  have h1 : Keeps s ((if d = 0x1B then t.countEcc w.core else t).deferFault w r d a) := by
    split
    · exact h.countEcc.deferFault
    · exact h.deferFault
  unfold State.faultLate
  dsimp only; split
  · exact h1.modParty
  · exact h1
theorem Keeps.applyXadd {c : XAdd} (h : Keeps s t) : Keeps s (t.applyXadd c) := by
  unfold State.applyXadd
  dsimp only; split
  · exact h.faultLate
  · exact h.sliceWrite
theorem Keeps.applyXadds {n : Nat} (h : Keeps s t) : Keeps s (t.applyXadds n) := by
  unfold State.applyXadds; split
  · exact h
  · exact Keeps.modCtx (h.foldl fun _ _ hv => hv.foldl fun _ _ hw => hw.applyXadd)

end Sys2Proof.Machine
end

