-- ==== Sys2Proof/Laws/KeepsOrder.lean ====
section
/-! SUPPORT. What performing accesses and keeping their order keeps (see Laws/Keeps.lean), and that a core on which nothing is
still to be performed runs its threads as they stand. -/
namespace Sys2Proof.Machine

variable {s t : State} {x : Iss} {k : Nat}

/-! Performing. -/

theorem Keeps.setResult {i : Option Nat} {v : List (Nat × List Word)} {u : List (Nat × DWord)} (h : Keeps s t) :
    Keeps s (t.setResult k i v u) := h.modCoreId fun _ => rfl
theorem Keeps.keepNode {n : Node} {o : List Done} (h : Keeps s t) : Keeps s (t.keepNode k n o) := h.modCoreId fun _ => rfl
theorem Keeps.putByte {o : Nat} {b : Byte} (h : Keeps s t) : Keeps s (t.putByte k o b) := by
  unfold State.putByte; split
  · exact h.sliceWrite
  · exact h.physWriteBy
theorem Keeps.performStore {n : Node} {o : List (Nat × Nat)} (h : Keeps s t) : Keeps s (t.performStore k n o) := by
  unfold State.performStore
  exact Keeps.keepNode (Keeps.modCoreId (h.foldl fun _ _ hv => hv.putByte) fun _ => rfl)
theorem Keeps.finish {n : Node} {i : Instr} {r : Option Nat} (h : Keeps s t) : Keeps s (t.finish k x i r n) := by
  unfold State.finish; split
  · exact h.setResult.orFlags
  · exact h
theorem Keeps.performLoad {n : Node} {i : Instr} {r : Option Nat} {o : List (Nat × Nat)} (h : Keeps s t) :
    Keeps s (t.performLoad k n x i r o) := h.finish.keepNode
theorem Keeps.performLane {n : Node} {f : AtomFn} {j : Nat} (h : Keeps s t) : Keeps s (t.performLane k n f j).1 := by
  unfold State.performLane; split
  · exact h
  · dsimp only
    refine Keeps.keepNode ?_
    split
    · exact h.sliceWrite
    · exact h
theorem Keeps.performLanes {f : AtomFn} {l : List Nat} {p : State × Node} (h : Keeps s p.1) :
    Keeps s (l.foldl (fun (t : State × Node) j => t.1.performLane k t.2 f j) p).1 := by
  induction l generalizing p with
  | nil => exact h
  | cons j l ih => exact ih h.performLane
theorem Keeps.performAtomic {n : Node} {i : Instr} {r : Option Nat} {o : List (Nat × Nat)} (h : Keeps s t) :
    Keeps s (t.performAtomic k n x i r o) := by
  unfold State.performAtomic; split
  · exact h
  · exact Keeps.finish (Keeps.performLanes (p := (t, n)) h)
theorem Keeps.performBytes {n : Node} {o : List (Nat × Nat)} (h : Keeps s t) : Keeps s (t.performBytes k n o) := by
  unfold State.performBytes
  dsimp only
  split
  · exact h.performStore
  · split
    · exact h.performStore
    · exact h.performLoad
    · exact h.performAtomic
  · exact h
theorem Keeps.performPart {i : Nat} {o : List (Nat × Nat)} (h : Keeps s t) : Keeps s (t.performPart k i o) := by
  unfold State.performPart; split
  · exact h
  · exact h.performBytes
theorem Keeps.performList {l : List (Nat × Nat)} {n : Nat} (h : Keeps s t) : Keeps s (State.performList k l n t) := by
  induction n generalizing t with
  | zero => exact h
  | succ n ih =>
    rw [State.performList]; split
    · exact h
    · exact ih h.performPart
theorem Keeps.performUpTo {l : List (Nat × Nat)} (h : Keeps s t) : Keeps s (t.performUpTo k l) := by
  unfold State.performUpTo; split
  · exact h
  · split
    · exact h
    · exact h.performList
theorem Keeps.settle (h : Keeps s t) : Keeps s (t.settle k) := h.performUpTo
theorem Core.memoryOk_prune (c : Core) : c.prune.memoryOk = c.memoryOk := by unfold Core.prune; split <;> rfl
theorem Keeps.prune (h : Keeps s t) : Keeps s (t.modCore k Core.prune) := h.modCoreId Core.memoryOk_prune
theorem Keeps.perform {i : Nat} {o : List (Nat × Nat)} (h : Keeps s t) : Keeps s (t.perform k i o) := by
  unfold State.perform
  extract_lets held v
  split
  · exact h.performPart.prune
  · exact h
theorem Keeps.performNext {q : Nat × Nat} (h : Keeps s t) : Keeps s (t.performNext k q) := h.performPart.prune

/-! What joins the order. -/

theorem Keeps.addNode {f : Core → Nat → Node} {o : List (Nat × Byte)} (h : Keeps s t) : Keeps s (t.addNode k f o) :=
  h.fresh.modCoreId fun _ => rfl
theorem Keeps.mark {m : LaneSet} {n : NodeKind} (h : Keeps s t) : Keeps s (t.mark x m n) := h.addNode
theorem Keeps.noteWrites {v : State} {o : Option Nat} {r : List OpRef} {w : List Wing} (h : Keeps s t) :
    Keeps s (v.noteWrites t k o r w) := by
  unfold State.noteWrites
  dsimp only; split
  · split
    · exact h
    · exact h.addNode
  · exact h
theorem Keeps.carry {v : State} {f : State → Res} (h : Keeps s t) : Keeps s (v.carry t k f) := h.modCoreId fun _ => rfl
theorem Core.memoryOk_grow (c d : Core) : (c.grow d).memoryOk = d.memoryOk := rfl
theorem Keeps.tidy {v : State} {th : Thread} (h : Keeps s t) : Keeps s (v.tidy t th x) := by
  unfold State.tidy; split
  · exact h.carry.modCoreId fun d => (Core.memoryOk_prune _).trans (Core.memoryOk_grow _ d)
  · exact h
/-- An access that is taken back leaves the slice as it was. -/
theorem Keeps.withhold {i : Instr} {a : Access} (h : Keeps s t) : Keeps s (s.withhold t x i a) := by
  unfold State.withhold
  extract_lets r data t1
  have h1 : Keeps s t1 := by
    show Keeps s (match x.grp with | some g => _ | none => t)
    split
    · split
      · exact h.modGroup
      · exact h
    · exact h
  rcases hk : s.core? x.core with _ | c
  · exact h
  · refine Keeps.addNode ⟨h1.1, fun hs => ?_⟩
    have ht := h1.2 hs
    have hc : c.slice.wf = true := by
      rw [State.memoryOk_iff] at hs
      exact (Core.memoryOk_iff.1 (hs.2.2.1 c (List.mem_of_getElem? hk))).1
    rw [State.memoryOk_iff] at ht ⊢
    refine ⟨ht.1, ht.2.1, fun d hd => ?_, ht.2.2.2⟩
    rcases mem_modify hd with hd | ⟨a, ha, rfl⟩
    · exact ht.2.2.1 d hd
    · have := Core.memoryOk_iff.1 (ht.2.2.1 a ha)
      rw [Core.memoryOk_iff]
      exact ⟨hc, this.2⟩
theorem Keeps.performed {i : Instr} {a : Access} (h : Keeps s t) : Keeps s (s.performed t x i a) := h.withhold.performPart
theorem Keeps.pairQueue {v : State} {i : Instr} {m : LaneSet} (h : Keeps s t) : Keeps s (v.pairQueue t x i m) := by
  unfold State.pairQueue
  split
  · extract_lets pushes pops change serve
    have hc : ∀ u id f, Keeps s u → Keeps s (change u id f) := fun _ _ _ hu => hu.modCoreId fun _ => rfl
    split
    · split
      · exact hc _ _ _ h.mark
      · exact h.mark
    · split
      · exact h.mark
      · rename_i giver _ _ _
        extract_lets t1
        clear_value giver
        have h1 : Keeps s t1 := h.mark
        split
        · exact hc t1 _ (fun _ => .push true) h1
        · exact h1
    · exact h
  · exact h
theorem Keeps.tellOthers {v : State} {i : Instr} (h : Keeps s t) : Keeps s (v.tellOthers t x i) := by
  unfold State.tellOthers
  extract_lets others relays
  split
  · extract_lets n
    split
    · exact h
    · exact h.foldl fun _ _ hv => hv.addNode
  · extract_lets n
    split
    · exact h
    · exact h.foldl fun _ _ hv => hv.addNode
  · exact h
theorem Keeps.noteIssue {v : State} {i : Instr} (h : Keeps s t) : Keeps s (v.noteIssue t x i) := by
  unfold State.noteIssue
  extract_lets owned acts t1 t2
  have h1 : Keeps s t1 := h.noteWrites
  refine Keeps.foldl ?_ fun _ _ hv => hv.mark
  have marks : ∀ (b : Prop) [Decidable b] (n : NodeKind), Keeps s (if b then t1.mark x owned n else t1) := by
    intro b _ n; split
    · exact h1.mark
    · exact h1
  have pairs : ∀ (j : Instr) (b : Prop) [Decidable b], Keeps s (if b then v.pairQueue t1 x j owned else t1) := by
    intro j b _; split
    · exact h1.pairQueue
    · exact h1
  clear_value t1 owned acts
  show Keeps s (match i with | .fence o => _ | .dqPush o => _ | .dqPop o => _ | .barv o => _ | .bwt o => _ | .bini o => _ | .wait o => _ | _ => _)
  split
  · exact marks _ _
  · exact pairs _ _
  · exact pairs _ _
  · split
    · exact h1
    · exact h1.mark
  · exact marks _ _
  · exact marks _ _
  · extract_lets l
    exact marks _ _
  · exact h1
theorem Keeps.startOrder {v : State} (h : Keeps s t) : Keeps s (v.startOrder t x) := by
  unfold State.startOrder
  extract_lets t1
  have h1 : Keeps s t1 := by
    show Keeps s (match v.cctx? x.core x.ctx, t.cctx? x.core x.ctx with | some c, some d => _ | _, _ => t)
    split
    · split
      · exact h.mark
      · exact h
    · exact h
  clear_value t1
  split
  · exact h1
  · split
    · exact h1.tellOthers
    · exact h1

/-! A quiet core. -/

/-- On a core on which nothing is still to be performed a thread runs as it stands, and a dq.pop without a value starts the
order. -/
theorem runAs_of_quiet {th : Thread} (hx : State.iss? { s with cur := th } th = some x) (hq : s.quiet x.core = true) :
    s.runAs false th = match s.run th with | .next u => .next (s.startOrder u x) | o => o := by
  simp only [State.runAs, hx, hq]
  cases s.run th <;> rfl
/-- A thread without an instruction to issue runs as it stands. -/
theorem runAs_of_none {th : Thread} {b : Bool} (h : State.iss? { s with cur := th } th = none) : s.runAs b th = s.run th := by
  simp [State.runAs, h]

end Sys2Proof.Machine
end

