-- ==== Sys2Proof/Laws/Ops.lean ====
section
/-! SUPPORT. What issuing an instruction comes to, and how changes of the state compose: the lemmas that proofs about
instructions cite. -/
namespace Sys2Proof.Machine

/-- A thread that passes the shared checks of an instruction gets its own effect. -/
theorem issue_ready {r : Req} {s : State} {x : Iss} (h : Ready r s x) (n : Nat) (eff : Iss → Res) :
    issue r n s eff = eff x := by
  obtain ⟨y, h1, h2⟩ := h
  simp [issue, h1, h2]

/-- Without a thread that can issue, an instruction faults. -/
theorem issue_none {r : Req} {s : State} (h : s.iss? s.cur = none) (n : Nat) (eff : Iss → Res) :
    issue r n s eff = .fault .noThread := by
  simp [issue, h]

/-- What an issued instruction comes to, by its gate. -/
theorem issue_some {r : Req} {s : State} {x : Iss} (h : s.iss? s.cur = some x) (n : Nat) (eff : Iss → Res) :
    issue r n s eff = match r.gate x s.phase with
      | .trap c lanes => trapR x s c lanes
      | .ecc reg lanes => regEccR x s reg lanes
      | .skip => .next (s.advance x n)
      | .wait => .next s
      | .go y => eff y := by
  simp only [issue, h]
  all_goals cases r.gate x s.phase <;> rfl

theorem modify_comp {α : Type} (l : List α) (k : Nat) (f g : α → α) :
    (l.modify k f).modify k g = l.modify k fun a => g (f a) := by
  simp [List.modify_modify_eq, Function.comp_def]

/-- Two changes of a place that may be empty. -/
theorem modify_map_comp {α : Type} (l : List (Option α)) (k : Nat) (f g : α → α) :
    (l.modify k (Option.map f)).modify k (Option.map g) = l.modify k (Option.map fun a => g (f a)) := by
  rw [modify_comp]
  congr 1
  funext a
  cases a <;> rfl

theorem modify_self {α : Type} (l : List α) (k : Nat) : l.modify k (fun a => a) = l := List.modify_id k l

@[simp] theorem State.modCore_modCore (s : State) (k : Nat) (f g : Core → Core) :
    (s.modCore k f).modCore k g = s.modCore k fun c => g (f c) := by
  simp [State.modCore, modify_comp]
@[simp] theorem State.modCtx_modCtx (s : State) (k : Nat) (f g : Ctx → Ctx) :
    (s.modCtx k f).modCtx k g = s.modCtx k fun c => g (f c) := by
  simp [State.modCtx, modify_comp]
@[simp] theorem Core.modGroup_modGroup (c : Core) (k : Nat) (f g : Group → Group) :
    (c.modGroup k f).modGroup k g = c.modGroup k fun a => g (f a) := by
  simp only [Core.modGroup, modify_comp]
  congr 2
  funext a
  cases a <;> rfl
@[simp] theorem Core.modCctx_modCctx (c : Core) (k : Nat) (f g : CoreCtx → CoreCtx) :
    (c.modCctx k f).modCctx k g = c.modCctx k fun a => g (f a) := by
  simp [Core.modCctx, modify_comp]
@[simp] theorem Group.modSplit_modSplit (c : Group) (k : Nat) (f g : Split → Split) :
    (c.modSplit k f).modSplit k g = c.modSplit k fun a => g (f a) := by
  simp only [Group.modSplit, modify_comp]
  congr 2
  funext a
  cases a <;> rfl

/-! Changes of an issuing group and of a control thread. -/

variable {s : State} {x : Iss}

theorem modUni_group (h : x.isCt = false) (f : Uni → Uni) :
    s.modUni x f = s.modCore x.core fun c => c.modGroup x.slot fun g => { g with uni := f g.uni } := by
  simp [State.modUni, State.modParty, Core.modParty, Iss.party, h]
theorem modUni_sup (h : x.isCt = true) (hs : x.sup = true) (f : Uni → Uni) :
    s.modUni x f = s.modCore x.core fun c => c.modCctx x.ctx fun y =>
      { y with sup := { y.sup with uni := f y.sup.uni } } := by
  simp [State.modUni, State.modParty, Core.modParty, Iss.party, h, hs]
theorem modUni_user (h : x.isCt = true) (hs : x.sup = false) (f : Uni → Uni) :
    s.modUni x f = s.modCore x.core fun c => c.modCctx x.ctx fun y =>
      { y with user := { y.user with uni := f y.user.uni } } := by
  simp [State.modUni, State.modParty, Core.modParty, Iss.party, h, hs]
theorem modFlow_group (h : x.isCt = false) (f : Flow → Flow) :
    s.modFlow x f = s.modCore x.core fun c => c.modGroup x.slot fun g => g.modSplit x.entry fun sp =>
      { sp with flow := f sp.flow, wait := .none, urgent := false, since := none, yielded := false } := by
  simp [State.modFlow, State.modGroup, h]
theorem modFlow_sup (h : x.isCt = true) (hs : x.sup = true) (f : Flow → Flow) :
    s.modFlow x f = s.modCore x.core fun c => c.modCctx x.ctx fun c =>
      { c with sup := { c.sup with flow := f c.sup.flow } } := by
  simp [State.modFlow, State.modCctx, h, hs]
theorem modFlow_user (h : x.isCt = true) (hs : x.sup = false) (f : Flow → Flow) :
    s.modFlow x f = s.modCore x.core fun c => c.modCctx x.ctx fun c =>
      { c with user := { c.user with flow := f c.user.flow }, wait := .none } := by
  simp [State.modFlow, State.modCctx, h, hs]

/-! Parts that an instruction changes. -/

@[simp] theorem Flow.advance_fmt (f : Flow) (n : Nat) : (f.advance n).fmt = f.fmt := rfl
@[simp] theorem Flow.goto_fmt (f : Flow) (p : Pc) : (f.goto p).fmt = f.fmt := rfl
theorem clear_or {w : Nat} (a b : BitVec w) : (a ||| b) &&& ~~~b = a &&& ~~~b := by ext i; simp; grind
theorem clear_clear {w : Nat} (a b : BitVec w) : (a &&& ~~~b) &&& ~~~b = a &&& ~~~b := by ext i; simp
/-- Writing an entry and dropping it leaves what dropping it leaves. -/
theorem AMap.erase_set {β : Type} (m : AMap β) (k : Nat) (v : β) : AMap.erase (AMap.set m k v) k = AMap.erase m k := by
  induction m with
  | nil => simp [AMap.set, AMap.erase]
  | cons p m ih =>
    unfold AMap.erase at *
    simp only [AMap.set]
    split
    · rw [List.filter_cons, List.filter_cons, ih]
    · split
      · rename_i h; simp [← h]
      · simp
@[simp] theorem AMap.erase_erase {β : Type} (m : AMap β) (k : Nat) : AMap.erase (AMap.erase m k) k = AMap.erase m k := by
  simp [AMap.erase, List.filter_filter]
/-- Healing lanes of a register touches the marks of no other register (24 R350). -/
@[simp] theorem Group.erase_healV (g : Group) (r : Nat) (sel : LaneSet) :
    AMap.erase (g.healV r sel) r = AMap.erase g.vErr r := by
  unfold Group.healV
  split
  · rename_i h; simp only [List.isEmpty_iff] at h; simp [h]
  · split
    · simp
    · exact AMap.erase_set _ _ _
theorem modGroup_congr {k n : Nat} {f g : Group → Group} (h : ∀ a, f a = g a) :
    (s.modCore k fun c => c.modGroup n f) = s.modCore k fun c => c.modGroup n g := by rw [funext h]
theorem modCctx_congr {k n : Nat} {f g : CoreCtx → CoreCtx} (h : ∀ a, f a = g a) :
    (s.modCore k fun c => c.modCctx n f) = s.modCore k fun c => c.modCctx n g := by rw [funext h]

/-- Writing an s register and going on changes that register only. -/
theorem setS_unchanged (d : BitVec 9) (v : DWord) (t : Bool) (n : Nat) :
    Unchanged s ((s.setS x d v t).advance x n) x [.s (sNum d)] := by
  unfold Unchanged State.outside State.setS State.advance
  simp only [List.foldl, State.blank]
  cases h : x.isCt
  · simp only [modFlow_group h, modUni_group h, State.modCore_modCore, Core.modGroup_modGroup]
    refine modGroup_congr fun g => ?_
    cases t <;> simp [Group.modSplit, modify_map_comp, Uni.set, clear_or, clear_clear, List.set_set]
  · cases hs : x.sup
    · simp only [modFlow_user h hs, modUni_user h hs, State.modCore_modCore, Core.modCctx_modCctx]
      refine modCctx_congr fun y => ?_
      cases t <;> simp only [Uni.set, clear_or, clear_clear, List.set_set, Flow.advance_fmt, if_true, if_false, Bool.false_eq_true]
    · simp only [modFlow_sup h hs, modUni_sup h hs, State.modCore_modCore, Core.modCctx_modCctx]
      refine modCctx_congr fun y => ?_
      cases t <;> simp only [Uni.set, clear_or, clear_clear, List.set_set, Flow.advance_fmt, if_true, if_false, Bool.false_eq_true]

/-- Going on changes nothing else. -/
theorem goesOn_unchanged (n : Nat) : Unchanged s (s.advance x n) x [] := by
  unfold Unchanged State.outside State.advance
  simp only [List.foldl]
  cases h : x.isCt
  · simp only [modFlow_group h, State.modCore_modCore, Core.modGroup_modGroup]
    refine modGroup_congr fun g => ?_
    simp [Group.modSplit, modify_map_comp]
  · cases hs : x.sup
    · simp only [modFlow_user h hs, State.modCore_modCore, Core.modCctx_modCctx, Flow.advance_fmt]
    · simp only [modFlow_sup h hs, State.modCore_modCore, Core.modCctx_modCctx, Flow.advance_fmt]

/-- Writing a mask and going on changes that mask only. -/
theorem setM_unchanged (d : BitVec 9) (m : LaneSet) (n : Nat) :
    Unchanged s ((s.setM x d m).advance x n) x [.m (bits d 0 4)] := by
  unfold Unchanged State.outside State.setM State.advance
  simp only [List.foldl, State.blank]
  cases h : x.isCt
  · simp only [modFlow_group h, modUni_group h, State.modCore_modCore, Core.modGroup_modGroup]
    refine modGroup_congr fun g => ?_
    simp [Group.modSplit, modify_map_comp, Uni.setMask, List.set_set]
  · cases hs : x.sup
    · simp only [modFlow_user h hs, modUni_user h hs, State.modCore_modCore, Core.modCctx_modCctx]
      exact modCctx_congr fun y => by simp only [Uni.setMask, List.set_set, Flow.advance_fmt]
    · simp only [modFlow_sup h hs, modUni_sup h hs, State.modCore_modCore, Core.modCctx_modCctx]
      exact modCctx_congr fun y => by simp only [Uni.setMask, List.set_set, Flow.advance_fmt]

/-- Writing a vector register and going on changes that register only. -/
theorem setV_unchanged (h : x.isCt = false) (d : Nat) (f : Nat → Word) (t : Bool) (n : Nat) :
    Unchanged s ((s.setV x d f t).advance x n) x [.v d] := by
  unfold Unchanged State.outside State.setV State.advance State.modIssGroup State.modGroup
  simp only [List.foldl, State.blank, h, Bool.false_eq_true, if_false, modFlow_group h, State.modCore_modCore, State.modIssGroup, State.modGroup, Core.modGroup_modGroup]
  refine modGroup_congr fun g => ?_
  cases t <;> simp [Group.modSplit, modify_map_comp, Group.setV, clear_or, clear_clear, List.set_set]

/-- Writing a vector register and flags and going on changes those only. -/
theorem setVFlags_unchanged (h : x.isCt = false) (d : Nat) (f : Nat → Word) (t : Bool) (b : BitVec 5) (n : Nat) :
    Unchanged s (((s.setV x d f t).orFlags x b).advance x n) x [.v d, .flags] := by
  unfold Unchanged State.outside State.setV State.orFlags State.advance State.modIssGroup State.modGroup
  simp only [List.foldl, State.blank, h, Bool.false_eq_true, if_false, modFlow_group h, State.modCore_modCore, State.modIssGroup, State.modGroup, Core.modGroup_modGroup]
  refine modGroup_congr fun g => ?_
  cases t <;> simp [Group.modSplit, modify_map_comp, Group.setV, clear_or, clear_clear, List.set_set]

/-- A group instruction that is ready is issued by a group. -/
theorem ready_group {r : Req} (hr : Ready r s x) (h : r.who = .group) : x.isCt = false := by
  obtain ⟨y, -, h2⟩ := hr
  simp only [Req.gate, Req.check, h] at h2
  cases hy : y.isCt
  · simp [hy] at h2
    repeat' split at h2
    all_goals first | (injection h2 with h2; subst h2; simpa [Iss.isCt] using hy) | cases h2
  · simp [hy] at h2

end Sys2Proof.Machine
end

