-- ==== Sys2Proof/Laws/PerInstr.lean ====
section
/-! SUPPORT. What holds of every instruction as syntax: its opcode and fields select it again. -/
namespace Sys2Proof.Laws

/-- The instruction has an opcode and fields only if they name it in the opcode map, when it is well formed. -/
def Encoding.Statement (i : Instr) : Prop := ∀ r, i.raw = some r → i.wf = true → instrOfRaw r = some i

namespace Encoding

theorem nop (o : Op) : Statement (.nop o) := by
  rintro _ ⟨⟩ _; rfl
theorem shortPad : Statement (.shortPad) := by
  rintro _ ⟨⟩ _; rfl
theorem bra (o : B64) : Statement (.bra o) := by
  rintro _ ⟨⟩ _; rfl
theorem join (o : Op) : Statement (.join o) := by
  rintro _ ⟨⟩ _; rfl
theorem brk (o : Op) : Statement (.brk o) := by
  rintro _ ⟨⟩ _; rfl
theorem exit (o : Op) : Statement (.exit o) := by
  rintro _ ⟨⟩ _; rfl
theorem call (o : B64) : Statement (.call o) := by
  rintro _ ⟨⟩ _; rfl
theorem callo (o : I64) : Statement (.callo o) := by
  rintro _ ⟨⟩ _; rfl
theorem ret (o : Op) : Statement (.ret o) := by
  rintro _ ⟨⟩ _; rfl
theorem loop (o : I64) : Statement (.loop o) := by
  rintro _ ⟨⟩ _; rfl
theorem wait (o : I64) : Statement (.wait o) := by
  rintro _ ⟨⟩ _; rfl
theorem trap (o : I64) : Statement (.trap o) := by
  rintro _ ⟨⟩ _; rfl
theorem brkpt (o : Op) : Statement (.brkpt o) := by
  rintro _ ⟨⟩ _; rfl
theorem yield (o : Op) : Statement (.yield o) := by
  rintro _ ⟨⟩ _; rfl
theorem dqPush (o : Op) : Statement (.dqPush o) := by
  rintro _ ⟨⟩ h
  have hb : o.fn.getLsbD 0 = false := by
    have h1 : o.fn = 0#8 := by
      simp [Instr.wf, Machine.fieldsOk, Machine.vrow] at h
      exact BitVec.eq_of_toNat_eq (by simp [h])
    rw [h1]; rfl
  show some (if o.fn.getLsbD 0 then Instr.dqPop o else Instr.dqPush o) = _
  rw [hb]; rfl
theorem dqPop (o : Op) : Statement (.dqPop o) := by
  rintro _ ⟨⟩ h
  have hb : o.fn.getLsbD 0 = true := by
    have h1 : o.fn = 1#8 := by
      simp [Instr.wf, Machine.fieldsOk, Machine.vrow] at h
      exact BitVec.eq_of_toNat_eq (by simp [h])
    rw [h1]; rfl
  show some (if o.fn.getLsbD 0 then Instr.dqPop o else Instr.dqPush o) = _
  rw [hb]; rfl
theorem sprd (o : I64) : Statement (.sprd o) := by
  rintro _ ⟨⟩ h
  have hb : o.fn.getLsbD 0 = false := by
    have h1 : o.fn = 0#8 := by
      simp [Instr.wf, Machine.fieldsOk] at h
      simp [h]
    rw [h1]; rfl
  show some (if o.fn.getLsbD 0 then Instr.spwr o else Instr.sprd o) = _
  rw [hb]; rfl
theorem spwr (o : I64) : Statement (.spwr o) := by
  rintro _ ⟨⟩ h
  have hb : o.fn.getLsbD 0 = true := by
    have h1 : o.fn = 1#8 := by
      simp [Instr.wf, Machine.fieldsOk] at h
      simp [h]
    rw [h1]; rfl
  show some (if o.fn.getLsbD 0 then Instr.spwr o else Instr.sprd o) = _
  rw [hb]; rfl
theorem fmtset (o : Op) : Statement (.fmtset o) := by
  rintro _ ⟨⟩ _; rfl
theorem sadd (o : Op) : Statement (.sadd o) := by
  rintro _ ⟨⟩ _; rfl
theorem ssub (o : Op) : Statement (.ssub o) := by
  rintro _ ⟨⟩ _; rfl
theorem smul (o : Op) : Statement (.smul o) := by
  rintro _ ⟨⟩ _; rfl
theorem sdiv (o : Op) : Statement (.sdiv o) := by
  rintro _ ⟨⟩ _; rfl
theorem sand (o : Op) : Statement (.sand o) := by
  rintro _ ⟨⟩ _; rfl
theorem sor (o : Op) : Statement (.sor o) := by
  rintro _ ⟨⟩ _; rfl
theorem sxor (o : Op) : Statement (.sxor o) := by
  rintro _ ⟨⟩ _; rfl
theorem sshl (o : Op) : Statement (.sshl o) := by
  rintro _ ⟨⟩ _; rfl
theorem sshr (o : Op) : Statement (.sshr o) := by
  rintro _ ⟨⟩ _; rfl
theorem smin (o : Op) : Statement (.smin o) := by
  rintro _ ⟨⟩ _; rfl
theorem smax (o : Op) : Statement (.smax o) := by
  rintro _ ⟨⟩ _; rfl
theorem scmp (o : Op) : Statement (.scmp o) := by
  rintro _ ⟨⟩ _; rfl
theorem ssel (o : Op) : Statement (.ssel o) := by
  rintro _ ⟨⟩ _; rfl
theorem sbfx (o : Op) : Statement (.sbfx o) := by
  rintro _ ⟨⟩ _; rfl
theorem sbfi (o : Op) : Statement (.sbfi o) := by
  rintro _ ⟨⟩ _; rfl
theorem sbit (o : Op) : Statement (.sbit o) := by
  rintro _ ⟨⟩ _; rfl
theorem smov (o : Op) : Statement (.smov o) := by
  rintro _ ⟨⟩ _; rfl
theorem slea (o : M64) : Statement (.slea o) := by
  rintro _ ⟨⟩ _; rfl
theorem sld (o : M64) : Statement (.sld o) := by
  rintro _ ⟨⟩ _; rfl
theorem sst (o : M64) : Statement (.sst o) := by
  rintro _ ⟨⟩ _; rfl
theorem vtos (o : Op) : Statement (.vtos o) := by
  rintro _ ⟨⟩ _; rfl
theorem mtos (o : Op) : Statement (.mtos o) := by
  rintro _ ⟨⟩ _; rfl
theorem stom (o : Op) : Statement (.stom o) := by
  rintro _ ⟨⟩ _; rfl
theorem sclk (o : Op) : Statement (.sclk o) := by
  rintro _ ⟨⟩ _; rfl
theorem sid (o : Op) : Statement (.sid o) := by
  rintro _ ⟨⟩ _; rfl
theorem iadd (o : Op) : Statement (.iadd o) := by
  rintro _ ⟨⟩ _; rfl
theorem isub (o : Op) : Statement (.isub o) := by
  rintro _ ⟨⟩ _; rfl
theorem imul (o : Op) : Statement (.imul o) := by
  rintro _ ⟨⟩ _; rfl
theorem imad (o : Op) : Statement (.imad o) := by
  rintro _ ⟨⟩ _; rfl
theorem iand (o : Op) : Statement (.iand o) := by
  rintro _ ⟨⟩ _; rfl
theorem ior (o : Op) : Statement (.ior o) := by
  rintro _ ⟨⟩ _; rfl
theorem ixor (o : Op) : Statement (.ixor o) := by
  rintro _ ⟨⟩ _; rfl
theorem ishl (o : Op) : Statement (.ishl o) := by
  rintro _ ⟨⟩ _; rfl
theorem ishr (o : Op) : Statement (.ishr o) := by
  rintro _ ⟨⟩ _; rfl
theorem imin (o : Op) : Statement (.imin o) := by
  rintro _ ⟨⟩ _; rfl
theorem imax (o : Op) : Statement (.imax o) := by
  rintro _ ⟨⟩ _; rfl
theorem icmp (o : Op) : Statement (.icmp o) := by
  rintro _ ⟨⟩ _; rfl
theorem isel (o : Op) : Statement (.isel o) := by
  rintro _ ⟨⟩ _; rfl
theorem ibfx (o : Op) : Statement (.ibfx o) := by
  rintro _ ⟨⟩ _; rfl
theorem ibfi (o : Op) : Statement (.ibfi o) := by
  rintro _ ⟨⟩ _; rfl
theorem ibit (o : Op) : Statement (.ibit o) := by
  rintro _ ⟨⟩ _; rfl
theorem fadd (o : Op) : Statement (.fadd o) := by
  rintro _ ⟨⟩ _; rfl
theorem fsub (o : Op) : Statement (.fsub o) := by
  rintro _ ⟨⟩ _; rfl
theorem fmul (o : Op) : Statement (.fmul o) := by
  rintro _ ⟨⟩ _; rfl
theorem fma (o : Op) : Statement (.fma o) := by
  rintro _ ⟨⟩ _; rfl
theorem fmin (o : Op) : Statement (.fmin o) := by
  rintro _ ⟨⟩ _; rfl
theorem fmax (o : Op) : Statement (.fmax o) := by
  rintro _ ⟨⟩ _; rfl
theorem fcmp (o : Op) : Statement (.fcmp o) := by
  rintro _ ⟨⟩ _; rfl
theorem fdiv (o : Op) : Statement (.fdiv o) := by
  rintro _ ⟨⟩ _; rfl
theorem frcp (o : Op) : Statement (.frcp o) := by
  rintro _ ⟨⟩ _; rfl
theorem frsq (o : Op) : Statement (.frsq o) := by
  rintro _ ⟨⟩ _; rfl
theorem fsqrt (o : Op) : Statement (.fsqrt o) := by
  rintro _ ⟨⟩ _; rfl
theorem fex2 (o : Op) : Statement (.fex2 o) := by
  rintro _ ⟨⟩ _; rfl
theorem flg2 (o : Op) : Statement (.flg2 o) := by
  rintro _ ⟨⟩ _; rfl
theorem fsin (o : Op) : Statement (.fsin o) := by
  rintro _ ⟨⟩ _; rfl
theorem frnd (o : Op) : Statement (.frnd o) := by
  rintro _ ⟨⟩ _; rfl
theorem fdp3 (o : Op) : Statement (.fdp3 o) := by
  rintro _ ⟨⟩ _; rfl
theorem cvt (o : Op) : Statement (.cvt o) := by
  rintro _ ⟨⟩ _; rfl
theorem qpack (o : Op) : Statement (.qpack o) := by
  rintro _ ⟨⟩ _; rfl
theorem qunpk (o : Op) : Statement (.qunpk o) := by
  rintro _ ⟨⟩ _; rfl
theorem fscl (o : Op) : Statement (.fscl o) := by
  rintro _ ⟨⟩ _; rfl
theorem fcls (o : Op) : Statement (.fcls o) := by
  rintro _ ⟨⟩ _; rfl
theorem ffrx (o : Op) : Statement (.ffrx o) := by
  rintro _ ⟨⟩ _; rfl
theorem shfl (o : Op) : Statement (.shfl o) := by
  rintro _ ⟨⟩ _; rfl
theorem lrot (o : Op) : Statement (.lrot o) := by
  rintro _ ⟨⟩ _; rfl
theorem lbc (o : Op) : Statement (.lbc o) := by
  rintro _ ⟨⟩ _; rfl
theorem qswp (o : Op) : Statement (.qswp o) := by
  rintro _ ⟨⟩ _; rfl
theorem qddx (o : Op) : Statement (.qddx o) := by
  rintro _ ⟨⟩ _; rfl
theorem qddy (o : Op) : Statement (.qddy o) := by
  rintro _ ⟨⟩ _; rfl
theorem vote (o : Op) : Statement (.vote o) := by
  rintro _ ⟨⟩ _; rfl
theorem mlog (o : Op) : Statement (.mlog o) := by
  rintro _ ⟨⟩ _; rfl
theorem mcnt (o : Op) : Statement (.mcnt o) := by
  rintro _ ⟨⟩ _; rfl
theorem mfst (o : Op) : Statement (.mfst o) := by
  rintro _ ⟨⟩ _; rfl
theorem red (o : Op) : Statement (.red o) := by
  rintro _ ⟨⟩ _; rfl
theorem scan (o : Op) : Statement (.scan o) := by
  rintro _ ⟨⟩ _; rfl
theorem mget (o : Op) : Statement (.mget o) := by
  rintro _ ⟨⟩ _; rfl
theorem mset (o : Op) : Statement (.mset o) := by
  rintro _ ⟨⟩ _; rfl
theorem lid (o : Op) : Statement (.lid o) := by
  rintro _ ⟨⟩ _; rfl
theorem lpak (o : Op) : Statement (.lpak o) := by
  rintro _ ⟨⟩ _; rfl
theorem ld (o : M64) : Statement (.ld o) := by
  rintro _ ⟨⟩ _; rfl
theorem st (o : M64) : Statement (.st o) := by
  rintro _ ⟨⟩ _; rfl
theorem ldw (o : M64) : Statement (.ldw o) := by
  rintro _ ⟨⟩ _; rfl
theorem stw (o : M64) : Statement (.stw o) := by
  rintro _ ⟨⟩ _; rfl
theorem ldb (o : Op) : Statement (.ldb o) := by
  rintro _ ⟨⟩ _; rfl
theorem stb (o : Op) : Statement (.stb o) := by
  rintro _ ⟨⟩ _; rfl
theorem ldc (o : M64) : Statement (.ldc o) := by
  rintro _ ⟨⟩ _; rfl
theorem lda (o : M64) : Statement (.lda o) := by
  rintro _ ⟨⟩ _; rfl
theorem stl (o : M64) : Statement (.stl o) := by
  rintro _ ⟨⟩ _; rfl
theorem fence (o : Op) : Statement (.fence o) := by
  rintro _ ⟨⟩ _; rfl
theorem atom (o : M64) : Statement (.atom o) := by
  rintro _ ⟨⟩ _; rfl
theorem acas (o : M64) : Statement (.acas o) := by
  rintro _ ⟨⟩ _; rfl
theorem afadd (o : M64) : Statement (.afadd o) := by
  rintro _ ⟨⟩ _; rfl
theorem tclr (o : Op) : Statement (.tclr o) := by
  rintro _ ⟨⟩ _; rfl
theorem swadd (o : Op) : Statement (.swadd o) := by
  rintro _ ⟨⟩ _; rfl
theorem swmul (o : Op) : Statement (.swmul o) := by
  rintro _ ⟨⟩ _; rfl
theorem swfma (o : Op) : Statement (.swfma o) := by
  rintro _ ⟨⟩ _; rfl
theorem swmax (o : Op) : Statement (.swmax o) := by
  rintro _ ⟨⟩ _; rfl
theorem swmin (o : Op) : Statement (.swmin o) := by
  rintro _ ⟨⟩ _; rfl
theorem swcvt (o : Op) : Statement (.swcvt o) := by
  rintro _ ⟨⟩ _; rfl
theorem swmov (o : Op) : Statement (.swmov o) := by
  rintro _ ⟨⟩ _; rfl
theorem swfill (o : Op) : Statement (.swfill o) := by
  rintro _ ⟨⟩ _; rfl
theorem swred (o : Op) : Statement (.swred o) := by
  rintro _ ⟨⟩ _; rfl
theorem swsel (o : Op) : Statement (.swsel o) := by
  rintro _ ⟨⟩ _; rfl
theorem cpy (o : Op) : Statement (.cpy o) := by
  rintro _ ⟨⟩ _; rfl
theorem cpyx (o : Op) : Statement (.cpyx o) := by
  rintro _ ⟨⟩ _; rfl
theorem xst (o : Op) : Statement (.xst o) := by
  rintro _ ⟨⟩ _; rfl
theorem wbind (o : Op) : Statement (.wbind o) := by
  rintro _ ⟨⟩ _; rfl
theorem wfree (o : Op) : Statement (.wfree o) := by
  rintro _ ⟨⟩ _; rfl
theorem bini (o : Op) : Statement (.bini o) := by
  rintro _ ⟨⟩ _; rfl
theorem barv (o : Op) : Statement (.barv o) := by
  rintro _ ⟨⟩ _; rfl
theorem bwt (o : Op) : Statement (.bwt o) := by
  rintro _ ⟨⟩ _; rfl
theorem wcnt (o : Op) : Statement (.wcnt o) := by
  rintro _ ⟨⟩ _; rfl
theorem parv (o : B64) : Statement (.parv o) := by
  rintro _ ⟨⟩ _; rfl
theorem xmov (o : Op) : Statement (.xmov o) := by
  rintro _ ⟨⟩ _; rfl
theorem xput (o : Op) : Statement (.xput o) := by
  rintro _ ⟨⟩ _; rfl
theorem xmc (o : Op) : Statement (.xmc o) := by
  rintro _ ⟨⟩ _; rfl
theorem xgm (o : Op) : Statement (.xgm o) := by
  rintro _ ⟨⟩ _; rfl
theorem xadd (o : Op) : Statement (.xadd o) := by
  rintro _ ⟨⟩ _; rfl
theorem xend (o : Op) : Statement (.xend o) := by
  rintro _ ⟨⟩ _; rfl
theorem pcnt (o : Op) : Statement (.pcnt o) := by
  rintro _ ⟨⟩ _; rfl
theorem xsync (o : Op) : Statement (.xsync o) := by
  rintro _ ⟨⟩ _; rfl
theorem macq (o : Op) : Statement (.macq o) := by
  rintro _ ⟨⟩ _; rfl
theorem mrel (o : Op) : Statement (.mrel o) := by
  rintro _ ⟨⟩ _; rfl
theorem mgng (o : Op) : Statement (.mgng o) := by
  rintro _ ⟨⟩ _; rfl
theorem mlds (o : Op) : Statement (.mlds o) := by
  rintro _ ⟨⟩ _; rfl
theorem mflp (o : Op) : Statement (.mflp o) := by
  rintro _ ⟨⟩ _; rfl
theorem mstr (o : Op) : Statement (.mstr o) := by
  rintro _ ⟨⟩ _; rfl
theorem mout (o : Op) : Statement (.mout o) := by
  rintro _ ⟨⟩ _; rfl
theorem mclr (o : Op) : Statement (.mclr o) := by
  rintro _ ⟨⟩ _; rfl
theorem mcfg (o : Op) : Statement (.mcfg o) := by
  rintro _ ⟨⟩ _; rfl
theorem mprm (o : Op) : Statement (.mprm o) := by
  rintro _ ⟨⟩ _; rfl
theorem gapp (o : Op) : Statement (.gapp o) := by
  rintro _ ⟨⟩ _; rfl
theorem grd (o : Op) : Statement (.grd o) := by
  rintro _ ⟨⟩ _; rfl
theorem gcon (o : Op) : Statement (.gcon o) := by
  rintro _ ⟨⟩ _; rfl
theorem gwgt (o : Op) : Statement (.gwgt o) := by
  rintro _ ⟨⟩ _; rfl
theorem gmrg (o : Op) : Statement (.gmrg o) := by
  rintro _ ⟨⟩ _; rfl
theorem grwt (o : Op) : Statement (.grwt o) := by
  rintro _ ⟨⟩ _; rfl
theorem gret (o : Op) : Statement (.gret o) := by
  rintro _ ⟨⟩ _; rfl
theorem gkep (o : Op) : Statement (.gkep o) := by
  rintro _ ⟨⟩ _; rfl
theorem gfrmRho (o : Op) : Statement (.gfrmRho o) := by
  rintro _ ⟨⟩ h
  have hb : Machine.bits o.fn 0 2 = 0 := by
    simp [Instr.wf, Machine.fieldsOk, Machine.gfrow] at h
    simp [h]
  show some (if Machine.bits o.fn 0 2 = 0 then Instr.gfrmRho o else if Machine.bits o.fn 0 2 = 1 then Instr.gfrmOpen o
    else Instr.gfrmRel o) = _
  rw [hb]; rfl
theorem gfrmOpen (o : Op) : Statement (.gfrmOpen o) := by
  rintro _ ⟨⟩ h
  have hb : Machine.bits o.fn 0 2 = 1 := by
    simp [Instr.wf, Machine.fieldsOk, Machine.gfrow] at h
    simp [h]
  show some (if Machine.bits o.fn 0 2 = 0 then Instr.gfrmRho o else if Machine.bits o.fn 0 2 = 1 then Instr.gfrmOpen o
    else Instr.gfrmRel o) = _
  rw [hb]; rfl
theorem gfrmRel (o : Op) : Statement (.gfrmRel o) := by
  rintro _ ⟨⟩ h
  have hb : Machine.bits o.fn 0 2 = 2 := by
    simp [Instr.wf, Machine.fieldsOk, Machine.gfrow] at h
    simp [h]
  show some (if Machine.bits o.fn 0 2 = 0 then Instr.gfrmRho o else if Machine.bits o.fn 0 2 = 1 then Instr.gfrmOpen o
    else Instr.gfrmRel o) = _
  rw [hb]; rfl
theorem gsta (o : Op) : Statement (.gsta o) := by
  rintro _ ⟨⟩ _; rfl
theorem trc (o : Op) : Statement (.trc o) := by
  rintro _ ⟨⟩ _; rfl
theorem tnx (o : Op) : Statement (.tnx o) := by
  rintro _ ⟨⟩ _; rfl
theorem rpak (o : Op) : Statement (.rpak o) := by
  rintro _ ⟨⟩ _; rfl
theorem rast (o : Op) : Statement (.rast o) := by
  rintro _ ⟨⟩ _; rfl
theorem srat (o : Op) : Statement (.srat o) := by
  rintro _ ⟨⟩ _; rfl
theorem twb (o : Op) : Statement (.twb o) := by
  rintro _ ⟨⟩ _; rfl
theorem scnb (o : Op) : Statement (.scnb o) := by
  rintro _ ⟨⟩ _; rfl
theorem scnp (o : Op) : Statement (.scnp o) := by
  rintro _ ⟨⟩ _; rfl
theorem ovld (o : Op) : Statement (.ovld o) := by
  rintro _ ⟨⟩ _; rfl
theorem ovq (o : Op) : Statement (.ovq o) := by
  rintro _ ⟨⟩ _; rfl
theorem ovev (o : Op) : Statement (.ovev o) := by
  rintro _ ⟨⟩ _; rfl
theorem rgiv (o : Op) : Statement (.rgiv o) := by
  rintro _ ⟨⟩ _; rfl
theorem rclm (o : Op) : Statement (.rclm o) := by
  rintro _ ⟨⟩ _; rfl
theorem rpol (o : Op) : Statement (.rpol o) := by
  rintro _ ⟨⟩ _; rfl
theorem lnch (o : Op) : Statement (.lnch o) := by
  rintro _ ⟨⟩ _; rfl
theorem tret (o : Op) : Statement (.tret o) := by
  rintro _ ⟨⟩ _; rfl
theorem csrd (o : I64) : Statement (.csrd o) := by
  rintro _ ⟨⟩ _; rfl
theorem cswr (o : I64) : Statement (.cswr o) := by
  rintro _ ⟨⟩ _; rfl
theorem tinv (o : Op) : Statement (.tinv o) := by
  rintro _ ⟨⟩ _; rfl
theorem ctsv (o : Op) : Statement (.ctsv o) := by
  rintro _ ⟨⟩ _; rfl
theorem ctld (o : Op) : Statement (.ctld o) := by
  rintro _ ⟨⟩ _; rfl
theorem pdetDet (o : Op) : Statement (.pdetDet o) := by
  rintro _ ⟨⟩ h
  have hb : o.fn.getLsbD 0 = false := by
    have h1 : o.fn = 0#8 := by
      simp [Instr.wf, Machine.fieldsOk, Machine.vrow] at h
      exact BitVec.eq_of_toNat_eq (by simp [h])
    rw [h1]; rfl
  show some (if o.fn.getLsbD 0 then Instr.pdetAtt o else Instr.pdetDet o) = _
  rw [hb]; rfl
theorem pdetAtt (o : Op) : Statement (.pdetAtt o) := by
  rintro _ ⟨⟩ h
  have hb : o.fn.getLsbD 0 = true := by
    have h1 : o.fn = 1#8 := by
      simp [Instr.wf, Machine.fieldsOk, Machine.vrow] at h
      exact BitVec.eq_of_toNat_eq (by simp [h])
    rw [h1]; rfl
  show some (if o.fn.getLsbD 0 then Instr.pdetAtt o else Instr.pdetDet o) = _
  rw [hb]; rfl
theorem halt (o : Op) : Statement (.halt o) := by
  rintro _ ⟨⟩ _; rfl
theorem vtosResult (core : Nat) (id : Nat) : Statement (.vtosResult core id) := by
  rintro _ ⟨⟩
theorem loadDataReturn (core : Nat) (id : Nat) : Statement (.loadDataReturn core id) := by
  rintro _ ⟨⟩
theorem atomicResultReturn (core : Nat) (id : Nat) : Statement (.atomicResultReturn core id) := by
  rintro _ ⟨⟩
theorem sweepExecute (core : Nat) (id : Nat) : Statement (.sweepExecute core id) := by
  rintro _ ⟨⟩
theorem copyExecute (core : Nat) (id : Nat) : Statement (.copyExecute core id) := by
  rintro _ ⟨⟩
theorem depositArrival (id : Nat) : Statement (.depositArrival id) := by
  rintro _ ⟨⟩
theorem depositAck (id : Nat) : Statement (.depositAck id) := by
  rintro _ ⟨⟩
theorem barrierArrival (id : Nat) : Statement (.barrierArrival id) := by
  rintro _ ⟨⟩
theorem heldArrivalRelease (id : Nat) : Statement (.heldArrivalRelease id) := by
  rintro _ ⟨⟩
theorem groupPark (core : Nat) (g : Nat) : Statement (.groupPark core g) := by
  rintro _ ⟨⟩
theorem ctArrive (core : Nat) (ctx : Nat) : Statement (.ctArrive core ctx) := by
  rintro _ ⟨⟩
theorem exchangeTransferExecute (core : Nat) (id : Nat) : Statement (.exchangeTransferExecute core id) := by
  rintro _ ⟨⟩
theorem xsyncStageEnd (ctx : Nat) : Statement (.xsyncStageEnd ctx) := by
  rintro _ ⟨⟩
theorem macqGrant (core : Nat) : Statement (.macqGrant core) := by
  rintro _ ⟨⟩
theorem engineRelease (core : Nat) : Statement (.engineRelease core) := by
  rintro _ ⟨⟩
theorem preemption (core : Nat) : Statement (.preemption core) := by
  rintro _ ⟨⟩
theorem gangRendezvous (core : Nat) (wg : Nat) : Statement (.gangRendezvous core wg) := by
  rintro _ ⟨⟩
theorem jointInstructionRelease (core : Nat) (wg : Nat) : Statement (.jointInstructionRelease core wg) := by
  rintro _ ⟨⟩
theorem planeLoad (core : Nat) : Statement (.planeLoad core) := by
  rintro _ ⟨⟩
theorem planeFlip (core : Nat) : Statement (.planeFlip core) := by
  rintro _ ⟨⟩
theorem accumulationStep (core : Nat) : Statement (.accumulationStep core) := by
  rintro _ ⟨⟩
theorem accumulatorOutput (core : Nat) : Statement (.accumulatorOutput core) := by
  rintro _ ⟨⟩
theorem bankClear (core : Nat) : Statement (.bankClear core) := by
  rintro _ ⟨⟩
theorem graphResult (core : Nat) (id : Nat) : Statement (.graphResult core id) := by
  rintro _ ⟨⟩
theorem traceResult (core : Nat) (id : Nat) : Statement (.traceResult core id) := by
  rintro _ ⟨⟩
theorem repackStep (core : Nat) (wg : Nat) : Statement (.repackStep core wg) := by
  rintro _ ⟨⟩
theorem rastComplete (core : Nat) (id : Nat) : Statement (.rastComplete core id) := by
  rintro _ ⟨⟩
theorem twbComplete (core : Nat) (id : Nat) : Statement (.twbComplete core id) := by
  rintro _ ⟨⟩
theorem sceneBuildComplete (core : Nat) (id : Nat) : Statement (.sceneBuildComplete core id) := by
  rintro _ ⟨⟩
theorem fillComplete (core : Nat) (id : Nat) : Statement (.fillComplete core id) := by
  rintro _ ⟨⟩
theorem fillQueueServe (core : Nat) : Statement (.fillQueueServe core) := by
  rintro _ ⟨⟩
theorem rclmClaimServed (core : Nat) : Statement (.rclmClaimServed core) := by
  rintro _ ⟨⟩
theorem rclmClaimFail (core : Nat) : Statement (.rclmClaimFail core) := by
  rintro _ ⟨⟩
theorem trapDelivery (core : Nat) (ctx : Nat) : Statement (.trapDelivery core ctx) := by
  rintro _ ⟨⟩
theorem splitUrgent (core : Nat) (g : Nat) (entry : Nat) : Statement (.splitUrgent core g entry) := by
  rintro _ ⟨⟩
theorem cToXBoundary : Statement (.cToXBoundary) := by
  rintro _ ⟨⟩
theorem xToCBoundary : Statement (.xToCBoundary) := by
  rintro _ ⟨⟩
theorem contextSave (ctx : Nat) : Statement (.contextSave ctx) := by
  rintro _ ⟨⟩
theorem contextRestore (ctx : Nat) : Statement (.contextRestore ctx) := by
  rintro _ ⟨⟩
theorem contextReset (ctx : Nat) : Statement (.contextReset ctx) := by
  rintro _ ⟨⟩
theorem deadlineMissed (ctx : Nat) : Statement (.deadlineMissed ctx) := by
  rintro _ ⟨⟩
theorem stragglerEvent : Statement (.stragglerEvent) := by
  rintro _ ⟨⟩
theorem stragglerDetach : Statement (.stragglerDetach) := by
  rintro _ ⟨⟩
theorem queueEnable (q : Nat) (v : DWord) : Statement (.queueEnable q v) := by
  rintro _ ⟨⟩
theorem widxWrite (q : Nat) (v : DWord) : Statement (.widxWrite q v) := by
  rintro _ ⟨⟩
theorem explimWrite (v : DWord) : Statement (.explimWrite v) := by
  rintro _ ⟨⟩
theorem ringEnableWrite (v : DWord) : Statement (.ringEnableWrite v) := by
  rintro _ ⟨⟩
theorem registerWrite (off : Nat) (v : DWord) : Statement (.registerWrite off v) := by
  rintro _ ⟨⟩
theorem ringArrive (node : BitVec 8) : Statement (.ringArrive node) := by
  rintro _ ⟨⟩
theorem ringRelease : Statement (.ringRelease) := by
  rintro _ ⟨⟩
theorem ringTimeout : Statement (.ringTimeout) := by
  rintro _ ⟨⟩
theorem ringDrop : Statement (.ringDrop) := by
  rintro _ ⟨⟩
theorem fabricAccess (a : FabricAccess) : Statement (.fabricAccess a) := by
  rintro _ ⟨⟩
theorem powerOnReset (b : BootInputs) : Statement (.powerOnReset b) := by
  rintro _ ⟨⟩
theorem attestationRequest (nonce : List Byte) : Statement (.attestationRequest nonce) := by
  rintro _ ⟨⟩
theorem supplyDroopEvent (core : Nat) : Statement (.supplyDroopEvent core) := by
  rintro _ ⟨⟩

end Encoding
end Sys2Proof.Laws
end

