-- ==== Sys2Proof/Laws/State.lean ====
section
/-! SUPPORT. Reading a state, a core, a group and a register file after an update: one lemma for each field and update, and
what reading the updated place gives. -/
namespace Sys2Proof.Machine

/-! Fields of the state. -/

section
variable (s : State) (k n : Nat) (f : Core → Core) (g : Ctx → Ctx) (h : Group → Group) (j : CoreCtx → CoreCtx) (p : Party)
  (u : Uni → Uni)
@[simp] theorem State.modCore_cur : (s.modCore k f).cur = s.cur := rfl
@[simp] theorem State.modCore_agenda : (s.modCore k f).agenda = s.agenda := rfl
@[simp] theorem State.modCore_ticks : (s.modCore k f).ticks = s.ticks := rfl
@[simp] theorem State.modCore_nextId : (s.modCore k f).nextId = s.nextId := rfl
@[simp] theorem State.modCore_clock : (s.modCore k f).clock = s.clock := rfl
@[simp] theorem State.modCore_phase : (s.modCore k f).phase = s.phase := rfl
@[simp] theorem State.modCore_gddr : (s.modCore k f).gddr = s.gddr := rfl
@[simp] theorem State.modCore_gddrStart : (s.modCore k f).gddrStart = s.gddrStart := rfl
@[simp] theorem State.modCore_gddrErr : (s.modCore k f).gddrErr = s.gddrErr := rfl
@[simp] theorem State.modCore_remote : (s.modCore k f).remote = s.remote := rfl
@[simp] theorem State.modCore_remoteStart : (s.modCore k f).remoteStart = s.remoteStart := rfl
@[simp] theorem State.modCore_tlb : (s.modCore k f).tlb = s.tlb := rfl
@[simp] theorem State.modCore_port : (s.modCore k f).port = s.port := rfl
@[simp] theorem State.modCore_ctxs : (s.modCore k f).ctxs = s.ctxs := rfl
@[simp] theorem State.modCore_deposits : (s.modCore k f).deposits = s.deposits := rfl
@[simp] theorem State.modCore_arrivals : (s.modCore k f).arrivals = s.arrivals := rfl
@[simp] theorem State.modCore_window : (s.modCore k f).window = s.window := rfl
@[simp] theorem State.modCore_boot : (s.modCore k f).boot = s.boot := rfl
@[simp] theorem State.modCore_bootFail : (s.modCore k f).bootFail = s.bootFail := rfl
@[simp] theorem State.modCore_stations : (s.modCore k f).stations = s.stations := rfl
@[simp] theorem State.modCore_lsize : (s.modCore k f).lsize = s.lsize := rfl
@[simp] theorem State.modCore_portWidth : (s.modCore k f).portWidth = s.portWidth := rfl
@[simp] theorem State.modCore_testLog : (s.modCore k f).testLog = s.testLog := rfl
@[simp] theorem State.modCore_measured : (s.modCore k f).measured = s.measured := rfl
@[simp] theorem State.modCore_publicKey : (s.modCore k f).publicKey = s.publicKey := rfl
@[simp] theorem State.modCore_certificate : (s.modCore k f).certificate = s.certificate := rfl
@[simp] theorem State.modCore_distributor : (s.modCore k f).distributor = s.distributor := rfl
@[simp] theorem State.modCore_psto1 : (s.modCore k f).psto1 = s.psto1 := rfl
@[simp] theorem State.modCore_psto2 : (s.modCore k f).psto2 = s.psto2 := rfl
@[simp] theorem State.modCore_straggle : (s.modCore k f).straggle = s.straggle := rfl
@[simp] theorem State.modCore_warned : (s.modCore k f).warned = s.warned := rfl
@[simp] theorem State.modCore_reqs : (s.modCore k f).reqs = s.reqs := rfl
@[simp] theorem State.modCore_loss : (s.modCore k f).loss = s.loss := rfl
@[simp] theorem State.modCore_explim : (s.modCore k f).explim = s.explim := rfl
@[simp] theorem State.modCore_node : (s.modCore k f).node = s.node := rfl
@[simp] theorem State.modCore_routes : (s.modCore k f).routes = s.routes := rfl
@[simp] theorem State.modCore_ring : (s.modCore k f).ring = s.ring := rfl
@[simp] theorem State.modCore_queues : (s.modCore k f).queues = s.queues := rfl
@[simp] theorem State.modCore_launches : (s.modCore k f).launches = s.launches := rfl
@[simp] theorem State.modCore_lastServed : (s.modCore k f).lastServed = s.lastServed := rfl
@[simp] theorem State.modCore_outbox : (s.modCore k f).outbox = s.outbox := rfl
@[simp] theorem State.modCore_saves : (s.modCore k f).saves = s.saves := rfl
@[simp] theorem State.modCtx_cur : (s.modCtx n g).cur = s.cur := rfl
@[simp] theorem State.modCtx_agenda : (s.modCtx n g).agenda = s.agenda := rfl
@[simp] theorem State.modCtx_ticks : (s.modCtx n g).ticks = s.ticks := rfl
@[simp] theorem State.modCtx_nextId : (s.modCtx n g).nextId = s.nextId := rfl
@[simp] theorem State.modCtx_clock : (s.modCtx n g).clock = s.clock := rfl
@[simp] theorem State.modCtx_phase : (s.modCtx n g).phase = s.phase := rfl
@[simp] theorem State.modCtx_gddr : (s.modCtx n g).gddr = s.gddr := rfl
@[simp] theorem State.modCtx_gddrStart : (s.modCtx n g).gddrStart = s.gddrStart := rfl
@[simp] theorem State.modCtx_gddrErr : (s.modCtx n g).gddrErr = s.gddrErr := rfl
@[simp] theorem State.modCtx_remote : (s.modCtx n g).remote = s.remote := rfl
@[simp] theorem State.modCtx_remoteStart : (s.modCtx n g).remoteStart = s.remoteStart := rfl
@[simp] theorem State.modCtx_tlb : (s.modCtx n g).tlb = s.tlb := rfl
@[simp] theorem State.modCtx_port : (s.modCtx n g).port = s.port := rfl
@[simp] theorem State.modCtx_cores : (s.modCtx n g).cores = s.cores := rfl
@[simp] theorem State.modCtx_deposits : (s.modCtx n g).deposits = s.deposits := rfl
@[simp] theorem State.modCtx_arrivals : (s.modCtx n g).arrivals = s.arrivals := rfl
@[simp] theorem State.modCtx_window : (s.modCtx n g).window = s.window := rfl
@[simp] theorem State.modCtx_boot : (s.modCtx n g).boot = s.boot := rfl
@[simp] theorem State.modCtx_bootFail : (s.modCtx n g).bootFail = s.bootFail := rfl
@[simp] theorem State.modCtx_stations : (s.modCtx n g).stations = s.stations := rfl
@[simp] theorem State.modCtx_lsize : (s.modCtx n g).lsize = s.lsize := rfl
@[simp] theorem State.modCtx_portWidth : (s.modCtx n g).portWidth = s.portWidth := rfl
@[simp] theorem State.modCtx_testLog : (s.modCtx n g).testLog = s.testLog := rfl
@[simp] theorem State.modCtx_measured : (s.modCtx n g).measured = s.measured := rfl
@[simp] theorem State.modCtx_publicKey : (s.modCtx n g).publicKey = s.publicKey := rfl
@[simp] theorem State.modCtx_certificate : (s.modCtx n g).certificate = s.certificate := rfl
@[simp] theorem State.modCtx_distributor : (s.modCtx n g).distributor = s.distributor := rfl
@[simp] theorem State.modCtx_psto1 : (s.modCtx n g).psto1 = s.psto1 := rfl
@[simp] theorem State.modCtx_psto2 : (s.modCtx n g).psto2 = s.psto2 := rfl
@[simp] theorem State.modCtx_straggle : (s.modCtx n g).straggle = s.straggle := rfl
@[simp] theorem State.modCtx_warned : (s.modCtx n g).warned = s.warned := rfl
@[simp] theorem State.modCtx_reqs : (s.modCtx n g).reqs = s.reqs := rfl
@[simp] theorem State.modCtx_loss : (s.modCtx n g).loss = s.loss := rfl
@[simp] theorem State.modCtx_explim : (s.modCtx n g).explim = s.explim := rfl
@[simp] theorem State.modCtx_node : (s.modCtx n g).node = s.node := rfl
@[simp] theorem State.modCtx_routes : (s.modCtx n g).routes = s.routes := rfl
@[simp] theorem State.modCtx_ring : (s.modCtx n g).ring = s.ring := rfl
@[simp] theorem State.modCtx_queues : (s.modCtx n g).queues = s.queues := rfl
@[simp] theorem State.modCtx_launches : (s.modCtx n g).launches = s.launches := rfl
@[simp] theorem State.modCtx_lastServed : (s.modCtx n g).lastServed = s.lastServed := rfl
@[simp] theorem State.modCtx_outbox : (s.modCtx n g).outbox = s.outbox := rfl
@[simp] theorem State.modCtx_saves : (s.modCtx n g).saves = s.saves := rfl
@[simp] theorem State.modGroup_cur : (s.modGroup k n h).cur = s.cur := rfl
@[simp] theorem State.modGroup_agenda : (s.modGroup k n h).agenda = s.agenda := rfl
@[simp] theorem State.modGroup_ticks : (s.modGroup k n h).ticks = s.ticks := rfl
@[simp] theorem State.modGroup_nextId : (s.modGroup k n h).nextId = s.nextId := rfl
@[simp] theorem State.modGroup_clock : (s.modGroup k n h).clock = s.clock := rfl
@[simp] theorem State.modGroup_phase : (s.modGroup k n h).phase = s.phase := rfl
@[simp] theorem State.modGroup_gddr : (s.modGroup k n h).gddr = s.gddr := rfl
@[simp] theorem State.modGroup_gddrStart : (s.modGroup k n h).gddrStart = s.gddrStart := rfl
@[simp] theorem State.modGroup_gddrErr : (s.modGroup k n h).gddrErr = s.gddrErr := rfl
@[simp] theorem State.modGroup_remote : (s.modGroup k n h).remote = s.remote := rfl
@[simp] theorem State.modGroup_remoteStart : (s.modGroup k n h).remoteStart = s.remoteStart := rfl
@[simp] theorem State.modGroup_tlb : (s.modGroup k n h).tlb = s.tlb := rfl
@[simp] theorem State.modGroup_port : (s.modGroup k n h).port = s.port := rfl
@[simp] theorem State.modGroup_ctxs : (s.modGroup k n h).ctxs = s.ctxs := rfl
@[simp] theorem State.modGroup_deposits : (s.modGroup k n h).deposits = s.deposits := rfl
@[simp] theorem State.modGroup_arrivals : (s.modGroup k n h).arrivals = s.arrivals := rfl
@[simp] theorem State.modGroup_window : (s.modGroup k n h).window = s.window := rfl
@[simp] theorem State.modGroup_boot : (s.modGroup k n h).boot = s.boot := rfl
@[simp] theorem State.modGroup_bootFail : (s.modGroup k n h).bootFail = s.bootFail := rfl
@[simp] theorem State.modGroup_stations : (s.modGroup k n h).stations = s.stations := rfl
@[simp] theorem State.modGroup_lsize : (s.modGroup k n h).lsize = s.lsize := rfl
@[simp] theorem State.modGroup_portWidth : (s.modGroup k n h).portWidth = s.portWidth := rfl
@[simp] theorem State.modGroup_testLog : (s.modGroup k n h).testLog = s.testLog := rfl
@[simp] theorem State.modGroup_measured : (s.modGroup k n h).measured = s.measured := rfl
@[simp] theorem State.modGroup_publicKey : (s.modGroup k n h).publicKey = s.publicKey := rfl
@[simp] theorem State.modGroup_certificate : (s.modGroup k n h).certificate = s.certificate := rfl
@[simp] theorem State.modGroup_distributor : (s.modGroup k n h).distributor = s.distributor := rfl
@[simp] theorem State.modGroup_psto1 : (s.modGroup k n h).psto1 = s.psto1 := rfl
@[simp] theorem State.modGroup_psto2 : (s.modGroup k n h).psto2 = s.psto2 := rfl
@[simp] theorem State.modGroup_straggle : (s.modGroup k n h).straggle = s.straggle := rfl
@[simp] theorem State.modGroup_warned : (s.modGroup k n h).warned = s.warned := rfl
@[simp] theorem State.modGroup_reqs : (s.modGroup k n h).reqs = s.reqs := rfl
@[simp] theorem State.modGroup_loss : (s.modGroup k n h).loss = s.loss := rfl
@[simp] theorem State.modGroup_explim : (s.modGroup k n h).explim = s.explim := rfl
@[simp] theorem State.modGroup_node : (s.modGroup k n h).node = s.node := rfl
@[simp] theorem State.modGroup_routes : (s.modGroup k n h).routes = s.routes := rfl
@[simp] theorem State.modGroup_ring : (s.modGroup k n h).ring = s.ring := rfl
@[simp] theorem State.modGroup_queues : (s.modGroup k n h).queues = s.queues := rfl
@[simp] theorem State.modGroup_launches : (s.modGroup k n h).launches = s.launches := rfl
@[simp] theorem State.modGroup_lastServed : (s.modGroup k n h).lastServed = s.lastServed := rfl
@[simp] theorem State.modGroup_outbox : (s.modGroup k n h).outbox = s.outbox := rfl
@[simp] theorem State.modGroup_saves : (s.modGroup k n h).saves = s.saves := rfl
@[simp] theorem State.modCctx_cur : (s.modCctx k n j).cur = s.cur := rfl
@[simp] theorem State.modCctx_agenda : (s.modCctx k n j).agenda = s.agenda := rfl
@[simp] theorem State.modCctx_ticks : (s.modCctx k n j).ticks = s.ticks := rfl
@[simp] theorem State.modCctx_nextId : (s.modCctx k n j).nextId = s.nextId := rfl
@[simp] theorem State.modCctx_clock : (s.modCctx k n j).clock = s.clock := rfl
@[simp] theorem State.modCctx_phase : (s.modCctx k n j).phase = s.phase := rfl
@[simp] theorem State.modCctx_gddr : (s.modCctx k n j).gddr = s.gddr := rfl
@[simp] theorem State.modCctx_gddrStart : (s.modCctx k n j).gddrStart = s.gddrStart := rfl
@[simp] theorem State.modCctx_gddrErr : (s.modCctx k n j).gddrErr = s.gddrErr := rfl
@[simp] theorem State.modCctx_remote : (s.modCctx k n j).remote = s.remote := rfl
@[simp] theorem State.modCctx_remoteStart : (s.modCctx k n j).remoteStart = s.remoteStart := rfl
@[simp] theorem State.modCctx_tlb : (s.modCctx k n j).tlb = s.tlb := rfl
@[simp] theorem State.modCctx_port : (s.modCctx k n j).port = s.port := rfl
@[simp] theorem State.modCctx_ctxs : (s.modCctx k n j).ctxs = s.ctxs := rfl
@[simp] theorem State.modCctx_deposits : (s.modCctx k n j).deposits = s.deposits := rfl
@[simp] theorem State.modCctx_arrivals : (s.modCctx k n j).arrivals = s.arrivals := rfl
@[simp] theorem State.modCctx_window : (s.modCctx k n j).window = s.window := rfl
@[simp] theorem State.modCctx_boot : (s.modCctx k n j).boot = s.boot := rfl
@[simp] theorem State.modCctx_bootFail : (s.modCctx k n j).bootFail = s.bootFail := rfl
@[simp] theorem State.modCctx_stations : (s.modCctx k n j).stations = s.stations := rfl
@[simp] theorem State.modCctx_lsize : (s.modCctx k n j).lsize = s.lsize := rfl
@[simp] theorem State.modCctx_portWidth : (s.modCctx k n j).portWidth = s.portWidth := rfl
@[simp] theorem State.modCctx_testLog : (s.modCctx k n j).testLog = s.testLog := rfl
@[simp] theorem State.modCctx_measured : (s.modCctx k n j).measured = s.measured := rfl
@[simp] theorem State.modCctx_publicKey : (s.modCctx k n j).publicKey = s.publicKey := rfl
@[simp] theorem State.modCctx_certificate : (s.modCctx k n j).certificate = s.certificate := rfl
@[simp] theorem State.modCctx_distributor : (s.modCctx k n j).distributor = s.distributor := rfl
@[simp] theorem State.modCctx_psto1 : (s.modCctx k n j).psto1 = s.psto1 := rfl
@[simp] theorem State.modCctx_psto2 : (s.modCctx k n j).psto2 = s.psto2 := rfl
@[simp] theorem State.modCctx_straggle : (s.modCctx k n j).straggle = s.straggle := rfl
@[simp] theorem State.modCctx_warned : (s.modCctx k n j).warned = s.warned := rfl
@[simp] theorem State.modCctx_reqs : (s.modCctx k n j).reqs = s.reqs := rfl
@[simp] theorem State.modCctx_loss : (s.modCctx k n j).loss = s.loss := rfl
@[simp] theorem State.modCctx_explim : (s.modCctx k n j).explim = s.explim := rfl
@[simp] theorem State.modCctx_node : (s.modCctx k n j).node = s.node := rfl
@[simp] theorem State.modCctx_routes : (s.modCctx k n j).routes = s.routes := rfl
@[simp] theorem State.modCctx_ring : (s.modCctx k n j).ring = s.ring := rfl
@[simp] theorem State.modCctx_queues : (s.modCctx k n j).queues = s.queues := rfl
@[simp] theorem State.modCctx_launches : (s.modCctx k n j).launches = s.launches := rfl
@[simp] theorem State.modCctx_lastServed : (s.modCctx k n j).lastServed = s.lastServed := rfl
@[simp] theorem State.modCctx_outbox : (s.modCctx k n j).outbox = s.outbox := rfl
@[simp] theorem State.modCctx_saves : (s.modCctx k n j).saves = s.saves := rfl
@[simp] theorem State.modParty_cur : (s.modParty k p u).cur = s.cur := rfl
@[simp] theorem State.modParty_agenda : (s.modParty k p u).agenda = s.agenda := rfl
@[simp] theorem State.modParty_ticks : (s.modParty k p u).ticks = s.ticks := rfl
@[simp] theorem State.modParty_nextId : (s.modParty k p u).nextId = s.nextId := rfl
@[simp] theorem State.modParty_clock : (s.modParty k p u).clock = s.clock := rfl
@[simp] theorem State.modParty_phase : (s.modParty k p u).phase = s.phase := rfl
@[simp] theorem State.modParty_gddr : (s.modParty k p u).gddr = s.gddr := rfl
@[simp] theorem State.modParty_gddrStart : (s.modParty k p u).gddrStart = s.gddrStart := rfl
@[simp] theorem State.modParty_gddrErr : (s.modParty k p u).gddrErr = s.gddrErr := rfl
@[simp] theorem State.modParty_remote : (s.modParty k p u).remote = s.remote := rfl
@[simp] theorem State.modParty_remoteStart : (s.modParty k p u).remoteStart = s.remoteStart := rfl
@[simp] theorem State.modParty_tlb : (s.modParty k p u).tlb = s.tlb := rfl
@[simp] theorem State.modParty_port : (s.modParty k p u).port = s.port := rfl
@[simp] theorem State.modParty_ctxs : (s.modParty k p u).ctxs = s.ctxs := rfl
@[simp] theorem State.modParty_deposits : (s.modParty k p u).deposits = s.deposits := rfl
@[simp] theorem State.modParty_arrivals : (s.modParty k p u).arrivals = s.arrivals := rfl
@[simp] theorem State.modParty_window : (s.modParty k p u).window = s.window := rfl
@[simp] theorem State.modParty_boot : (s.modParty k p u).boot = s.boot := rfl
@[simp] theorem State.modParty_bootFail : (s.modParty k p u).bootFail = s.bootFail := rfl
@[simp] theorem State.modParty_stations : (s.modParty k p u).stations = s.stations := rfl
@[simp] theorem State.modParty_lsize : (s.modParty k p u).lsize = s.lsize := rfl
@[simp] theorem State.modParty_portWidth : (s.modParty k p u).portWidth = s.portWidth := rfl
@[simp] theorem State.modParty_testLog : (s.modParty k p u).testLog = s.testLog := rfl
@[simp] theorem State.modParty_measured : (s.modParty k p u).measured = s.measured := rfl
@[simp] theorem State.modParty_publicKey : (s.modParty k p u).publicKey = s.publicKey := rfl
@[simp] theorem State.modParty_certificate : (s.modParty k p u).certificate = s.certificate := rfl
@[simp] theorem State.modParty_distributor : (s.modParty k p u).distributor = s.distributor := rfl
@[simp] theorem State.modParty_psto1 : (s.modParty k p u).psto1 = s.psto1 := rfl
@[simp] theorem State.modParty_psto2 : (s.modParty k p u).psto2 = s.psto2 := rfl
@[simp] theorem State.modParty_straggle : (s.modParty k p u).straggle = s.straggle := rfl
@[simp] theorem State.modParty_warned : (s.modParty k p u).warned = s.warned := rfl
@[simp] theorem State.modParty_reqs : (s.modParty k p u).reqs = s.reqs := rfl
@[simp] theorem State.modParty_loss : (s.modParty k p u).loss = s.loss := rfl
@[simp] theorem State.modParty_explim : (s.modParty k p u).explim = s.explim := rfl
@[simp] theorem State.modParty_node : (s.modParty k p u).node = s.node := rfl
@[simp] theorem State.modParty_routes : (s.modParty k p u).routes = s.routes := rfl
@[simp] theorem State.modParty_ring : (s.modParty k p u).ring = s.ring := rfl
@[simp] theorem State.modParty_queues : (s.modParty k p u).queues = s.queues := rfl
@[simp] theorem State.modParty_launches : (s.modParty k p u).launches = s.launches := rfl
@[simp] theorem State.modParty_lastServed : (s.modParty k p u).lastServed = s.lastServed := rfl
@[simp] theorem State.modParty_outbox : (s.modParty k p u).outbox = s.outbox := rfl
@[simp] theorem State.modParty_saves : (s.modParty k p u).saves = s.saves := rfl
@[simp] theorem State.fresh_cur : (s.fresh.2).cur = s.cur := rfl
@[simp] theorem State.fresh_agenda : (s.fresh.2).agenda = s.agenda := rfl
@[simp] theorem State.fresh_ticks : (s.fresh.2).ticks = s.ticks := rfl
@[simp] theorem State.fresh_clock : (s.fresh.2).clock = s.clock := rfl
@[simp] theorem State.fresh_phase : (s.fresh.2).phase = s.phase := rfl
@[simp] theorem State.fresh_gddr : (s.fresh.2).gddr = s.gddr := rfl
@[simp] theorem State.fresh_gddrStart : (s.fresh.2).gddrStart = s.gddrStart := rfl
@[simp] theorem State.fresh_gddrErr : (s.fresh.2).gddrErr = s.gddrErr := rfl
@[simp] theorem State.fresh_remote : (s.fresh.2).remote = s.remote := rfl
@[simp] theorem State.fresh_remoteStart : (s.fresh.2).remoteStart = s.remoteStart := rfl
@[simp] theorem State.fresh_tlb : (s.fresh.2).tlb = s.tlb := rfl
@[simp] theorem State.fresh_port : (s.fresh.2).port = s.port := rfl
@[simp] theorem State.fresh_cores : (s.fresh.2).cores = s.cores := rfl
@[simp] theorem State.fresh_ctxs : (s.fresh.2).ctxs = s.ctxs := rfl
@[simp] theorem State.fresh_deposits : (s.fresh.2).deposits = s.deposits := rfl
@[simp] theorem State.fresh_arrivals : (s.fresh.2).arrivals = s.arrivals := rfl
@[simp] theorem State.fresh_window : (s.fresh.2).window = s.window := rfl
@[simp] theorem State.fresh_boot : (s.fresh.2).boot = s.boot := rfl
@[simp] theorem State.fresh_bootFail : (s.fresh.2).bootFail = s.bootFail := rfl
@[simp] theorem State.fresh_stations : (s.fresh.2).stations = s.stations := rfl
@[simp] theorem State.fresh_lsize : (s.fresh.2).lsize = s.lsize := rfl
@[simp] theorem State.fresh_portWidth : (s.fresh.2).portWidth = s.portWidth := rfl
@[simp] theorem State.fresh_testLog : (s.fresh.2).testLog = s.testLog := rfl
@[simp] theorem State.fresh_measured : (s.fresh.2).measured = s.measured := rfl
@[simp] theorem State.fresh_publicKey : (s.fresh.2).publicKey = s.publicKey := rfl
@[simp] theorem State.fresh_certificate : (s.fresh.2).certificate = s.certificate := rfl
@[simp] theorem State.fresh_distributor : (s.fresh.2).distributor = s.distributor := rfl
@[simp] theorem State.fresh_psto1 : (s.fresh.2).psto1 = s.psto1 := rfl
@[simp] theorem State.fresh_psto2 : (s.fresh.2).psto2 = s.psto2 := rfl
@[simp] theorem State.fresh_straggle : (s.fresh.2).straggle = s.straggle := rfl
@[simp] theorem State.fresh_warned : (s.fresh.2).warned = s.warned := rfl
@[simp] theorem State.fresh_reqs : (s.fresh.2).reqs = s.reqs := rfl
@[simp] theorem State.fresh_loss : (s.fresh.2).loss = s.loss := rfl
@[simp] theorem State.fresh_explim : (s.fresh.2).explim = s.explim := rfl
@[simp] theorem State.fresh_node : (s.fresh.2).node = s.node := rfl
@[simp] theorem State.fresh_routes : (s.fresh.2).routes = s.routes := rfl
@[simp] theorem State.fresh_ring : (s.fresh.2).ring = s.ring := rfl
@[simp] theorem State.fresh_queues : (s.fresh.2).queues = s.queues := rfl
@[simp] theorem State.fresh_launches : (s.fresh.2).launches = s.launches := rfl
@[simp] theorem State.fresh_lastServed : (s.fresh.2).lastServed = s.lastServed := rfl
@[simp] theorem State.fresh_outbox : (s.fresh.2).outbox = s.outbox := rfl
@[simp] theorem State.fresh_saves : (s.fresh.2).saves = s.saves := rfl
end

/-! Fields of a core. -/

section
variable (c : Core) (n : Nat) (h : Group → Group) (j : CoreCtx → CoreCtx)
@[simp] theorem Core.modGroup_on : (c.modGroup n h).on = c.on := rfl
@[simp] theorem Core.modGroup_slice : (c.modGroup n h).slice = c.slice := rfl
@[simp] theorem Core.modGroup_firmware : (c.modGroup n h).firmware = c.firmware := rfl
@[simp] theorem Core.modGroup_wgs : (c.modGroup n h).wgs = c.wgs := rfl
@[simp] theorem Core.modGroup_claims : (c.modGroup n h).claims = c.claims := rfl
@[simp] theorem Core.modGroup_cctx : (c.modGroup n h).cctx = c.cctx := rfl
@[simp] theorem Core.modGroup_images : (c.modGroup n h).images = c.images := rfl
@[simp] theorem Core.modGroup_fills : (c.modGroup n h).fills = c.fills := rfl
@[simp] theorem Core.modGroup_ops : (c.modGroup n h).ops = c.ops := rfl
@[simp] theorem Core.modGroup_results : (c.modGroup n h).results = c.results := rfl
@[simp] theorem Core.modGroup_mat : (c.modGroup n h).mat = c.mat := rfl
@[simp] theorem Core.modGroup_poison : (c.modGroup n h).poison = c.poison := rfl
@[simp] theorem Core.modGroup_fwErr : (c.modGroup n h).fwErr = c.fwErr := rfl
@[simp] theorem Core.modGroup_nodes : (c.modGroup n h).nodes = c.nodes := rfl
@[simp] theorem Core.modGroup_trail : (c.modGroup n h).trail = c.trail := rfl
@[simp] theorem Core.modGroup_wrote : (c.modGroup n h).wrote = c.wrote := rfl
@[simp] theorem Core.modGroup_lastCt : (c.modGroup n h).lastCt = c.lastCt := rfl
@[simp] theorem Core.modGroup_ecc : (c.modGroup n h).ecc = c.ecc := rfl
@[simp] theorem Core.modGroup_temp : (c.modGroup n h).temp = c.temp := rfl
@[simp] theorem Core.modGroup_droops : (c.modGroup n h).droops = c.droops := rfl
@[simp] theorem Core.modGroup_droopCount : (c.modGroup n h).droopCount = c.droopCount := rfl
@[simp] theorem Core.modCctx_on : (c.modCctx n j).on = c.on := rfl
@[simp] theorem Core.modCctx_slice : (c.modCctx n j).slice = c.slice := rfl
@[simp] theorem Core.modCctx_firmware : (c.modCctx n j).firmware = c.firmware := rfl
@[simp] theorem Core.modCctx_groups : (c.modCctx n j).groups = c.groups := rfl
@[simp] theorem Core.modCctx_wgs : (c.modCctx n j).wgs = c.wgs := rfl
@[simp] theorem Core.modCctx_claims : (c.modCctx n j).claims = c.claims := rfl
@[simp] theorem Core.modCctx_images : (c.modCctx n j).images = c.images := rfl
@[simp] theorem Core.modCctx_fills : (c.modCctx n j).fills = c.fills := rfl
@[simp] theorem Core.modCctx_ops : (c.modCctx n j).ops = c.ops := rfl
@[simp] theorem Core.modCctx_results : (c.modCctx n j).results = c.results := rfl
@[simp] theorem Core.modCctx_mat : (c.modCctx n j).mat = c.mat := rfl
@[simp] theorem Core.modCctx_poison : (c.modCctx n j).poison = c.poison := rfl
@[simp] theorem Core.modCctx_fwErr : (c.modCctx n j).fwErr = c.fwErr := rfl
@[simp] theorem Core.modCctx_nodes : (c.modCctx n j).nodes = c.nodes := rfl
@[simp] theorem Core.modCctx_trail : (c.modCctx n j).trail = c.trail := rfl
@[simp] theorem Core.modCctx_wrote : (c.modCctx n j).wrote = c.wrote := rfl
@[simp] theorem Core.modCctx_lastCt : (c.modCctx n j).lastCt = c.lastCt := rfl
@[simp] theorem Core.modCctx_ecc : (c.modCctx n j).ecc = c.ecc := rfl
@[simp] theorem Core.modCctx_temp : (c.modCctx n j).temp = c.temp := rfl
@[simp] theorem Core.modCctx_droops : (c.modCctx n j).droops = c.droops := rfl
@[simp] theorem Core.modCctx_droopCount : (c.modCctx n j).droopCount = c.droopCount := rfl
end

/-! Fields of a group and of its uniform registers. -/

section
variable (g : Group) (n : Nat) (f : Split → Split) (j : JoinRec → JoinRec)
@[simp] theorem Group.modSplit_ctx : (g.modSplit n f).ctx = g.ctx := rfl
@[simp] theorem Group.modSplit_wg : (g.modSplit n f).wg = g.wg := rfl
@[simp] theorem Group.modSplit_gidx : (g.modSplit n f).gidx = g.gidx := rfl
@[simp] theorem Group.modSplit_blocks : (g.modSplit n f).blocks = g.blocks := rfl
@[simp] theorem Group.modSplit_uni : (g.modSplit n f).uni = g.uni := rfl
@[simp] theorem Group.modSplit_v : (g.modSplit n f).v = g.v := rfl
@[simp] theorem Group.modSplit_vEmpty : (g.modSplit n f).vEmpty = g.vEmpty := rfl
@[simp] theorem Group.modSplit_vTaint : (g.modSplit n f).vTaint = g.vTaint := rfl
@[simp] theorem Group.modSplit_vErr : (g.modSplit n f).vErr = g.vErr := rfl
@[simp] theorem Group.modSplit_recs : (g.modSplit n f).recs = g.recs := rfl
@[simp] theorem Group.modSplit_exited : (g.modSplit n f).exited = g.exited := rfl
@[simp] theorem Group.modSplit_helper : (g.modSplit n f).helper = g.helper := rfl
@[simp] theorem Group.modSplit_flanes : (g.modSplit n f).flanes = g.flanes := rfl
@[simp] theorem Group.modSplit_fflags : (g.modSplit n f).fflags = g.fflags := rfl
@[simp] theorem Group.modSplit_gang : (g.modSplit n f).gang = g.gang := rfl
@[simp] theorem Group.modSplit_parked : (g.modSplit n f).parked = g.parked := rfl
@[simp] theorem Group.modSplit_frozen : (g.modSplit n f).frozen = g.frozen := rfl
@[simp] theorem Group.modRec_ctx : (g.modRec n j).ctx = g.ctx := rfl
@[simp] theorem Group.modRec_wg : (g.modRec n j).wg = g.wg := rfl
@[simp] theorem Group.modRec_gidx : (g.modRec n j).gidx = g.gidx := rfl
@[simp] theorem Group.modRec_blocks : (g.modRec n j).blocks = g.blocks := rfl
@[simp] theorem Group.modRec_uni : (g.modRec n j).uni = g.uni := rfl
@[simp] theorem Group.modRec_v : (g.modRec n j).v = g.v := rfl
@[simp] theorem Group.modRec_vEmpty : (g.modRec n j).vEmpty = g.vEmpty := rfl
@[simp] theorem Group.modRec_vTaint : (g.modRec n j).vTaint = g.vTaint := rfl
@[simp] theorem Group.modRec_vErr : (g.modRec n j).vErr = g.vErr := rfl
@[simp] theorem Group.modRec_splits : (g.modRec n j).splits = g.splits := rfl
@[simp] theorem Group.modRec_exited : (g.modRec n j).exited = g.exited := rfl
@[simp] theorem Group.modRec_helper : (g.modRec n j).helper = g.helper := rfl
@[simp] theorem Group.modRec_flanes : (g.modRec n j).flanes = g.flanes := rfl
@[simp] theorem Group.modRec_fflags : (g.modRec n j).fflags = g.fflags := rfl
@[simp] theorem Group.modRec_gang : (g.modRec n j).gang = g.gang := rfl
@[simp] theorem Group.modRec_parked : (g.modRec n j).parked = g.parked := rfl
@[simp] theorem Group.modRec_frozen : (g.modRec n j).frozen = g.frozen := rfl
end

section
variable (g : Group) (r : Nat) (sel : LaneSet) (f : Nat → Word) (t : Bool)
@[simp] theorem Group.setV_ctx : (g.setV r sel f t).ctx = g.ctx := rfl
@[simp] theorem Group.setV_wg : (g.setV r sel f t).wg = g.wg := rfl
@[simp] theorem Group.setV_gidx : (g.setV r sel f t).gidx = g.gidx := rfl
@[simp] theorem Group.setV_blocks : (g.setV r sel f t).blocks = g.blocks := rfl
@[simp] theorem Group.setV_uni : (g.setV r sel f t).uni = g.uni := rfl
@[simp] theorem Group.setV_splits : (g.setV r sel f t).splits = g.splits := rfl
@[simp] theorem Group.setV_recs : (g.setV r sel f t).recs = g.recs := rfl
@[simp] theorem Group.setV_exited : (g.setV r sel f t).exited = g.exited := rfl
@[simp] theorem Group.setV_helper : (g.setV r sel f t).helper = g.helper := rfl
@[simp] theorem Group.setV_flanes : (g.setV r sel f t).flanes = g.flanes := rfl
@[simp] theorem Group.setV_fflags : (g.setV r sel f t).fflags = g.fflags := rfl
@[simp] theorem Group.setV_gang : (g.setV r sel f t).gang = g.gang := rfl
@[simp] theorem Group.setV_parked : (g.setV r sel f t).parked = g.parked := rfl
@[simp] theorem Group.setV_frozen : (g.setV r sel f t).frozen = g.frozen := rfl
@[simp] theorem Group.markV_ctx : (g.markV r).ctx = g.ctx := rfl
@[simp] theorem Group.markV_wg : (g.markV r).wg = g.wg := rfl
@[simp] theorem Group.markV_gidx : (g.markV r).gidx = g.gidx := rfl
@[simp] theorem Group.markV_blocks : (g.markV r).blocks = g.blocks := rfl
@[simp] theorem Group.markV_uni : (g.markV r).uni = g.uni := rfl
@[simp] theorem Group.markV_v : (g.markV r).v = g.v := rfl
@[simp] theorem Group.markV_vTaint : (g.markV r).vTaint = g.vTaint := rfl
@[simp] theorem Group.markV_vErr : (g.markV r).vErr = g.vErr := rfl
@[simp] theorem Group.markV_splits : (g.markV r).splits = g.splits := rfl
@[simp] theorem Group.markV_recs : (g.markV r).recs = g.recs := rfl
@[simp] theorem Group.markV_exited : (g.markV r).exited = g.exited := rfl
@[simp] theorem Group.markV_helper : (g.markV r).helper = g.helper := rfl
@[simp] theorem Group.markV_flanes : (g.markV r).flanes = g.flanes := rfl
@[simp] theorem Group.markV_fflags : (g.markV r).fflags = g.fflags := rfl
@[simp] theorem Group.markV_gang : (g.markV r).gang = g.gang := rfl
@[simp] theorem Group.markV_parked : (g.markV r).parked = g.parked := rfl
@[simp] theorem Group.markV_frozen : (g.markV r).frozen = g.frozen := rfl
end

section
variable (u : Uni) (r : Nat) (v : DWord) (m : LaneSet) (t : Bool)
@[simp] theorem Uni.set_m : (u.set r v t).m = u.m := rfl
@[simp] theorem Uni.set_counts : (u.set r v t).counts = u.counts := rfl
@[simp] theorem Uni.set_pend : (u.set r v t).pend = u.pend := rfl
@[simp] theorem Uni.set_traces : (u.set r v t).traces = u.traces := rfl
@[simp] theorem Uni.setMask_s : (u.setMask r m).s = u.s := rfl
@[simp] theorem Uni.setMask_sEmpty : (u.setMask r m).sEmpty = u.sEmpty := rfl
@[simp] theorem Uni.setMask_sTaint : (u.setMask r m).sTaint = u.sTaint := rfl
@[simp] theorem Uni.setMask_sErr : (u.setMask r m).sErr = u.sErr := rfl
@[simp] theorem Uni.setMask_counts : (u.setMask r m).counts = u.counts := rfl
@[simp] theorem Uni.setMask_pend : (u.setMask r m).pend = u.pend := rfl
@[simp] theorem Uni.setMask_traces : (u.setMask r m).traces = u.traces := rfl
@[simp] theorem Uni.markEmpty_s : (u.markEmpty r).s = u.s := rfl
@[simp] theorem Uni.markEmpty_sTaint : (u.markEmpty r).sTaint = u.sTaint := rfl
@[simp] theorem Uni.markEmpty_sErr : (u.markEmpty r).sErr = u.sErr := rfl
@[simp] theorem Uni.markEmpty_m : (u.markEmpty r).m = u.m := rfl
@[simp] theorem Uni.markEmpty_counts : (u.markEmpty r).counts = u.counts := rfl
@[simp] theorem Uni.markEmpty_pend : (u.markEmpty r).pend = u.pend := rfl
@[simp] theorem Uni.markEmpty_traces : (u.markEmpty r).traces = u.traces := rfl
@[simp] theorem Uni.setPend_s : (u.setPend r).s = u.s := rfl
@[simp] theorem Uni.setPend_sEmpty : (u.setPend r).sEmpty = u.sEmpty := rfl
@[simp] theorem Uni.setPend_sTaint : (u.setPend r).sTaint = u.sTaint := rfl
@[simp] theorem Uni.setPend_sErr : (u.setPend r).sErr = u.sErr := rfl
@[simp] theorem Uni.setPend_m : (u.setPend r).m = u.m := rfl
@[simp] theorem Uni.setPend_counts : (u.setPend r).counts = u.counts := rfl
@[simp] theorem Uni.setPend_traces : (u.setPend r).traces = u.traces := rfl
end

/-! Reading the place that was updated, and another. -/

section
variable (s : State) (c : Core) (g : Group) (k l n m : Nat)

theorem State.core?_modCore (f : Core → Core) :
    (s.modCore k f).core? l = if k = l then (s.core? l).map f else s.core? l := by
  simp only [State.core?, State.modCore, List.getElem?_modify]; split <;> simp
@[simp] theorem State.core?_modCore_self (f : Core → Core) : (s.modCore k f).core? k = (s.core? k).map f := by
  simp [State.core?_modCore]
theorem State.core?_modCore_other (f : Core → Core) (h : k ≠ l) : (s.modCore k f).core? l = s.core? l := by
  simp [State.core?_modCore, h]
@[simp] theorem State.core?_modCtx (f : Ctx → Ctx) : (s.modCtx n f).core? k = s.core? k := rfl
theorem State.ctx?_modCtx (f : Ctx → Ctx) :
    (s.modCtx n f).ctx? m = if n = m then (s.ctx? m).map f else s.ctx? m := by
  simp only [State.ctx?, State.modCtx, List.getElem?_modify]; split <;> simp
@[simp] theorem State.ctx?_modCore (f : Core → Core) : (s.modCore k f).ctx? n = s.ctx? n := rfl
theorem Core.group?_modGroup (f : Group → Group) :
    (c.modGroup n f).group? m = if n = m then (c.group? m).map f else c.group? m := by
  simp only [Core.group?, Core.modGroup, List.getElem?_modify]
  split <;> cases c.groups[m]? <;> rfl
@[simp] theorem Core.group?_modCctx (f : CoreCtx → CoreCtx) : (c.modCctx n f).group? m = c.group? m := rfl
theorem Core.cctx?_modCctx (f : CoreCtx → CoreCtx) :
    (c.modCctx n f).cctx? m = if n = m then (c.cctx? m).map f else c.cctx? m := by
  simp only [Core.cctx?, Core.modCctx, List.getElem?_modify]; split <;> simp
@[simp] theorem Core.cctx?_modGroup (f : Group → Group) : (c.modGroup n f).cctx? m = c.cctx? m := rfl
theorem Group.split?_modSplit (f : Split → Split) :
    (g.modSplit n f).split? m = if n = m then (g.split? m).map f else g.split? m := by
  simp only [Group.split?, Group.modSplit, List.getElem?_modify]
  split <;> cases g.splits[m]? <;> rfl
@[simp] theorem Uni.get_set_same (u : Uni) (r : Nat) (v : DWord) (t : Bool) (h : r < u.s.length) :
    (u.set r v t).get r = v := by
  simp [Uni.get, Uni.set, List.getD_eq_getElem?_getD, h]
theorem Uni.get_set_other (u : Uni) (r q : Nat) (v : DWord) (t : Bool) (h : r ≠ q) : (u.set r v t).get q = u.get q := by
  simp [Uni.get, Uni.set, List.getD_eq_getElem?_getD, h]
end

/-! What an issuing thread changes lies in the cores. -/

section
variable (s : State) (x : Iss)

theorem modUni_cores (f : Uni → Uni) : s.modUni x f = { s with cores := (s.modUni x f).cores } := rfl
theorem modIssGroup_cores (f : Group → Group) : s.modIssGroup x f = { s with cores := (s.modIssGroup x f).cores } := rfl
theorem modFlow_cores (f : Flow → Flow) : s.modFlow x f = { s with cores := (s.modFlow x f).cores } := by
  unfold State.modFlow; split <;> rfl
theorem setWait_cores (w : Wait) : s.setWait x w = { s with cores := (s.setWait x w).cores } := by
  unfold State.setWait; split <;> rfl
theorem advance_cores (n : Nat) : s.advance x n = { s with cores := (s.advance x n).cores } := modFlow_cores s x _
theorem jump_cores (p : Pc) : s.jump x p = { s with cores := (s.jump x p).cores } := modFlow_cores s x _
theorem setS_cores (r : BitVec 9) (v : DWord) (t : Bool) : s.setS x r v t = { s with cores := (s.setS x r v t).cores } := rfl
theorem setM_cores (r : BitVec 9) (m : LaneSet) : s.setM x r m = { s with cores := (s.setM x r m).cores } := rfl
theorem setV_cores (r : Nat) (f : Nat → Word) (t : Bool) :
    s.setV x r f t = { s with cores := (s.setV x r f t).cores } := rfl
theorem orFlags_cores (b : BitVec 5) : s.orFlags x b = { s with cores := (s.orFlags x b).cores } := rfl
theorem markEmpty_cores (r : BitVec 9) : s.markEmpty x r = { s with cores := (s.markEmpty x r).cores } := by
  unfold State.markEmpty; split <;> rfl
end

end Sys2Proof.Machine
end

