-- ==== Sys2Proof/Laws/Translate.lean ====
section
/-! SUPPORT. What the checks of a device-virtual range come to, and the length of an image's bytes. -/
namespace Sys2Proof.Machine

/-- The pieces of a range lie in it, and none is empty. -/
theorem chunksFrom_bounds (f a n : Nat) : ∀ c ∈ chunksFrom f a n, a ≤ c.1 ∧ c.1 + c.2 ≤ a + n ∧ 0 < c.2 := by
  induction f generalizing a n with
  | zero => simp [chunksFrom]
  | succ f ih =>
    cases n with
    | zero => simp [chunksFrom]
    | succ n =>
      intro c hc
      simp only [chunksFrom, List.mem_cons] at hc
      rcases hc with rfl | hc
      · simp only; omega
      · have := ih _ _ c hc; omega

/-- 25 R355: a range passes when each of its pieces does. -/
theorem virtCheck_ok (s : State) (ctx a n : Nat) (w : Bool) (h : ∀ c ∈ chunks a n, (s.chunkAt ctx c.1 c.2 w).isSome) :
    s.virtCheck ctx a n w = .ok () := by
  unfold State.virtCheck
  revert h
  generalize chunks a n = l
  intro h
  induction l with
  | nil => rfl
  | cons c l ih =>
    obtain ⟨p, hp⟩ := Option.isSome_iff_exists.1 (h c (by simp))
    rw [List.foldl_cons]
    simp only [hp]
    exact ih fun d hd => h d (by simp [hd])

/-- 25 R355: a range whose first piece faults, faults at its first address. -/
theorem virtCheck_error (s : State) (ctx a n : Nat) (w : Bool) (hn : 0 < n) (h : ∀ m, s.chunkAt ctx a m w = none) :
    s.virtCheck ctx a n w = .error a := by
  obtain ⟨m, rfl⟩ := Nat.exists_eq_succ_of_ne_zero (Nat.pos_iff_ne_zero.1 hn)
  unfold State.virtCheck chunks
  rw [chunksFrom, List.foldl_cons]
  simp only [h]
  generalize chunksFrom _ _ _ = l
  induction l with
  | nil => rfl
  | cons c l ih => rw [List.foldl_cons]; exact ih

/-- The bytes of image n are as many as its length says. -/
theorem imageBytes_length (n : Nat) : (imageBytes n).length = imageLength n := by
  simp only [imageBytes, toLE, List.length_append, List.length_map, List.length_range, imageLength]; omega

end Sys2Proof.Machine
end

