-- ==== Sys2Proof/Tests/Slice0.lean ====
section
/-! SUPPORT. Tests: ill-formed terms that WellFormed refuses, words of the spec's encodings, single steps, and for each
statement a concrete state and operands that meet its hypotheses. -/
namespace Sys2Proof.Tests
open Sys2Proof.Machine
set_option Elab.async false

/-! Terms. -/

/-- V64 with every field zero. -/
def op0 : Op := ⟨⟨false, 0⟩, 0, 0, ⟨false, 0⟩, ⟨false, 0⟩, ⟨false, 0⟩, false, false, .none⟩
/-- E128 with every field of word 0 and word 1 zero. -/
def e128 (w2 w3 : Word) : Op := { op0 with ext := .w23 w2 w3 }
/-- V96 likewise. -/
def v96 (w2 : Word) : Op := { op0 with ext := .w2 w2 }
def i64 : I64 := ⟨⟨false, 0⟩, 0, 0, ⟨false, 0⟩, 0⟩
def b64 : B64 := ⟨⟨false, 0⟩, 0, 0, 0, 0⟩
def m64 : M64 := ⟨⟨false, 0⟩, 0, 0, 0, 0x3FF, 0⟩
/-- A register operand without FE. -/
def r (n : Nat) : Src := ⟨false, BitVec.ofNat 9 n⟩
/-- s_n as an operand. -/
def sr (n : Nat) : Src := r (384 + n)

/-! WellFormed: for each check of step 3 of Table 2.16 a term that fails it alone. -/

/-- Guards: GNG = 1 with GRD = 0; a guard where none is allowed (R34). -/
theorem test_wf_guards : ([.sadd { op0 with g := ⟨true, 0⟩ }, .ld { m64 with g := ⟨true, 0⟩ }, .csrd { i64 with g := ⟨true, 0⟩ },
    .bra { b64 with g := ⟨true, 0⟩ }, .join { op0 with g := ⟨false, 1⟩ }, .parv { b64 with g := ⟨false, 1⟩ },
    .mgng { op0 with g := ⟨false, 1⟩ }, .macq { op0 with fn := 0x81, g := ⟨false, 1⟩ }] : List Instr).all
    (fun i => !i.wf) = true := by decide
/-- nop is the word pair of zeros only (R27). -/
theorem test_wf_nop : ([.nop { op0 with d := 1 }, .nop { op0 with a := r 1 }, .nop { op0 with fn := 1 }] : List Instr).all
    (fun i => !i.wf) = true := by decide
/-- Formats that an opcode does not have (R44). -/
theorem test_wf_formats : ([.join (v96 0), .smul { v96 0 with fn := 0 }, .fadd (e128 0 0), .cvt op0, .swadd op0, .cpy (v96 1),
    .rpak op0, .gfrmRel op0, .mcfg op0, .fdp3 (v96 0), .ldb op0, .smov { op0 with fn := 0x80 }] : List Instr).all
    (fun i => !i.wf) = true := by decide
/-- Reserved FN values. -/
theorem test_wf_fn : ([.brk op0, .brk { op0 with fn := 8 }, .sdiv { op0 with fn := 0x10 }, .scmp { op0 with fn := 0x30 },
    .iadd { op0 with fn := 1 }, .fadd { op0 with fn := 8 }, .fadd { op0 with fn := 0x60 }, .frnd { op0 with fn := 5 },
    .qswp op0, .sid { op0 with fn := 8 }, .ld { m64 with fn := 7 }, .atom { m64 with fn := 10 }, .afadd { m64 with fn := 0x18 },
    .wait { i64 with fn := 5 }, .grd { op0 with fn := 0x1F }, .gsta { op0 with fn := 8 }, .macq op0, .srat { op0 with fn := 5 },
    .dqPush { op0 with fn := 1 }, .dqPop op0, .sprd { i64 with fn := 1 }, .pdetAtt op0] : List Instr).all
    (fun i => !i.wf) = true := by decide
/-- SAT and U where an instruction has neither; MOD outside row 0x4, NC where C is not read (R35). -/
theorem test_wf_modifiers : ([.sand { op0 with fn := 4 }, .sand { op0 with fn := 2 }, .iadd { op0 with na := true },
    .fadd { op0 with nc := true }, .sadd { op0 with nc := true }] : List Instr).all (fun i => !i.wf) = true := by decide
/-- Fields that must be zero (R32, R45). -/
theorem test_wf_zero_fields : ([.sadd { op0 with c := r 1 }, .sbit { op0 with b := r 1 }, .frcp { op0 with b := r 1 },
    .bra { b64 with d := 1 }, .call { b64 with j16 := 1 }, .callo { i64 with a := r 1 }, .loop { i64 with d := 4 },
    .trap { i64 with imm := 0x10000 }, .csrd { i64 with imm := 0x1000 }, .ldb (v96 0x400), .fmtset { op0 with b := r 1 },
    .cpy { e128 1 0 with c := r 1 }, .cpy (e128 1 0x10000), .cpy (e128 1 0x200), .cpy (e128 1 1), .swadd (e128 0 0),
    .swmov { e128 1 0 with b := r 1 }, .swadd (e128 0x1000001 0), .rast { op0 with fn := 2 }] : List Instr).all
    (fun i => !i.wf) = true := by decide
/-- Mask operands and mask destinations (R32, R50). -/
theorem test_wf_masks : ([.vote { op0 with d := 16 }, .vote { op0 with a := r 16 }, .ssel { op0 with c := r 16 },
    .icmp { op0 with d := 16 }, .lpak { op0 with b := ⟨true, 1⟩ }] : List Instr).all (fun i => !i.wf) = true := by decide
/-- Blocks and control words out of range (R40, R41, R94, R109, R171, R203, R251). -/
theorem test_wf_blocks : ([.iadd (v96 7), .iadd (v96 8), .iadd (v96 0x403), .frcp (v96 0x801), .iadd (v96 0x1001),
    .cvt (v96 0), .cvt (v96 0x08000909), .cvt (v96 0x00080909), .cvt (v96 0x04000909), .fmtset { v96 0x00080000 with fn := 0x80 },
    .fmtset { v96 0x00002000 with fn := 0x80 }, .swadd (e128 0x1001 0), .swred (e128 1 0x1000), .xst (e128 9 0x8000),
    .xput { e128 1 0 with b := r 1 }, .gfrmRho (v96 0x7F800000), .gfrmOpen { v96 32 with fn := 1 }, .mlds (e128 257 0),
    .mcfg (v96 3), .scnb (e128 129 0), .loop { i64 with fn := 1 }] : List Instr).all (fun i => !i.wf) = true := by decide
/-- The same terms mended are well formed. -/
theorem test_wf_accepts : ([.nop op0, .shortPad, .sadd op0, .iadd (v96 1), .fma { op0 with nc := true, na := true },
    .cvt (v96 0x00000909), .swadd (e128 1 0), .cpy (e128 1 0), .xst (e128 8 0x8000), .gfrmOpen { v96 31 with fn := 1 },
    .mlds (e128 256 0), .brk { op0 with fn := 7 }, .ld { m64 with fn := 6 }, .vote { op0 with d := 15, a := r 15 },
    .dqPop { op0 with fn := 1 }, .pdetAtt { op0 with fn := 1 }, .fmtset { v96 0x00006000 with fn := 0x80 }] : List Instr).all
    Instr.wf = true := by decide

/-! Decoding: words as the spec prints them, or written out from Tables 2.3 to 2.12. -/

/-- What the decoder reads at the start of a fetch block. -/
def reads (ws : List Word) : Option Instr := (decode 0 ws).toOption

/-- nop, bra, callo, ret (R27; 15, 19: worked encodings). -/
theorem test_decode_row0 : reads [0, 0] = some (.nop op0)
    ∧ reads [0x00004C04, 0x0000000C] = some (.bra { b64 with g := ⟨true, 3⟩, t16 := 12 })
    ∧ reads [0x00000404, 0x00450043] = some (.bra { b64 with g := ⟨false, 1⟩, t16 := 67, j16 := 69 })
    ∧ reads [0x02CF0018, 0x00002C00] = some (.callo { i64 with fn := 2, d := 414, imm := 11 })
    ∧ reads [0x0000001C, 0x0000019E] = some (.ret { op0 with a := sr 30 }) := by decide
/-- sadd s1, s2, 5: LEN 1, OPC 0x10 << 2, D 0x181 << 15, I; A 0x182; immediate 5. -/
theorem test_decode_row1 : reads [0x80C08041, 0x00000182, 5] = some (.sadd { v96 5 with fn := 0x80, d := 385, a := sr 2 }) := by
  decide
/-- sld.u32 s4, [s6 + 8]: OPC 0x22 << 2, D 0x184 << 15, T 4 << 24; BASE 6, X 0x3FF << 7, OFF 8 << 17. -/
theorem test_decode_row2 : reads [0x04C20088, 0x0011FF86] = some (.sld { m64 with fn := 4, d := 388, base := 6, off := 8 }) := by
  decide
/-- isel (19: worked encoding, line 018). -/
theorem test_decode_row3 : reads [0x000080F0, 0x0026B1AB]
    = some (.isel { op0 with d := 1, a := sr 43, b := sr 44, c := r 2 }) := by decide
/-- fmul (20: worked encoding, line 073). -/
theorem test_decode_row4 : reads [0x002C0108, 0x0000C458] = some (.fmul { op0 with d := 88, a := r 88, b := r 49 }) := by decide
/-- cvt v3, v4 to bf16 by RZ: OPC 0x50 << 2, LEN 1, D 3 << 15; A 4; SC 0x09, DC 0x08, RM 1 << 16. -/
theorem test_decode_row5 : reads [0x00018141, 4, 0x00010908] = some (.cvt { v96 0x00010908 with d := 3, a := r 4 }) := by decide
/-- red.add s25, v88 (20: worked encoding, line 091). -/
theorem test_decode_row6 : reads [0x00CC81A8, 0x00000058] = some (.red { op0 with d := 409, a := r 88 }) := by decide
/-- ld.64 and atom (15 line 018; 19 line 061). -/
theorem test_decode_row7 : reads [0x050601C0, 0x00000100] = some (.ld { m64 with fn := 5, d := 12, x := 2 })
    ∧ reads [0x001101E8, 0x00001031] = some (.atom { m64 with d := 34, base := 49, x := 32 }) := by decide
/-- swadd.f32, ITER 16, SA = SB = SD = 4: OPC 0x80 << 2, LEN 2, D 0x190 << 15. -/
theorem test_decode_row8 : reads [0x00C80202, 0x00064996, 0x00004010, 0x00004004]
    = some (.swadd { e128 0x00004010 0x00004004 with d := 400, a := sr 22, b := sr 18 }) := by decide
/-- bwt (09: worked encoding, line 046). -/
theorem test_decode_row9 : reads [0x0000025C, 0x00066197] = some (.bwt { op0 with a := sr 23, b := sr 24 }) := by decide
/-- parv (13: worked encoding, control 007). -/
theorem test_decode_rowA : reads [0x00000280, 0x0000000E] = some (.parv { b64 with t16 := 14 }) := by decide
/-- mcfg.bf16, macq with the gang bit, mstr with registers (11: worked encodings). -/
theorem test_decode_rowB : reads [0x000002E1, 0, 1] = some (.mcfg (v96 1))
    ∧ reads [0x810002C0, 0x00000197] = some (.macq { op0 with fn := 0x81, a := sr 23 })
    ∧ reads [0xC00002D6, 0x00066814, 1, 0] = some (.mstr { e128 1 0 with fn := 0xC0, a := r 20, b := sr 26 }) := by decide
/-- gfrm.open 1, gmrg, grd (13: worked encodings). -/
theorem test_decode_rowC : reads [0x01000321, 0, 1] = some (.gfrmOpen { v96 1 with fn := 1 })
    ∧ reads [0x00010310, 0x00000001] = some (.gmrg { op0 with d := 2, a := r 1 })
    ∧ reads [0x0F0E8304, 0x00000004] = some (.grd { op0 with fn := 15, d := 29, a := r 4 }) := by decide
/-- rast and rpak (15: worked encodings). -/
theorem test_decode_rowD : reads [0x0014034C, 0x19B66994]
    = some (.rast { op0 with d := 40, a := sr 20, b := sr 26, c := sr 27 })
    ∧ reads [0x00CA034A, 0, 0x020A0003, 0] = some (.rpak { e128 0x020A0003 0 with d := 404 }) := by decide
/-- ovld, ovq.q (17: worked encodings); lnch s20, s21, s22 by Table 2.5. -/
theorem test_decode_rowE : reads [0x00000380, 0x0000018C] = some (.ovld { op0 with a := sr 12 })
    ∧ reads [0x01C70384, 0] = some (.ovq { op0 with fn := 1, d := 398 })
    ∧ reads [0x00CA0398, 0x00065995] = some (.lnch { op0 with d := 404, a := sr 21, b := sr 22 }) := by decide
/-- csrd, cswr, tret (21: worked encodings). -/
theorem test_decode_rowF : reads [0x00C283C4, 0x00000800] = some (.csrd { i64 with d := 389, imm := 2 })
    ∧ reads [0x000003C8, 0x00000187] = some (.cswr { i64 with a := sr 7 })
    ∧ reads [0x000003C0, 0] = some (.tret op0) := by decide
/-- The short pad, and words that are no instruction (R26, R27, R43, R46). -/
theorem test_decode_refuses : (decode 0x1C [0]).toOption = some .shortPad ∧ reads [3, 0] = none
    ∧ (decode 0x1C [0x000080F0, 0x0026B1AB]).toOption = none ∧ reads [0x000000A4, 0] = none ∧ reads [0x0000001C] = none
    ∧ reads [0x1, 0, 0] = none := by decide

/-! Single steps. The states are those of `State.place0`: a group of 8 vector registers with a 4-KiB allocation, a control
thread in a compute superstep, one in an exchange superstep, and firmware in a handler; all of context 0 on core 0. -/

def gs : State := State.reset.place0 0 [0x000000C0#32]
def cs : State := State.reset.place0 0 [0x00000398#32]
def xs : State := State.reset.place0 0 [0x00000284#32]
def fs : State := State.reset.place0 0 [0x000003C0#32]
/-- Changes the uniform registers of the thread that stands there. -/
def State.uni (s : State) (f : Uni → Uni) : State := match s.iss? s.cur with | some x => s.modUni x f | none => s
/-- s registers with values. -/
def withS (s : State) (l : List (Nat × DWord)) : State := State.uni s fun u => l.foldl (fun u p => u.set p.1 p.2) u
/-- A v register of the group with one value in every lane. -/
def withV (s : State) (l : List (Nat × Word)) : State :=
  s.modGroup 0 0 fun g => l.foldl (fun g p => { g with v := g.v.set p.1 (List.replicate 128 p.2) }) g
/-- What is read of the state after an instruction. -/
def after {α : Type} (i : Instr) (s : State) (f : State → α) : Option α := match exec i s with | .next t => some (f t) | _ => none
/-- s_n, lane l of v_n, m_n and %fflags of the group. -/
def sOf (n : Nat) (s : State) : DWord := match s.group? 0 0 with | some g => g.uni.get n | none => 0
def vOf (n l : Nat) (s : State) : Word := match s.group? 0 0 with | some g => (g.v.getD n []).getD l 0 | none => 0
def mOf (n : Nat) (s : State) : LaneSet := match s.group? 0 0 with | some g => g.uni.mask n | none => 0
def flagsNow (s : State) : BitVec 5 := match s.group? 0 0 with | some g => g.fflags | none => 0
/-- The PC of split 0. -/
def pcOf (s : State) : Word := match (s.group? 0 0).bind fun g => g.split? 0 with | some p => p.flow.pc.off | none => 0

/-- 03 R63: the sum wraps. -/
theorem test_sadd_wraps : after (.sadd { op0 with d := 390, a := sr 8, b := sr 9 }) (withS gs [(8, BitVec.allOnes 64), (9, 3)])
    (fun t => (sOf 6 t, pcOf t)) = some (2, 8) := by decide +kernel
/-- 03 R63: with SAT and U the difference clamps at 0. -/
theorem test_ssub_clamps : after (.ssub { op0 with fn := 6, d := 390, a := sr 8, b := sr 9 }) (withS gs [(8, 1), (9, 3)])
    (sOf 6) = some 0 := by decide +kernel
/-- 03 Table 3.4: division by zero gives all ones, the remainder A. -/
theorem test_sdiv_by_zero : after (.sdiv { op0 with d := 390, a := sr 8, b := sr 9 }) (withS gs [(8, 7)]) (sOf 6)
      = some (BitVec.allOnes 64)
    ∧ after (.sdiv { op0 with fn := 8, d := 390, a := sr 8, b := sr 9 }) (withS gs [(8, 7)]) (sOf 6) = some 7 := by
  decide +kernel
/-- 06 R119: the sign fills an arithmetic shift; a shift count is taken modulo 32. -/
theorem test_ishr_sign : after (.ishr { v96 33 with fn := 0x80, d := 2, a := r 1 }) (withV gs [(1, 0x80000000)]) (vOf 2 127)
    = some 0xC0000000 := by decide +kernel
/-- 06 R122, 05 R103: 1.0 + 2^-24 is a tie and rounds to even, inexact. -/
theorem test_fadd_tie : after (.fadd { op0 with d := 2, a := r 1, b := r 3 }) (withV gs [(1, 0x3F800000), (3, 0x33800000)])
    (fun t => (vOf 2 5 t, flagsNow t)) = some (0x3F800000, fNX) := by decide +kernel
/-- 06 R122: an infinity less itself is NaN and sets NV. -/
theorem test_fsub_invalid : after (.fsub { op0 with d := 2, a := r 1, b := r 3 }) (withV gs [(1, 0x7F800000), (3, 0x7F800000)])
    (fun t => (vOf 2 0 t, flagsNow t)) = some (0x7FC00000, fNV) := by decide +kernel
/-- 06 R123: a compare writes a mask bit for each lane. -/
theorem test_icmp_mask : after (.icmp { op0 with d := 5, a := r 1, b := r 3, fn := 0x10 }) (withV gs [(1, 0xFFFFFFFF), (3, 1)])
    (mOf 5) = some LaneSet.all := by decide +kernel
/-- 03 R67, 00 R4: a store is little-endian. -/
theorem test_sst_bytes : after (.sst { m64 with fn := 2, d := 392, base := 9, off := 1 })
    (withS gs [(8, 0x11223344), (9, 0xFF)]) (fun t => (t.sliceByte 0 0x100, t.sliceByte 0 0x103)) = some (0x44, 0x11) := by
  decide +kernel
/-- 07 R142: an address that is no multiple of the access size traps, and nothing is stored. -/
theorem test_sst_misaligned : after (.sst { m64 with fn := 2, d := 392, base := 9 }) (withS gs [(8, 0x11223344), (9, 0x101)])
    (fun t => (t.sliceByte 0 0x101, (t.cctx? 0 0).map fun c => c.tcause)) = some (0, some 0x08) := by decide +kernel
/-- 03 R52: a load leaves its register empty until its result lands. -/
theorem test_sld_empty : after (.sld { m64 with fn := 4, d := 390, base := 9 }) (withS gs [(9, 0x100)])
    (fun t => ((t.group? 0 0).map fun g => g.uni.sEmpty.getLsbD 6, (t.core? 0).map fun c => c.results.length))
    = some (some true, some 1) := by decide +kernel
/-- 03 R53: a source with FE = 1 that is empty traps with cause 0x06. -/
theorem test_fe_traps : after (.smov { op0 with d := 390, a := { sr 8 with fe := true } }) (State.uni gs fun u => u.markEmpty 8)
    (fun t => (t.cctx? 0 0).map fun c => c.tcause) = some (some 0x06) := by decide +kernel
/-- 04 R73: a branch taken by some lanes splits the group: two live splits. -/
theorem test_bra_splits : after (.bra { b64 with g := ⟨false, 1⟩, t16 := 4, j16 := 8 }) (State.uni gs fun u => u.setMask 1 5)
    (fun t => (t.group? 0 0).map fun g => (g.splitCount, g.splits.filterMap fun p => p.map fun q => q.exec.count))
    = some (some (2, [126, 2])) := by decide +kernel
/-- 21 R303: trap enters firmware: cause 0x15 with the user code in [23:8], TPC after the instruction. -/
theorem test_trap_enters : after (.trap { i64 with imm := 0x1234 }) gs
    (fun t => (t.cctx? 0 0).map fun c => (c.tcause, c.tpc.off, c.handling.isSome)) = some (some (0x123415, 8, true)) := by
  decide +kernel
/-- 02 R46 step 2: firmware's instructions trap with cause 0x17 in a group. -/
theorem test_tret_privileged : after (.tret op0) gs (fun t => (t.cctx? 0 0).map fun c => c.tcause) = some (some 0x17) := by
  decide +kernel
/-- 00 R7, 02 R46 step 5: an exchange instruction in a compute superstep traps with cause 0x03. -/
theorem test_xend_phase : after (.xend op0) cs (fun t => (t.cctx? 0 0).map fun c => c.tcause) = some (some 0x03) := by
  decide +kernel
/-- A step fetches and runs what stands at the PC: sadd s6, s8, 5 of a group in slot 0. -/
theorem test_step_runs : (match step (State.reset.withFetchWord 96 (0x80C30041 + 0x188 * 2 ^ 32 + 5 * 2 ^ 64)) with
    | .next t => (sOf 6 t, pcOf t) | _ => (0, 0)) = (5, 12) := by decide +kernel

/-! Witnesses: for each statement with hypotheses, states and operands that meet all of them. -/

/-- What the shared checks of an instruction find at s: the thread as the instruction sees it. -/
def seen (q : Req) (s : State) : Option Iss :=
  match s.iss? s.cur with
  | some y => match q.gate y s.phase with | .go x => some x | _ => none
  | none => none
theorem seen_ready {q : Req} {s : State} {x : Iss} (h : seen q s = some x) : Ready q s x := by
  unfold seen at h
  split at h
  · rename_i y hy
    split at h
    · rename_i z hz; cases h; exact ⟨y, hy, hz⟩
    · cases h
  · cases h
/-- A thread that is nowhere. -/
def nobody : Iss := ⟨.ct 0 0, 0, 0, false, 0, 0, none, Uni.zero, Flow.start ⟨0, 0⟩, 0, 0⟩
/-- The thread that stands at s. -/
def here (s : State) : Iss := (s.iss? s.cur).getD nobody
/-- The thread at s passes the shared checks, and an unguarded instruction sees it as it is. -/
def fits (q : Req) (s : State) : Bool := match seen q s with | some x => x == here s | none => false
theorem fits_ready {q : Req} {s : State} (h : fits q s = true) : Ready q s (here s) := by
  unfold fits at h
  split at h
  · rename_i x hx; exact beq_iff_eq.1 h ▸ seen_ready hx
  · cases h
/-- The shared checks of a course. -/
def runs (c : State → Iss → Course) (s : State) : Bool := fits (c s (here s)).req s
/-- The state after an instruction. -/
def then_ (i : Instr) (s : State) : State := match exec i s with | .next t => t | _ => s
/-- Some value of an option passes a test. -/
def has {α : Type} (o : Option α) (p : α → Bool) : Bool := match o with | some a => p a | none => false

/-- Operands s6 := s8, s9 and v2 := v1, v3. -/
def ou : Op := { op0 with d := 390, a := sr 8, b := sr 9 }
def ov : Op := { op0 with d := 2, a := r 1, b := r 3 }
/-- m5. -/
def om : Op := { op0 with d := 5 }
/-- [s9], D = v2; s6. -/
def mv : M64 := { m64 with d := 2, base := 9 }
def mu : M64 := { m64 with d := 390, base := 9 }
def at100 : State := withS gs [(9, 0x100)]

theorem witness_UniformResults :
    ([uniRow .add true false ou, uniRow .sub true false ou, uniRow .mul true false ou, uniRow .div true false ou,
      uniRow .and true false ou, uniRow .or true false ou, uniRow .xor true false ou, uniRow .shl true false ou,
      uniRow .shr true false ou, uniRow .min true false ou, uniRow .max true false ou, uniRow .sel true false ou,
      uniRow .bfx true false ou, uniRow .bfi true true { ou with c := sr 7 }, uniRow .bit false false { ou with b := r 0 }].all
      fun c => runs c gs) = true
    ∧ ([uReq { ou with d := 5 } true false true, { Req.plain ou.g with reads := [rdS ou.a], writes := [atS ou.d] },
        { g := ou.g, phase := .C, who := .group, reads := [], writes := [atS ou.d] },
        { g := ou.g, phase := .C, who := .group, reads := [rdS ou.a, rdS ou.b], writes := [], md := some 5 },
        { Req.plain ou.g with writes := [atS ou.d], extra := gs.sprAllowed 0x17 },
        { Req.plain mu.g with reads := addrReads mu .s, writes := [atS mu.d] }].all fun q => fits q gs) = true := by
  decide +kernel
theorem witness_VectorIntegerResults :
    ([intRow .add true false ov, intRow .sub true false ov, intRow .mul true false ov, intRow .mad true true { ov with c := r 4 },
      intRow .and true false ov, intRow .or true false ov, intRow .xor true false ov, intRow .shl true false ov,
      intRow .shr true false ov, intRow .min true false ov, intRow .max true false ov, intRow .sel true false ov,
      intRow .bfx true false ov, intRow .bfi true true { ov with c := r 4 }, intRow .bit false false ov].all
      fun c => runs c gs) = true ∧ fits (lReq { ov with d := 5 } true false true) gs = true := by decide +kernel
theorem witness_VectorFloatResults :
    ([floatRow .add true false ov, floatRow .sub true false ov, floatRow .mul true false ov, floatRow .fma true true ov,
      floatRow .min true false ov, floatRow .max true false ov, floatRow .div true false ov, floatRow .rcp false false ov,
      floatRow .rsq false false ov, floatRow .sqrt false false ov, floatRow .ex2 false false ov, floatRow .lg2 false false ov,
      floatRow .sincos false false ov, floatRow .rnd false false ov].all fun c => runs c gs) = true
    ∧ fits { g := ov.g, phase := .C, who := .group, reads := triple (r 1) ++ triple (r 4), writes := [atV 7],
             extra := tripleOk (r 1) && tripleOk (r 4) } gs = true
    ∧ fits (lReq { ov with d := 5 } true false true) gs = true := by decide +kernel
theorem witness_ConversionResults :
    let o : Op := { v96 0x0909 with d := 2, a := r 1 }
    let p : Op := { v96 0x0914 with d := 2, a := r 4 }
    let q : Op := { v96 0x1409 with d := 4, a := r 1 }
    (fits { g := o.g, phase := .C, who := .group, reads := cvtReads o gs.curFmt, writes := cvtWrites o, extra := cvtPairs o } gs
      = true ∧ o.b = Src.zero)
    ∧ (fits { g := p.g, phase := .C, who := .group, writes := [atV p.d], extra := vecRangeOk p.a.reg (packCount (cwDC (word2 p))),
              reads := regRange p.a.reg (packCount (cwDC (word2 p))) .v p.a.fe ++ rndReads p gs.curFmt } gs = true
      ∧ p.b = Src.zero)
    ∧ fits { g := q.g, phase := .C, who := .group, reads := [rdAny q.a], writes := regRange q.d (packCount (cwSC (word2 q))) .v,
             extra := vecRangeOk q.d (packCount (cwSC (word2 q))) } gs = true
    ∧ fits { g := ov.g, phase := .C, who := .group, reads := [rdAny ov.a, rdAny ov.b], writes := [atV ov.d] } gs = true
    ∧ fits { g := ov.g, phase := .C, who := .group, reads := [rdAny ov.a], writes := [atV ov.d] } gs = true
    ∧ (let o1 : Op := { v96 0x00480909 with d := 2, a := r 1, b := r 3 };
      cwSr (word2 o1) gs.curFmt = true
      ∧ fits { g := o1.g, phase := .C, who := .group, reads := cvtReads o1 gs.curFmt, writes := cvtWrites o1, extra := cvtPairs o1 }
          gs = true) := by decide +kernel
theorem witness_LaneMoveResults :
    ([{ xlReq ov.g (laneReads ov false false) [atV ov.d] with extra := crossOk ov }, xlReq ov.g (amountReads { ov with b := sr 9 }) [atV ov.d],
      xlReq ov.g [rdV ov.a] [atV ov.d], xlReq ov.g [] [atV ov.d]].all fun q => fits q gs) = true := by decide +kernel
theorem witness_MaskAndReductionResults :
    ([xlReq om.g [] [] (some om.d), xlReq om.g [rdAny (r 1)] [] (some om.d), xlReq ou.g [] [atS ou.d],
      xlReq ou.g [rdV (r 1)] [atS ou.d], xlReq ov.g [rdV ov.a] [atV ov.d]].all fun q => fits q gs) = true := by decide +kernel
theorem witness_MemoryAccess :
    (fits { Req.plain mu.g with reads := addrReads mu .s, writes := [atS mu.d] } at100 = true
      ∧ at100.accessCheck (here at100) [0] (fun _ => (here at100).addr mu 0) 8 8 false = none)
    ∧ (fits { Req.plain mu.g with reads := atS mu.d :: addrReads mu .s } at100 = true
      ∧ (here at100).active ≠ 0 ∧ at100.accessCheck (here at100) [0] (fun _ => (here at100).addr mu 0) 8 8 true = none)
    ∧ (let s := at100.modGroup 0 0 fun g => { g with helper := LaneSet.all };
      fits { Req.plain mu.g with reads := atS mu.d :: addrReads mu .s } s = true ∧ (here s).active = 0)
    ∧ ([{ g := ov.g, phase := .C, who := .group, reads := rdV ov.a :: [], writes := [atS 390] },
        { g := ov.g, phase := .C, who := .group, reads := [], writes := [] },
        { g := ov.g, phase := .C, who := .group, reads := [], writes := [⟨2, .any, false⟩] }].all fun q => fits q gs) = true := by
  decide +kernel
theorem witness_MemoryAccess_lanes :
    (runs (loadCourse false 16 false false { mv with d := 4 }) at100 = true
      ∧ at100.accessCheck (here at100) (here at100).sel.toList (laneAddr (here at100) { mv with d := 4 } false 16) 16 16 false = none)
    ∧ (runs (loadCourse true 4 false false mv) at100 = true
      ∧ at100.accessCheck (here at100) (here at100).sel.toList (laneAddr (here at100) mv true 4) 4 4 false = none)
    ∧ (runs (storeCourse false 4 mv) at100 = true
      ∧ at100.accessCheck (here at100) (here at100).active.toList (laneAddr (here at100) mv false 4) 4 4 true = none)
    ∧ runs (storeCourse true 4 mv) at100 = true
      ∧ at100.accessCheck (here at100) (here at100).active.toList (laneAddr (here at100) mv true 4) 4 4 true = none := by
  decide +kernel
/-- A buffer record of one f32 element at 0x100, permitted, writable and valid. -/
def withRec : State := gs.modCore 0 fun c => { c with wgs := c.wgs.map fun p => (p.1, { p.2 with
  records := Memory.writeLE [] 0 40 (0x100 + 2 ^ 48 + 2 ^ 68 + 2 ^ 88 + 2 ^ 108 + 9 * 2 ^ 224 + 9 * 2 ^ 232 + 7 * 2 ^ 284) }) }
theorem witness_RecordAccess :
    let o : Op := { v96 0 with d := 2, a := r 1 }
    let x := here withRec
    let q := withRec.recordOf x (recNum o)
    (fits { g := o.g, phase := .C, who := .group, reads := coordReads o, writes := [atV o.d],
            extra := vecRangeOk o.a.reg (recNc o) } withRec = true
      ∧ recOk q = true ∧ withRec.recordCheck x o q x.sel.toList false = none)
    ∧ fits { g := o.g, phase := .C, who := .group, writes := [], extra := vecRangeOk o.a.reg (recNc o),
             reads := atV o.d :: coordReads o ++ (if withRec.stbSr o then [rdV o.c] else []) } withRec = true
      ∧ x.active ≠ 0 ∧ recStoreOk q = true ∧ o.c = Src.zero ∧ withRec.recordCheck x o q x.active.toList true = none := by
  decide +kernel
/-- Together with witness_MemoryAccess_lanes: the memories of that state are canonical, and the stores complete. -/
theorem witness_StoresWriteTheirBytes : at100.memoryOk = true ∧ (after (.st mv) at100 fun t => t.sliceByte 0 0x100).isSome
    ∧ (after (.stw mv) at100 fun t => t.sliceByte 0 0x100).isSome ∧ (after (.sst mu) at100 fun t => t.sliceByte 0 0x100).isSome := by
  decide +kernel
theorem witness_AtomicAccess :
    let own := fun (n : Nat) => (here at100).active ≠ 0
      ∧ at100.accessCheck (here at100) (here at100).active.toList ((here at100).addr mv) n n true = none
    ([atomCourse 4 1 (fun _ _ w => (some w, fNone)) mv, atomCourse 8 2 (fun _ _ w => (some w, fNone)) mv,
      atomCourse 8 4 (fun _ _ w => (some w, fNone)) { mv with d := 4 }].all fun c => runs c at100) = true ∧ own 4 ∧ own 8 := by decide +kernel

/-- Float rows of each TYPE; codes that are numbers, infinities and zeros. -/
theorem witness_FloatValues : typeF ov = 0 ∧ typeF { ov with fn := 0x20 } = 1 ∧ typeF { ov with fn := 0x40 } = 2
    ∧ ([(FloatFmt.f16, 0x3C01), (.bf16, 0xFF80), (.f32, 0x80000000)].all fun p => !(decodeFloat p.1 p.2).isNan) = true
    ∧ 0x3C01 < 2 ^ FloatFmt.f16.width := by decide +kernel
theorem witness_ConversionValues :
    (let w := word2 (v96 0x00010908);
      elemOfCode (cwSC w) = some (.float .f32) ∧ elemOfCode (cwDC w) = some (.float .bf16) ∧ cwX w = false ∧ cwF w = false
      ∧ cwSR w = false ∧ bits (v96 0x00010908).fn 0 5 = 0)
    ∧ (300 : Int).natAbs < 2 ^ 64 ∧ (255 : Int) < 300 ∧ -129 < (-2 : Int) ^ 7 ∧ (Elem.int false 32).bits < (Elem.int true 64).bits
    ∧ (let o : Op := { v96 0x0901 with d := 2, a := r 4 }
      let w := word2 o
      let one := fun (j : Nat) => cwConvert w (here gs).flow.fmt (cwCtl w (here gs).flow.fmt
        (((here gs).lane o.b.reg 3).rotateRight (32 / 4 * j)).toNat) ((here gs).lane (o.a.reg + BitVec.ofNat 9 j) 3).toNat
      codeBits (cwDC w) = 8 ∧ 32 / codeBits (cwDC w) = 4 ∧ ∀ m < 4, (one m).code < 2 ^ (32 / 4))
    ∧ decodeFloat .f32 (0x40490FDB : Word).toNat = .fin false 0xC90FDB (-22) := by decide +kernel
/-- Lanes that take part in a reduction, some of which are helper lanes. -/
theorem witness_ReductionValues : ((List.range 128).filter fun i => (here gs).active.getLsbD i) ≠ []
    ∧ (let s := gs.modGroup 0 0 fun g => { g with helper := 5 };
      (here s).active ≠ 0 ∧ (here s).active.getLsbD 2 = false ∧ (here s).active.getLsbD 1 = true) := by decide +kernel
/-- The record of `withRec` passes its elements on. -/
theorem witness_RecordAccess_more :
    let o : Op := { v96 0 with d := 2, a := r 1 }
    let q := withRec.recordOf (here withRec) 0
    recPass q = true ∧ recCmp q = 0 ∧ recCode (recEnc q) = true
    ∧ (let s := withRec.modGroup 0 0 fun g => { g with helper := LaneSet.all }
      let q : Req := { g := o.g, phase := .C, who := .group, writes := [], extra := vecRangeOk o.a.reg (recNc o),
                       reads := atV o.d :: coordReads o ++ (if s.stbSr o then [rdV o.c] else []) };
      fits q s = true ∧ (here s).active = 0 ∧ (here s).sel ≠ 0 ∧ recRnd (s.recordOf (here s) (recNum o)) ≠ 4
      ∧ zeroS { o with c := r 3 }.c = false ∧ o.c = Src.zero
      ∧ has (withRec.iss? withRec.cur) (fun x => x == here withRec) = true
      ∧ (match exec (.stb o) withRec with | .next t => t.sliceByte 0 0x100 == 0 | _ => false) = true
      ∧ withRec.memoryOk = true) := by decide +kernel
/-- Words apart, and two lanes at one word. -/
theorem witness_AtomicBytes :
    let addr := fun (i : Nat) => if i = 2 then 0x100 else 0x100 + 8 * i
    let apart := fun (i j : Nat) => aliasOff (addr i) + 4 ≤ aliasOff (addr j) ∨ aliasOff (addr j) + 4 ≤ aliasOff (addr i)
    at100.memoryOk = true ∧ (at100.core? 0).isSome = true ∧ [0, 2, 1] = [0, 2] ++ 1 :: [] ∧ (∀ j ∈ [0, 2] ++ [], apart 1 j)
    ∧ [0, 2, 1] = [] ++ 0 :: 2 :: [1] ∧ addr 2 = addr 0 := by decide +kernel
/-- Two loops that end at one address, the later one in entry 2. -/
def looped : Flow := { Flow.start ⟨3, 0x40⟩ with
  loops := [⟨true, 2, ⟨3, 8⟩, ⟨3, 0x40⟩, 1⟩, LoopReg.zero, ⟨true, 1, ⟨3, 0x10⟩, ⟨3, 0x40⟩, 2⟩, ⟨true, 9, ⟨3, 0⟩, ⟨3, 0x48⟩, 3⟩] }
theorem witness_SequentialPc :
    (let ends := fun (i : Nat) => (looped.loops.getD i LoopReg.zero).active = true ∧ (looped.loops.getD i LoopReg.zero).last = looped.pc;
      ends 0 ∧ ends 2 ∧ ¬ ends 1 ∧ ¬ ends 3
      ∧ (looped.loops.getD 0 LoopReg.zero).order < (looped.loops.getD 2 LoopReg.zero).order
      ∧ (looped.loops.getD 2 LoopReg.zero).remaining = 1 ∧ (looped.loops.getD 0 LoopReg.zero).remaining ≠ 1)
    ∧ looped.advance 8 = { looped with
        pc := ⟨3, 8⟩
        loops := [⟨true, 1, ⟨3, 8⟩, ⟨3, 0x40⟩, 1⟩, LoopReg.zero, ⟨false, 0, ⟨3, 0x10⟩, ⟨3, 0x40⟩, 2⟩, ⟨true, 9, ⟨3, 0⟩, ⟨3, 0x48⟩, 3⟩] }
    ∧ has (gs.group? (here gs).core (here gs).slot) (fun g => (g.split? (here gs).entry).isSome) = true ∧ (here gs).isCt = false
    ∧ (cs.cctx? (here cs).core (here cs).ctx).isSome = true ∧ (here cs).isCt = true := by decide +kernel

/-- A group whose join records are those given, in order. -/
def recsOf (l : List JoinRec) (exited : LaneSet) (g : Group) : Group :=
  { g with recs := l.map some ++ List.replicate (15 - l.length) none, exited := exited }
/-- A record of one join, of all lanes. -/
def aRec (expected arrived deferred : LaneSet) (parent : Option Nat) : JoinRec :=
  ⟨⟨0, 0x20⟩, expected, arrived, 0, List.replicate 4 LoopReg.zero, LaneSet.all, deferred, ⟨0, 0x10⟩, parent⟩
/-- The group of `gs`, with one split and these records. -/
def joining (l : List JoinRec) (exited : LaneSet) : Group :=
  recsOf l exited ((gs.group? 0 0).getD (startGroup 0 0 0 1 ⟨0, 0⟩ []))
/-- Every parent stands before its record: the records are nested. -/
theorem records_nested (g : Group) (hl : g.recs.length = 15)
    (h : ((List.range 15).all fun q => has (some (g.rec? q)) fun k => k.all fun k => k.parent.all fun p => decide (p < q)) = true) :
    ∃ rank : Nat → Nat, ∀ q k p, g.rec? q = some k → k.parent = some p → rank p < rank q := by
  refine ⟨id, fun q k p hq hp => ?_⟩
  have hlt : q < 15 := by
    refine Nat.lt_of_not_le fun hle => ?_
    unfold Group.rec? at hq
    rw [List.getElem?_eq_none (by omega)] at hq
    cases hq
  have := List.all_eq_true.1 h q (List.mem_range.2 hlt)
  simpa [has, hq, hp] using this
theorem witness_JoinEvents :
    let waits := fun (h : Group) (q : JoinRec) =>
      q.expected &&& ~~~q.deferred &&& ~~~(q.arrived ||| (h.exited &&& q.expected)) ≠ 0
    let only := fun (g : Group) (r : Nat) => (List.range 15).all fun q => q == r || (g.rec? q).all fun k => decide (waits g k)
    let nested := fun (g : Group) => (List.range 15).all fun q => has (some (g.rec? q)) fun k => k.all fun k =>
      k.parent.all fun p => decide (p < q)
    let a := joining [aRec 15 1 0 none] 0
    let b := joining [aRec 15 15 0 none] 15
    let c := joining [{ aRec 255 0 0 none with join := ⟨0, 0x40⟩ }, aRec 15 15 0 (some 0)] 0
    let d := joining [aRec 255 0 0 none, aRec 15 15 0 (some 0)] 0
    let e := joining [aRec 15 3 12 none] 0
    ([a, b, c, d, e].all fun g => g.recs.length == 15 && nested g && (firstFree g.splits).isSome
      && (firstFree (g.joinEvent 32).splits).isSome) = true
    ∧ (only a 0 && only b 0 && only c 1 && only d 1 && only e 0) = true
    ∧ has (a.rec? 0) (fun j => decide (waits a j)) = true
    ∧ has (b.rec? 0) (fun j => decide (¬ waits b j ∧ j.deferred = 0 ∧ j.arrived &&& ~~~b.exited = 0)) = true
    ∧ has (c.rec? 1) (fun j => decide (¬ waits c j ∧ j.deferred = 0 ∧ j.arrived &&& ~~~c.exited ≠ 0)
        && has (c.rec? 0) fun q => q.join != j.join) = true
    ∧ has (d.rec? 1) (fun j => decide (¬ waits d j ∧ j.deferred = 0 ∧ j.arrived &&& ~~~d.exited ≠ 0) && j.parent == some 0
        && has (d.rec? 0) fun q => q.join == j.join && decide (waits d { q with arrived := q.arrived ||| 15 })) = true
    ∧ has (e.rec? 0) (fun j => decide (¬ waits e j ∧ j.deferred ≠ 0 ∧ waits e { j with deferred := 0 })) = true := by decide +kernel

/-- m1 has lanes 0 and 2. -/
def m1 : State := State.uni gs fun u => u.setMask 1 5
/-- What a bra guarded by m1 sees. -/
def xbra : Iss := (seen { Req.plain ⟨false, 1⟩ with always := true } m1).getD nobody
theorem witness_BranchesAndCalls :
    fits (Req.plain Guard.none) gs = true ∧ fits { Req.plain Guard.none with writes := [atS 390] } gs = true
    ∧ (fits { Req.plain Guard.none with always := true } gs = true ∧ (here gs).isCt = false ∧ (here gs).sel = (here gs).exec)
    ∧ (fits { Req.plain Guard.none with always := true } cs = true ∧ (here cs).isCt = true ∧ (here cs).sel ≠ 0)
    ∧ (let z := (seen { Req.plain ⟨false, 2⟩ with always := true } m1).getD nobody;
      seen { Req.plain ⟨false, 2⟩ with always := true } m1 = some z ∧ z.sel = 0 ∧ z.sel ≠ z.exec)
    ∧ (let z := (seen { Req.plain ⟨false, 2⟩ with always := true } cs).getD nobody;
      seen { Req.plain ⟨false, 2⟩ with always := true } cs = some z ∧ z.sel = 0 ∧ z.isCt = true) := by decide +kernel
theorem witness_DivergenceSplitsLanes :
    seen { Req.plain ⟨false, 1⟩ with always := true } m1 = some xbra ∧ xbra.isCt = false ∧ xbra.sel ≠ xbra.exec ∧ xbra.sel ≠ 0
    ∧ ∃ g sp, m1.group? 0 0 = some g ∧ g.split? 0 = some sp ∧ xbra.core = 0 ∧ xbra.slot = 0 ∧ xbra.entry = 0
      ∧ firstFree g.recs = some 0 ∧ firstFree g.splits ≠ none ∧ 1 < g.freeRecs :=
  ⟨by decide +kernel, by decide +kernel, by decide +kernel, by decide +kernel, _, _, rfl, rfl, by decide +kernel,
    by decide +kernel, by decide +kernel, by decide +kernel, by decide +kernel, by decide +kernel⟩

/-- Two splits at a join, in one record. -/
def atJoin : State := then_ (.bra { b64 with g := ⟨false, 1⟩, t16 := 2, j16 := 2 }) m1
theorem witness_JoinsAndExits :
    let q := Req.plain Guard.none
    (fits q atJoin = true
      ∧ has (here atJoin).grp (fun g => has (g.split? 0) fun sp => has sp.innermost fun n => has (g.rec? n) fun j =>
        j.join == (here atJoin).pc) = true)
    ∧ (fits q gs = true
      ∧ has (here gs).grp (fun g => has (g.split? 0) fun sp => (sp.innermost.bind g.rec?).all fun j => j.join != (here gs).pc) = true)
    ∧ fits { q with noSup := true } gs = true ∧ (fits { q with noSup := true } cs = true ∧ (here cs).isCt = true) ∧ fits q cs = true
    ∧ has (here atJoin).grp (fun g => has (g.split? 0) fun sp => (g.chain 1 sp.innermost).length == 1) = true
    ∧ has (here gs).grp (fun g => has (g.split? 0) fun sp => (g.chain 1 sp.innermost).length == 0) = true := by decide +kernel
theorem witness_OverlayCallsAndLoops :
    let s := withS gs [(8, 0x20)]
    let x := here s
    (fits { Req.plain Guard.none with reads := [rdS (sr 8)], writes := [atS 390] } s = true ∧ x.sup = false
      ∧ bits (x.s 392) 44 20 = 0 ∧ bits (x.s 392) 0 2 = 0 ∧ has (s.residentImage x 0) (fun i => decide (0x20 < i.len ∧ 0 < i.ecnt)) = true)
    ∧ (fits { Req.plain Guard.none with reads := [rdS (sr 8)], writes := [atS 390] } fs = true ∧ (here fs).sup = true
      ∧ bits ((here fs).s 392) 44 20 = 0 ∧ bits ((here fs).s 392) 0 2 = 0)
    ∧ (fits { Req.plain Guard.none with reads := [rdS (sr 8)], always := true } s = true
      ∧ (x.flow.loops.getD 0 LoopReg.zero).active = false ∧ (x.s 392).lo ≠ 0 ∧ (x.s 393).lo = 0 ∧ x.sel ≠ 0) := by decide +kernel
/-- A value in the decision queue, and a pop that waits. -/
def pushed : State := then_ (.dqPush { op0 with a := sr 8 }) cs
def popped : State := gs.modCctx 0 0 fun c => { c with pops := [⟨0, 6⟩] }
theorem witness_WaitsAndDecisionQueue :
    (fits (Req.plain Guard.none) gs = true ∧ (here gs).uni.pend.getLsbD 0 = false ∧ ((here gs).uni.count 0).val ≤ 0)
    ∧ (fits { Req.plain Guard.none with who := .ct, reads := [rdS (sr 8)], noSup := true } cs = true
      ∧ has (cs.cctx? 0 0) (fun c => c.pops.isEmpty && decide (c.dq.length < 64)) = true)
    ∧ (let s := cs.modCctx 0 0 fun c => { c with pops := [⟨0, 6⟩] };
      fits { Req.plain Guard.none with who := .ct, reads := [rdS (sr 8)], noSup := true } s = true
      ∧ has (s.cctx? 0 0) (fun c => c.pops.length == 1 && c.dq.isEmpty) = true)
    ∧ (fits { Req.plain Guard.none with who := .group, writes := [atS 390], noSup := true } gs = true
      ∧ has (gs.cctx? 0 0) (fun c => c.dq.isEmpty && decide (c.pops.length < 64)) = true)
    ∧ (let s := gs.modCctx 0 0 fun c => { c with dq := [7] };
      fits { Req.plain Guard.none with who := .group, writes := [atS 390], noSup := true } s = true
      ∧ has (s.cctx? 0 0) (fun c => c.dq.length == 1 && c.pops.isEmpty) = true) := by decide +kernel
/-- A pending fault of class 0, and an empty counter. -/
theorem witness_WaitsAndDecisionQueue_pending : let s := State.uni gs fun u => { u with pend := 1 }
    fits (Req.plain Guard.none) s = true ∧ (here s).uni.pend.getLsbD 0 = true := by decide +kernel
theorem witness_SpecialRegisters :
    ([{ Req.plain Guard.none with md := some 5, extra := gs.sprAllowed 2 },
      { Req.plain Guard.none with writes := [atV 2], extra := gs.sprAllowed 3 },
      { Req.plain Guard.none with writes := [atS 390], extra := gs.sprAllowed 8 },
      { Req.plain Guard.none with extra := gs.sprAllowed 0 },
      { Req.plain Guard.none with reads := [rdS (sr 8)], extra := gs.sprAllowed 4 }].all fun q => fits q gs) = true
    ∧ ((here gs).s 392).hi = 0 ∧ fmtOk ((here gs).s 392).lo = true ∧ sprKind 2 = some .mask ∧ sprKind 3 = some .vector
    ∧ fmtOk (word2 (v96 0x6000)) = true := by decide +kernel
/-- A group and a control thread whose CT context handles nothing; one that handles a delivery; firmware. -/
theorem witness_TrapInstructionsEnterFirmware :
    ([gs, cs].all fun s => fits (Req.plain Guard.none) s && !(here s).sup
      && has (s.cctx? 0 0) fun c => c.handling.isNone && c.deliveries.isEmpty) = true := by decide +kernel
theorem witness_TrapsAreDelivered :
    (let s := then_ (.brkpt op0) cs;
      has (s.cctx? 0 0) (fun c => c.handling.isSome) = true ∧ (here gs).sup = false ∧ (here gs).core = 0 ∧ (here gs).ctx = 0)
    ∧ (here fs).sup = true ∧ (fs.cctx? 0 0).isSome = true ∧ (fs.ctx? 0).isSome = true := by decide +kernel

/-- An allocation of 64 KiB, a wing pair of 4 KiB at 0x2000 and a barrier object at 0x100, both of the group. -/
def big : State := (withS gs [(8, 0x100), (9, 0x200)]).modCore 0 fun c =>
  { c with wgs := c.wgs.map fun p => (p.1, { p.2 with limit := 0x10000 }) }
def winged : State := (big.modCctx 0 0 fun c =>
  { c with wings := [⟨0, 0x2000, 0x1000, (here big).owner, none⟩], objs := [⟨5, 0x100, (here big).owner⟩] }).sliceWrite 0 0x100
    (ObjVal.bytes ⟨false, 1, 0, 0, 0, 7, 5, false, false, 0, 0⟩)
theorem witness_EngineInstructionsIssue :
    ([sweepReq ou true true false, sweepReq { ou with c := sr 7 } true true true, sweepReq ou true false false,
      sweepReq ou false false true].all fun q => fits q gs || !(q.reads.all fun o => isS o.reg)) = true
    ∧ (here gs).active ≠ 0 ∧ ((here gs).uni.count 0).val < 63
    ∧ (let s := gs.modGroup 0 0 fun g => { g with helper := LaneSet.all };
      fits (sweepReq ou true true false) s = true ∧ (here s).active = 0)
    ∧ (let o : Op := { e128 1 0 with d := 390, a := sr 8, c := sr 10 };
      fits { g := o.g, phase := .C, who := .group, writes := [], reads := [atS o.d, rdS o.a, rdS o.c] } gs = true
      ∧ swcvtOk o 0x0909 0 = true)
    ∧ (let o : Op := { e128 16 0 with d := 390, a := sr 8 };
      fits { g := o.g, phase := .C, who := .any, writes := [], reads := [atS o.d, rdS o.a] ++ countReads o } gs = true
      ∧ ((here gs).count o).toNat < 2 ^ 32 ∧ ebWV o = false)
    ∧ (let o : Op := { e128 16 0x8000 with d := 390, a := sr 8 };
      fits { g := o.g, phase := .C, who := .any, writes := [], reads := [atS o.d, rdS o.a] ++ countReads o } winged = true
      ∧ ebWV o = true ∧ winged.flipTarget (here winged) false false = some 0 ∧ winged.wingBound (here winged) (ebWH o) = true)
    ∧ (let o : Op := { e128 2 0x8000 with d := 390, a := r 4 };
      fits { g := o.g, phase := .C, who := .group, writes := [], extra := ebCnt o == 0 || vecRangeOk o.a.reg (ebCnt o),
             reads := atS o.d :: (countReads o ++ (if ebCnt o = 0 then [] else regRange o.a.reg (ebCnt o) .v o.a.fe)) } winged = true
      ∧ (regRange o.a.reg 2 .v o.a.fe).all (fun q => q.ok false 1 && !(here winged).empty q.reg
        && (here winged).inError (here winged).sel q.reg == 0) = true) := by decide +kernel
theorem witness_EngineInstructionsIssue_more :
    (let o : Op := { e128 1 0 with d := 390 }
      let s := withS withRec [(6, 0x200)]
      let x := here s
      let q := s.recordOf x 0
      let l := cpyxElems q false (s.allocBase x) 0x200
      let re := extentSpan (recSize q) (l.map CpyxElem.recA)
      let pe := extentSpan (codeBits (recView q) / 8) (l.map CpyxElem.plainA)
      fits { g := o.g, phase := .C, who := .any, writes := [], reads := [atS o.d] ++ countReads o } s = true
      ∧ x.isCt = false ∧ recOk q = true ∧ (x.count o).toNat = recCount q ∧ extentsMeet x.core re pe = false
      ∧ (List.range (pe.2 - pe.1)).all (fun i => s.cpyxByteOk x (pe.1 + i)) = true)
    ∧ (let o : Op := { e128 8 0 with d := 390, a := sr 8 };
      fits { g := o.g, phase := .X, who := .ct, writes := [], reads := [atS o.d, rdS o.a] ++ (if true then [rdS (sr 9)] else [])
             ++ countReads o } xs = true ∧ ((here xs).count o).toNat < 2 ^ 32) := by decide +kernel
/-- An operation of each kind that is first in its order. -/
def opFirst (i : Instr) (s : State) : Bool :=
  has ((then_ i s).core? 0) fun c => has c.ops.head? fun o => c.nextOp o.id (fun _ => true) == some o && o.instr == i
theorem witness_EngineOperationsRun :
    opFirst (.swmov { e128 1 0 with d := 390, a := sr 8 }) big = true ∧ opFirst (.cpy { e128 16 0 with d := 393, a := sr 8 }) big = true
    ∧ opFirst (.xst { e128 2 0x8000 with d := 390, a := r 4 }) winged = true
    ∧ opFirst (.cpyx { e128 1 0 with d := 390 }) (withS withRec [(6, 0x200)]) = true
    ∧ opFirst (.xput { e128 8 0 with d := 390, a := sr 8 }) xs = true := by decide +kernel
/-- Page tables: at 0 and at 0x1000 of the device memory, and leaves of 1 GiB from 1 GiB on. -/
def pages (m : Memory) : Memory := ((((m.writeLE (8 * 2) 8 0x1001).writeLE 0x1000 8 0x40000007).writeLE 0x1008 8 0x80000007).writeLE
  0x1010 8 0xC0000007)
/-- The first operation of core 0. -/
def firstOp (s : State) : Option EngineOp := (s.core? 0).bind fun c => c.ops.head?
/-- An operation of core 0 that has its turn, and a condition on it. -/
def turnB (s : State) (p : EngineOp → Bool) : Bool :=
  has (firstOp s) fun o => has (s.core? 0) (fun c => c.nextOp o.id (fun _ => true) == some o) && o.who.core == 0 && s.memoryOk && p o
/-- A sweep of one iteration over rows at 0x200, 0x400 and 0x600. -/
def swO : Op := { e128 1 0 with d := 390, a := sr 8, b := sr 9, c := sr 7 }
def sweeping (i : Instr) : State := then_ i (withS big [(6, 0x800), (8, 0x200), (9, 0x400), (7, 0x3F800000)])
theorem witness_SweepBytes :
    ([(.swadd swO, true, true), (.swfma swO, true, true), (.swmov { swO with b := r 0, c := r 0 }, true, false), (.swfill { swO with a := r 0, b := r 0 }, false, false),
      (.swsel swO, true, true)].all fun (p : Instr × Bool × Bool) =>
        turnB (sweeping p.1) fun op => op.instr == p.1 && ((sweeping p.1).opFault op (swSpans op swO 0 4
          ++ (if p.2.1 then swSpans op swO 1 4 else []) ++ (if p.2.2 then swSpans op swO 2 4 else []))).isNone) = true
    ∧ (let o : Op := { swO with b := r 0 }
      let s := then_ (.swcvt o) (withS big [(6, 0x800), (8, 0x200), (7, 0x0908)]);
      turnB s fun op => op.instr == .swcvt o && codeBits (cwDC (op.val 3).lo) / 8 == 2 && codeBits (cwSC (op.val 3).lo) / 8 == 4
        && !cwSr (op.val 3).lo op.fmt && (s.opFault op (swSpans op o 0 2 ++ swSpans op o 1 4)).isNone) = true := by decide +kernel
theorem witness_SweepReduces : let o : Op := { swO with b := r 0, c := r 0 }
    turnB (sweeping (.swred o)) (fun op => op.instr == .swred o && decide (0 < swIter o) && decide (swType o ≤ 4)
      && ((sweeping (.swred o)).opFault op (⟨wrap48 (op.val 0).toNat, 4, true, false, 4⟩ :: swSpans op o 1 4)).isNone) = true := by
  decide +kernel
/-- Firmware's copies, in a context whose tables map GDDR 7. -/
def copying (n : Word) (d a : DWord) : State :=
  let s := withS ((State.modCtx { fs with gddr := pages [] } 0 fun d => { d with ptroot := 1 }).modCctx 0 0 fun c =>
    { c with sllim := 0x10000 }) [(6, d), (8, a)]
  then_ (.cpy { e128 n 0 with d := 390, a := sr 8 }) s
theorem witness_CopyBytes :
    (let s := then_ (.cpy { e128 0 0 with d := 390, a := sr 8, c := sr 9 }) (withS big [(6, 0x800), (9, 0)]);
      (turnB s fun op => (op.val 2).toNat == 0) = true)
    ∧ (let o : Op := { e128 16 0x8000 with d := 390, a := sr 8 }
      let s := then_ (.cpy o) winged;
      (turnB s fun op => op.instr == .cpy o && ebWV o && (op.val 2).toNat == 16 && op.ref.isSome
        && (s.opFault op [⟨wrap48 (op.val 1).toNat, 16, false, false, 1⟩]).isNone) = true)
    ∧ ([(copying 16 0x010000000040 0x100, 0x100, 0x010000000040), (copying 16 0x100 0x010000000040, 0x010000000040, 0x100)].all
      fun (p : State × Nat × Nat) => turnB p.1 fun op => wrap48 (op.val 1).toNat == p.2.1 && wrap48 (op.val 0).toNat == p.2.2
        && (op.val 2).toNat == 16 && (p.1.opFault op [⟨p.2.1, 16, false, true, 1⟩, ⟨p.2.2, 16, true, true, 1⟩]).isNone
        && isVirtual p.2.1 != isVirtual p.2.2 && decide (p.2.2 % 4096 + 16 ≤ 4096)
        && (!isVirtual p.2.1 || (chunks p.2.1 16).all fun c => (p.1.chunkAt 0 c.1 c.2 false).isSome)
        && (!isVirtual p.2.2 || (p.1.chunkAt 0 p.2.2 16 true).isSome)) = true
    ∧ (let o : Op := { e128 2 0x8000 with d := 390, a := r 4 }
      let s := then_ (.xst o) winged;
      (turnB s fun op => op.instr == .xst o && op.ref.isSome && op.rows.length == 2 && op.lanes != 0) = true) := by decide +kernel
theorem witness_CpyxBytes :
    let o : Op := { e128 1 0 with d := 390 }
    let s := then_ (.cpyx o) (withS withRec [(6, 0x200)])
    turnB s (fun op => op.instr == .cpyx o && op.who.party == some (.group 0) && has (s.workgroup? 0 0) fun wg =>
      let r := recordBits wg.records (ebRec o).toNat
      let els := cpyxElems r (o.fn.getLsbD 2) wg.base (op.val 0).toNat
      !els.isEmpty && (els.all fun e => !isVirtual e.recA && !isVirtual e.plainA)
      && (s.opFault op ((els.map fun e => (⟨e.recA, recSize r, false, true, 1⟩ : Span))
        ++ els.map fun e => (⟨e.plainA, codeBits (recView r) / 8, true, true, 1⟩ : Span))).isNone) = true := by decide +kernel
/-- An exchange transfer of a control thread whose region is 64 KiB and whose tables map GDDR 7. -/
def exchanging (i : Instr) (d a b : DWord) : State :=
  then_ i (withS ((State.modCtx { xs with gddr := pages [] } 0 fun d => { d with ptroot := 1 }).modCctx 0 0 fun c =>
    { c with sllim := 0x10000 }) [(6, d), (8, a), (9, b)])
/-- The operands of a transfer pass. -/
def passes (s : State) (dst src : Option (Nat × Nat)) (dv : Bool) : Bool := turnB s fun op => (s.xFault op dst src dv).isNone
theorem witness_ExchangeBytes :
    let o : Op := { e128 16 0 with d := 390, a := sr 8, b := sr 9 }
    let p : Op := { o with b := r 0 }
    (let s := exchanging (.xmov p) 0x200 0x100 0; passes s (some (0x200, 16)) (some (0x100, 16)) false) = true
    ∧ ([(0x200, 0x010000000100), (0x010000000100, 0x200)].all fun (q : DWord × DWord) =>
        let s := exchanging (.xgm p) q.1 q.2 0;
        passes s (some (q.1.toNat, 16)) (some (q.2.toNat, 16)) true && isVirtual q.1.toNat != isVirtual q.2.toNat
        && (s.chunkAt 0 0x010000000100 16 true).isSome && (chunks 0x010000000100 16).all fun c => (s.chunkAt 0 c.1 c.2 false).isSome) = true
    ∧ (let s := exchanging (.xput p) 0x200 0x1122 0; passes s (some (0x200, 16)) none true) = true
    ∧ (let s := exchanging (.xmc o) 0x200 0x100 3;
      passes s none (some (0x100, 16)) false && turnB s fun op => op.val 3 == 3
        && (List.range 16).all fun i => s.xSliceOk 0 0 (0x200 + i) && !s.xSliceOk 0 1 (0x200 + i)) = true
    ∧ (let d : Op := { e128 16 0x8000 with d := 390, a := sr 8, b := sr 9 }
      let s := exchanging (.xmc d) 0x200 0x100 1; let z := exchanging (.xmc d) 0x200 0x100 0;
      passes s none (some (0x100, 16)) false && turnB s (fun op => op.instr == .xmc d && ebWV d && op.val 3 != 0 && op.ref.isSome)
      && passes z none (some (0x100, 16)) false && turnB z fun op => op.val 3 == 0) = true
    ∧ (let s := exchanging (.xadd p) 0x200 0x100 0;
      passes s (some (0x200, 64)) (some (0x100, 64)) false && has (s.ctx? 0) (fun c => !c.detached)
      && (match rangeOf 0 0x200 with | .slice 0 0x200 => true | _ => false) && turnB s fun op => (op.val 2).toNat == 16) = true
    ∧ ([xs, exchanging (.xmov p) 0x200 0x100 0].all fun s => (s.ctx? 0).isSome) = true := by decide +kernel
/-- Operands of each class that fail: misaligned, in the slice of another core, outside; and an operation with such a fault. -/
theorem witness_EngineFaults :
    (let s := sweeping (.swadd swO);
      turnB s fun op => s.opFault op [⟨0x201, 4, true, false, 4⟩] == some (0x08, 0x201)
        && (s.opFault op [⟨0x100, 16, false, true, 1⟩]).isNone && s.judgeByte 0 0 op.party true 0x11000 == 7
        && ((s.opFault op [⟨0x11000, 16, false, true, 1⟩]).map Prod.fst) == some 0x07) = true
    ∧ (turnB (then_ (.cpy { e128 16 0x8000 with d := 390, a := sr 8 }) winged) fun op =>
        winged.judgeByte 0 0 op.party true 0x104000200 == 4
        && ((winged.opFault op [⟨0x104000200, 16, true, true, 1⟩]).map Prod.fst) == some 0x04) = true
    ∧ (let s := then_ (.swadd swO) (withS big [(6, 0x801), (8, 0x200), (9, 0x400)]);
      turnB s fun op => has (sweepPlan op) (fun p => (s.opFault op (swSpans op p.1 0 p.2.wD ++ swSpans op p.1 1 p.2.wA
        ++ swSpans op p.1 2 p.2.wB)).isSome && p.2.useA && p.2.useB) && op.ref.isSome) = true
    ∧ (let o : Op := { swO with b := r 0, c := r 0 }
      let s := then_ (.swred o) (withS big [(6, 0x801), (8, 0x200)]);
      turnB s fun op => (s.opFault op (⟨0x801, 4, true, false, 4⟩ :: swSpans op o 1 4)).isSome && op.ref.isSome) = true
    ∧ (let s := then_ (.cpy { e128 16 0 with d := 390, a := sr 8 }) (withS big [(6, 0x20000), (8, 0x100)]);
      turnB s fun op => (s.opFault op [⟨0x100, 16, false, true, 1⟩, ⟨0x20000, 16, true, true, 1⟩]).isSome && op.ref.isSome) = true
    ∧ (let o : Op := { e128 16 0 with d := 390, a := sr 8 }
      let s := exchanging (.xmov o) 0x20000 0x100 0; let u := exchanging (.xput o) 0x20000 0 0;
      let v := exchanging (.xmc { o with b := sr 9 }) 0x200 0x20000 1;
      (turnB s fun op => (s.xFault op (some (0x20000, 16)) (some (0x100, 16)) false).isSome && op.ref.isSome)
      && (turnB u fun op => (u.xFault op (some (0x20000, 16)) none true).isSome && op.ref.isSome)
      && turnB v fun op => (v.xFault op none (some (0x20000, 16)) false).isSome && op.ref.isSome) = true
    ∧ (let u := (here gs).uni
      let v := { u with counts := u.counts.set 2 ⟨3, [.running]⟩ };
      u.counts.length = 5 ∧ v.count 2 = ⟨3, [.running]⟩
      ∧ ({ u with counts := u.counts.set 2 ⟨3, [.running, .running]⟩ } : Uni).count 2 = ⟨3, .running :: [.running]⟩) := by decide +kernel
theorem witness_CopyIsMemmove :
    let s := then_ (.cpy { e128 16 0 with d := 393, a := sr 8 }) big
    s.memoryOk = true ∧ has (s.core? 0) (fun c => has c.ops.head? fun o => o.who.core == 0 && (o.val 2).toNat == 16
      && wrap48 (o.val 1).toNat == 0x100 && wrap48 (o.val 0).toNat == 0x200
      && (s.opFault o [⟨0x100, 16, false, true, 1⟩, ⟨0x200, 16, true, true, 1⟩]).isNone
      && (match exec (.copyExecute 0 o.id) s with | .next _ => true | _ => false)) = true
    ∧ isVirtual 0x100 = false ∧ isVirtual 0x200 = false := by decide +kernel
theorem witness_ResultsLand :
    (let s := then_ (.ld { mv with fn := 4 }) at100;
      has (s.core? 0) (fun c => has c.results.head? fun q => c.results.find? (fun e => e.id == q.id && e.kind == .load) == some q
        && q.party == .group 0 && q.vregs.length == 1 && q.sregs.isEmpty && q.ref.isNone) = true
      ∧ has (s.group? 0 0) (fun g => decide (2 < g.v.length)) = true)
    ∧ (let s := then_ (.vtos { op0 with d := 390, a := r 1 }) gs;
      has (s.core? 0) (fun c => has c.results.head? fun q => q.kind == .vtos) = true)
    ∧ (let s := then_ (.atom mv) at100; has (s.core? 0) (fun c => has c.results.head? fun q => q.kind == .atomic) = true) := by
  decide +kernel
theorem witness_WingPairs :
    (let s := withS big [(8, 0x2000)]
      let o : Op := { e128 0x1000 0x8200 with a := sr 8 }
      let x := here s
      fits { g := o.g, phase := .C, who := .any, reads := rdS o.a :: countReads o, writes := [] } s = true
      ∧ (x.count o).toNat = 0x1000 ∧ (x.s o.a.reg).toNat % 4096 = 0 ∧ s.ownExtent x 0x2000 0x2000 = some 0x2000
      ∧ has (s.core? 0) (fun c => decide (c.wingCount < 64) && c.cctx.all fun d => d.wings.isEmpty && d.objs.isEmpty) = true
      ∧ ebBV o = false)
    ∧ fits { g := Guard.none, phase := .C, who := .any, reads := [], writes := [] } winged = true
      ∧ has (winged.cctx? 0 0) (fun c => has (c.wing? 0) fun w => w.owner == (here winged).owner) = true := by decide +kernel
theorem witness_BarrierObjects :
    let q : Req := { g := Guard.none, phase := .C, who := .any, reads := [rdS (sr 8), rdS (sr 9)], writes := [] }
    (let s := withS big [(8, 0x100), (9, 0x10005)]
      let x := here s
      fits q s = true ∧ bits (x.s 393) 9 7 = 0 ∧ (x.s 393).getLsbD 8 = false ∧ (x.s 392).toNat % 32 = 0
      ∧ s.ownExtent x 0x100 32 = some 0x100 ∧ bits (x.s 393) 16 16 ≠ 0
      ∧ has (s.core? 0) (fun c => decide (c.objCount < 256) && !c.meetsWing 0x100 32 && !c.meetsObj 0x100 32) = true
      ∧ has (s.cctx? 0 0) (fun c => (c.obj? 5).isNone) = true)
    ∧ (let s := withS winged [(8, 0x100), (9, 5)]
      let x := here s
      fits q s = true ∧ bits (x.s 393) 8 8 = 0 ∧ bits (x.s 393) 16 16 = 0 ∧ s.ownExtent x 0x100 32 = some 0x100
      ∧ has (s.objVal? 0 0 5) (fun p => p.1.owner == x.owner && p.2.arr == 0 && p.2.byt == 0 && p.2.narr == 0 && p.2.nbyt == 0) = true
      ∧ has (s.cctx? 0 0) (fun c => c.wings.all (fun w => w.bar != some 5) && c.wait == .none) = true)
    ∧ (let s := withS winged [(8, 5), (9, 6)]
      let x := here s
      fits q s = true ∧ fits { g := Guard.none, phase := .C, who := .any, reads := [rdS (sr 8)], writes := [atS 390] } s = true
      ∧ bits (x.s 392) 8 56 = 0 ∧ has (s.objVal? 0 0 5) (fun p => p.2.gen == 7 && p.2.gen != (x.s 393).lo && !p.2.scope) = true
      ∧ (let u := withS winged [(8, 5), (9, 7)]; has (u.objVal? 0 0 5) (fun p => p.2.gen == ((here u).s 393).lo) = true)) := by
  decide +kernel
/-- One arrival of each kind at a generation boundary. -/
theorem witness_BarrierGenerations :
    let v : ObjVal := ⟨false, 2, 1, 0, 0, 7, 5, false, false, 0, 0⟩
    v.arr ≠ v.expa ∧ { v with arr := 2 }.arr = { v with arr := 2 }.expa ∧ { v with arr := 2 }.byt = { v with arr := 2 }.expb
    ∧ v.expa ≠ 0 ∧ v.narr < v.expa ∧ ¬ (v.arr = v.expa ∧ v.byt = v.expb) := by decide +kernel

/-- A deposit into the wing pair, not yet judged, and its next stages; an arrival, in flight and held. -/
def depositing : State :=
  let s := then_ (.cpy { e128 16 0x8000 with d := 390, a := sr 8 }) winged
  match s.core? 0 with
  | some c => match c.ops.head? with | some o => then_ (.copyExecute 0 o.id) s | none => s
  | none => s
def arriving : State := then_ (.barv { op0 with d := 390, a := sr 8 }) (withS winged [(8, 5)])
theorem witness_DepositsAndArrivals :
    has depositing.deposits.head? (fun d => d.verdict.isNone && (depositing.depositPair d).isSome
      && (depositing.deposits.find? fun e => e.verdict.isNone && e.target == d.target && e.who.core == d.who.core
          && e.ref.party == d.ref.party) == some d) = true
    ∧ (let s := depositing.modCctx 0 0 fun c => { c with wings := [] };
      has s.deposits.head? (fun d => (s.depositPair d).isNone) = true)
    ∧ has depositing.deposits.head? (fun d => has ((then_ (.depositArrival d.id) depositing).deposits.head?) fun e =>
        e.verdict.isSome && e.opId == d.opId) = true
    ∧ has arriving.arrivals.head? (fun a => !a.held && has (arriving.objVal? a.target a.ctx a.k) fun p =>
        (p.2.arrive a.gen a.flip).isSome) = true := by decide +kernel
theorem witness_SuperstepsAndExchange :
    let q : Req := { g := Guard.none, phase := .C, who := .any, reads := [], writes := [], noSup := true }
    (fits q cs = true ∧ (here cs).isCt = true)
    ∧ (fits q gs = true ∧ has (here gs).grp (fun g => decide (g.splitCount ≤ 1) && g.recs.all Option.isNone) = true)
    ∧ (let s := then_ (.parv b64) gs;
      has (s.group? 0 0) (fun g => has (g.held fun w => match w with | .parv _ => true | _ => false) (fun e => e == 0)
        && s.ctxLive 0 g.ctx && !g.frozen && !g.parked && g.uni.idle && g.uni.sEmpty == 0 && g.vEmpty == 0 && g.uni.pend == 0
        && !s.holdsLatch 0 g) = true)
    ∧ (let s := then_ (.parv { b64 with t16 := 4 }) cs;
      has (s.cctx? 0 0) (fun c => (match c.wait with | .parv _ => true | _ => false) && s.ctxLive 0 0 && c.running && !c.stopped
        && c.user.uni.idle && c.user.uni.sEmpty == 0 && c.user.uni.pend == 0) = true)
    ∧ (let x : Req := { g := Guard.none, phase := .X, who := .ct, reads := [], writes := [], noSup := true }; fits x xs = true)
    ∧ (let s := then_ (.xsync op0) xs;
      s.phase.getLsbD 0 = true ∧ s.transfersDone 0 = true
      ∧ has (s.ctx? 0) (fun d => d.member) = true
      ∧ has (s.cctx? 0 0) (fun c => c.resident && c.running && c.wait == .xsync && !c.stopped) = true
      ∧ ((List.range 63).all fun k => has (s.cctx? (k + 1) 0) fun c => !c.resident) = true) := by decide +kernel

/-- Where accesses are performed as they issue, no order is kept. -/
theorem witness_ResultsLand_performed : ([.ld { mv with fn := 4 }, .atom mv] : List Instr).all (fun i =>
    has ((then_ i at100).core? 0) fun c => c.nodes.isEmpty && c.results.length == 1) = true := by decide +kernel
/-- The objects of `winged` are in no word in error. -/
theorem witness_BarrierObjects_good : has (winged.core? 0) (fun c => has (winged.objVal? 0 0 5) fun p =>
    (c.poisoned false p.1.addr 32).isNone && !p.2.scope) = true := by decide +kernel
/-- `State.nextDeposit`, as a test. -/
def nextB (s : State) (d : Deposit) : Bool :=
  s.deposits.find? (fun e => e.id == d.id && e.verdict.isNone) == some d
  && s.deposits.find? (fun e => e.verdict.isNone && e.target == d.target && e.who.core == d.who.core && e.ref.party == d.ref.party) == some d
  && (s.deposits.all fun e => e.verdict.isSome || e.who.core != d.who.core || e.target != d.target
    || decide (e.bytes.length ≤ 64) != decide (d.bytes.length ≤ 64) || decide (d.id ≤ e.id))
  && (d.bytes.length > 64 || s.arrivals.all fun a => a.held || a.core != d.who.core || a.target != d.target || decide (d.id ≤ a.id))
/-- A deposit that names barrier object 5, and one that meets a word in error in part. -/
def counting : State :=
  let s := then_ (.cpy { e128 16 0x8105 with d := 390, a := sr 8 }) winged
  match firstOp s with | some o => then_ (.copyExecute 0 o.id) s | none => s
theorem witness_DepositsJudged :
    has depositing.deposits.head? (fun d => nextB depositing d && has (depositing.depositPair d) fun w =>
      (depositing.depositBad d w).isNone && d.bar.isNone && depositing.memoryOk) = true
    ∧ has counting.deposits.head? (fun d => nextB counting d && has (counting.depositPair d) fun w =>
      (counting.depositBad d w).isNone && has d.bar (fun b => b.1 == 5 && b.2.isSome) && counting.memoryOk) = true
    ∧ (let s := State.modCore { depositing with deposits := depositing.deposits.map fun (d : Deposit) =>
        { d with bytes := d.bytes.take 4 } } 0 fun c => { c with poison := [0x300] };
      has s.deposits.head? (fun d => nextB s d && has (s.depositPair d) fun w => (s.depositBad d w).isSome)) = true := by decide +kernel
/-- Two deposits of one operation. -/
theorem witness_DepositsAcknowledged :
    let s := match depositing.deposits.head? with | some d => then_ (.depositArrival d.id) depositing | none => depositing
    let u : State := { s with deposits := s.deposits ++ s.deposits.map fun (d : Deposit) => { d with id := d.id + 1 } }
    has s.deposits.head? (fun d => (s.deposits.find? fun e => e.id == d.id && e.verdict.isSome) == some d
      && s.deposits.all fun e => e.id == d.id || e.opId != d.opId) = true
    ∧ has u.deposits.head? (fun d => (u.deposits.find? fun e => e.id == d.id && e.verdict.isSome) == some d
      && u.deposits.any fun e => e.id != d.id && e.opId == d.opId) = true := by decide +kernel
/-- An arrival that counts, one that must wait, and one that is released. -/
theorem witness_ArrivalsCount :
    let comes := fun (s : State) (a : Arrival) => (s.arrivals.find? fun b => b.id == a.id && !b.held) == some a
      && (s.deposits.all fun e => e.verdict.isSome) && s.arrivals.all fun b => b.held || decide (a.id ≤ b.id)
    let good := fun (s : State) (a : Arrival) => has (s.objVal? a.target a.ctx a.k) fun p => has (s.core? a.target) fun c =>
      (c.poisoned false p.1.addr 32).isNone
    has arriving.arrivals.head? (fun a => comes arriving a && good arriving a && has (arriving.objVal? a.target a.ctx a.k) fun p =>
      (p.2.arrive a.gen a.flip).isSome) = true
    ∧ (let s : State := { arriving with arrivals := arriving.arrivals.map fun (a : Arrival) => { a with gen := a.gen + 2 } };
      has s.arrivals.head? (fun a => comes s a && good s a && has (s.objVal? a.target a.ctx a.k) fun p =>
        (p.2.arrive a.gen a.flip).isNone)) = true
    ∧ (let s : State := { arriving with arrivals := arriving.arrivals.map fun (a : Arrival) => { a with held := true } };
      has s.arrivals.head? (fun a => (s.arrivals.find? fun b => b.id == a.id && b.held) == some a && good s a
        && has (s.objVal? a.target a.ctx a.k) fun p => (p.2.arrive a.gen a.flip).isSome)) = true := by decide +kernel
/-- Two contributions to one FP32 element, of cores 1 and 0, and one to another. -/
theorem witness_StagesAdd :
    let w := gs.issuer (here gs)
    let xs := [⟨9, w, 1, 0, 0, 0x200, 0x3F800000⟩, ⟨4, w, 0, 0, 0, 0x200, 0x40000000⟩, ⟨5, w, 0, 1, 0, 0x204, 7⟩]
    let s := gs.modCtx 0 fun d => { d with xadds := xs }
    let l : List XAdd := [⟨4, w, 0, 0, 0, 0x200, 0x40000000⟩, ⟨9, w, 1, 0, 0, 0x200, 0x3F800000⟩]
    s.memoryOk = true ∧ has (s.ctx? 0) (fun d => d.xadds == xs) = true
    ∧ (∀ c ∈ xs, c.target = 0 → c.off + xaddBytes c.type ≤ 0x200 ∨ 0x204 ≤ c.off ∨ (c.off = 0x200 ∧ c.type = 0))
    ∧ l.Perm (xs.filter fun c => c.target == 0 && c.off == 0x200) ∧ (∀ c ∈ l, c.core < 64 ∧ c.type = 0)
    ∧ l.Pairwise (fun a b => a.core < b.core ∨ (a.core = b.core ∧ a.op < b.op)) ∧ (s.core? 0).isSome = true
    ∧ has (s.core? 0) (fun c => has (c.cctx? 0) fun cc => cc.resident) = true :=
  ⟨by decide +kernel, by decide +kernel, by decide +kernel, by decide +kernel, by decide +kernel, by decide +kernel, by decide +kernel,
    by decide +kernel⟩

/-- The group owns all banks of the matrix engine, alone; two groups own it as a gang. -/
def theOwner : MatOwner := ⟨0, 0, [0], false, 15, 0x4000, ⟨0, false, 0⟩, []⟩
def owning : State := big.modCore 0 fun c => { c with mat := { c.mat with owner := some theOwner } }
def ganged : State := (big.modCore 0 fun c =>
  { c with groups := c.groups.set 1 ((c.group? 0).map fun g => { g with gidx := 1 })
           wgs := c.wgs.map fun p => (p.1, { p.2 with slots := [0, 1] })
           mat := { c.mat with owner := some { theOwner with members := [0, 1], gang := true } } }).modCore 0 fun c =>
  { c with groups := c.groups.map fun g => g.map fun g => { g with gang := 3 } }
/-- The conditions of `MatForm.owned`, as a test. -/
def ownedB (o : Op) (banks : BitVec 4) (gang : Bool) (s : State) : Bool :=
  immBit o == gang && !(here s).isCt && has ((s.core? 0).bind fun c => c.mat.ownerOf (here s).slot) fun w =>
    w.gang == gang && banks &&& ~~~w.mask == 0#4
theorem witness_MatrixInstructionsIssue :
    let x := here owning
    (fits (jointReq op0 []) owning = true ∧ ownedB op0 3 false owning = true)
    ∧ (let o : Op := { e128 4 0 with a := sr 8, b := sr 7 };
      fits (jointReq o ([rdS o.a, rdS o.b] ++ countReads o)) owning = true ∧ ownedB o 0 false owning = true
      ∧ rowWord (x.s o.b.reg) (x.count o).toNat 1 128 ∧ (x.uni.count 3).val < 63)
    ∧ (let o : Op := { e128 4 0 with fn := 0x40, a := r 4, b := sr 7 };
      fits { jointReq o (rdS o.b :: regRange o.a.reg (ebCnt o) .v o.a.fe ++ countReads o) with
             extra := !isS o.a.reg && vecRangeOk o.a.reg (ebCnt o) } owning = true
      ∧ (∀ q ∈ regRange o.a.reg 4 .v o.a.fe, q.ok x.isCt x.blocks = true ∧ x.empty q.reg = false))
    ∧ (let o : Op := { e128 4 0 with d := 390, b := sr 7 };
      fits (jointReq o (rdS o.b :: [atS o.d] ++ countReads o)) owning = true ∧ fmtSR x.flow.fmt = false ∧ o.a = Src.zero)
    ∧ (let o : Op := { op0 with fn := 0x80 };
      fits (jointReq o []) ganged = true ∧ ownedB o 0 true ganged = true
      ∧ has (here ganged).grp (fun g => g.latched.isNone && ganged.maskSlots 0 g.wg g.gang == [0, 1]) = true
      ∧ has (ganged.group? 0 1) (fun h => !h.parked && !h.hasExited && h.latched.isNone) = true) := by
  refine ⟨by decide +kernel, ⟨by decide +kernel, by decide +kernel, ⟨by decide +kernel, by decide +kernel, by decide +kernel,
    by decide +kernel⟩, by decide +kernel⟩, by decide +kernel, by decide +kernel, by decide +kernel⟩
/-- `owning`, with FMT of its split. -/
def formatted (f : Word) : State := owning.modCore 0 fun c =>
  { c with groups := c.groups.map fun g => g.map fun g => g.modSplit 0 fun sp => { sp with flow := { sp.flow with fmt := f } } }
/-- Row words of register forms, of an output with SR, and formats of two codes. -/
theorem witness_MatrixInstructionsIssue_more :
    let st := formatted 0x6000
    (let o : Op := { e128 4 0 with fn := 0x40, a := r 4, b := sr 7 };
      (regRange o.a.reg 4 .v o.a.fe).all (fun q => (here owning).inError LaneSet.all q.reg == 0) = true)
    ∧ (let o : Op := { e128 4 0 with fn := 0x40, d := 2, b := sr 7 };
      fits { jointReq o (rdS o.b :: [] ++ countReads o) with
             writes := regRange o.d (ebCnt o) .v, extra := !isS o.d && vecRangeOk o.d (ebCnt o) } owning = true
      ∧ ownedB o 0 false owning = true
      ∧ (regRange o.d 4 .v).all (fun q => q.ok (here owning).isCt (here owning).blocks && !(here owning).empty q.reg) = true
      ∧ has (here owning).grp (fun g => (owning.governing (here owning) g false o).map (fun l => l.1.flow.fmt) == some 0) = true ∧ o.a = Src.zero)
    ∧ (let o : Op := { e128 4 0 with d := 390, a := r 2, b := sr 7 };
      fmtSR (here st).flow.fmt = true ∧ ownedB o 0 false st = true
      ∧ has (here st).grp (fun g => (st.governing (here st) g false o).map (fun l => l.1.flow.fmt) == some 0x6000) = true
      ∧ (regRange o.a.reg 4 .v o.a.fe).all (fun q => q.ok (here st).isCt (here st).blocks && !(here st).empty q.reg
          && (here st).inError LaneSet.all q.reg == 0) = true)
    ∧ has (here ganged).grp (fun g => (ganged.governing (here ganged) g true op0).map (fun l => l.1.flow.fmt) == some 0) = true
    ∧ (let s := formatted 0x21; bits (here s).flow.fmt 0 3 ≠ 0 ∧ bits (here s).flow.fmt 5 3 ≠ 0
      ∧ fits (jointReq (v96 2) []) s = true ∧ ownedB (v96 2) 0 false s = true) := by decide +kernel
theorem witness_MatrixOwnership :
    (let s := withS big [(8, 0)]
      let x := here s
      fits (jointReq { op0 with fn := 1, a := sr 8 } [rdS (sr 8)]) s = true ∧ (x.s 392).toNat % 4096 = 0
      ∧ (s.ownExtent x 0 0x10000).isSome = true ∧ has (s.core? 0) (fun c => (c.mat.ownerOf 0).isNone && !c.mat.waits 0) = true)
    ∧ (let s := ganged.modCore 0 fun c => { c with mat := Matrix.reset };
      fits (jointReq { op0 with fn := 0x81, a := sr 8 } [rdS (sr 8)]) s = true
      ∧ has (here s).grp (fun g => g.gang != 0 && g.latched.isNone) = true
      ∧ has (s.core? 0) (fun c => [0, 1].all fun t => (c.mat.ownerOf t).isNone && !c.mat.waits t) = true)
    ∧ (let s := (withS ganged [(8, 3)]).modCore 0 fun c =>
        { c with groups := c.groups.map fun g => g.map fun g => { g with gang := 0 } }
      let q : Req := { g := Guard.none, phase := .C, who := .group, reads := [rdS (sr 8)], writes := [] }
      let u := withS (ganged.modCore 0 fun c => { c with mat := Matrix.reset }) [(8, 0)]
      fits q s = true ∧ bits ((here s).s 392) 16 48 = 0 ∧ has (here s).grp (fun g => g.gang == 0 && g.gidx == 0) = true
      ∧ (s.wgSlots 0 0 = [0, 1]) ∧ has (s.group? 0 1) (fun h => !h.hasExited) = true
      ∧ fits q u = true ∧ (here u).s 392 = 0 ∧ has (here u).grp (fun g => g.gang != 0 && g.latched.isNone) = true
      ∧ has (s.workgroup? 0 0) (fun w => decide (0 ≤ w.cls.toNat)) = true) := by decide +kernel
/-- Group 0 executes mgng, and with it is the last of its gang. -/
def gathering (old new : BitVec 16) : State := ((withS ganged [(8, BitVec.ofNat 64 new.toNat)]).modCore 0 fun c =>
  { c with groups := c.groups.map fun g => g.map fun g => { g with gang := old }, mat := Matrix.reset }).modGroup 0 1 fun g =>
    g.modSplit 0 fun sp => { sp with wait := .mgng new }
theorem witness_MatrixOwnership_gathered : ([(0, 3), (3, 0)].all fun p =>
    let s := gathering p.1 p.2
    let q : Req := { g := Guard.none, phase := .C, who := .group, reads := [rdS (sr 8)], writes := [], whole := true }
    fits q s && (s.wgSlots 0 0 == [0, 1]) && (s.mgngAt 0 p.2 1).isSome
    && has (s.core? 0) (fun c => c.mat.queue.isEmpty && (c.mat.ownerOf 0).isNone && (c.mat.ownerOf 1).isNone)
    && match exec (.mgng { op0 with a := sr 8 }) s with
      | .next t => [0, 1].all fun n => has (t.group? 0 n) fun g => g.gang == p.2 && has (g.split? 0) fun sp =>
          sp.wait == .none && sp.flow.pc == ⟨0, 8⟩
      | _ => false) = true := by decide +kernel
/-- A suspended owner whose group has parked counts for nothing. -/
theorem witness_MatrixEnginePasses_gone :
    let c := (gs.modGroup 0 0 fun g => { g with parked := true }).modCore 0 fun c => { c with mat := { c.mat with susp := [theOwner] } }
    has (c.core? 0) (fun d => d.mat.owner.isNone && d.suspGone theOwner && d.liveSusp.isEmpty) = true
    ∧ c.macqOwed 0 = none
    ∧ (let d := gs.modCore 0 fun c => { c with mat := { c.mat with susp := [theOwner] } };
      has (d.core? 0) (fun d => !d.suspGone theOwner) = true) := by decide +kernel
/-- Both groups of a workgroup at mgng, or in the gang latch with one instruction. -/
def meeting (w : Wait) : State := ganged.modCore 0 fun c =>
  { c with groups := c.groups.map fun g => g.map fun g => g.modSplit 0 fun sp => { sp with wait := w } }
theorem witness_JointInstructionsExecuteOnce :
    (let s := meeting (.mgng 3);
      s.maskSlots 0 0 3 = [0, 1] ∧ ([0, 1].all fun t => has (s.group? 0 t) (fun g => g.mgngWait == some (0, 3#16))
        && s.groupLive 0 t && (s.issAt 0 t 0).isSome) = true)
    ∧ (let i : Instr := .mflp { op0 with fn := 0x80 }
      let s := meeting (.joint i);
      s.wgSlots 0 0 = [0, 1] ∧ ([0, 1].all fun t => has (s.group? 0 t) (fun g => g.latched == some (0, i) && g.gang == 3)
        && s.groupLive 0 t && (s.issAt 0 t 0).isSome) = true ∧ matCounts i = false)
    ∧ (let s := meeting (.joint (.macq { op0 with fn := 0x81, a := sr 15 }));
      has (s.issAt 0 0 0) (fun y => (s.ownExtent y 0 0x10000).isSome && (y.s 399).toNat % 4096 == 0) = true) := by decide +kernel
/-- mgng and mprm read whole registers; the members of a gang that owns nothing; an output that every member has issued. -/
theorem witness_MatrixOwnership_more :
    let q : Req := { g := Guard.none, phase := .C, who := .group, reads := [rdS (sr 8)], writes := [], whole := true }
    let u := withS (ganged.modCore 0 fun c => { c with mat := Matrix.reset }) [(8, 0)]
    fits q u = true ∧ fits { q with reads := [] } gs = true
    ∧ ([0, 1].all fun t => has (u.core? 0) (fun c => (c.mat.ownerOf t).isNone && c.mat.queue.isEmpty)
        && has (u.group? 0 t) fun h => h.latched.isNone) = true
    ∧ (let i : Instr := .mout { e128 4 0 with fn := 0x80, d := 390, b := sr 7 }
      let s := meeting (.joint i);
      s.wgSlots 0 0 = [0, 1] ∧ ([0, 1].all fun t => has (s.group? 0 t) (fun g => g.latched == some (0, i) && g.gang == 3)
        && s.groupLive 0 t && has (s.issAt 0 t 0) fun y => !fmtSR y.flow.fmt && decide ((y.uni.count 3).val < 63)) = true
      ∧ matCounts i = true) := by decide +kernel
theorem witness_MatrixEnginePasses :
    let m := fun (f : Matrix → Matrix) => Core.reset 0 |> fun c => { c with mat := f c.mat }
    let w : MatOwner := { theOwner with mask := 1 }
    let z : MatOp := ⟨0, .mrel op0, [], [], [], [], [], ⟨0, false, 0⟩, 0, []⟩
    let lower : MatOwner := { w with mask := 2, wg := 9 }
    ((m fun y => { y with queue := [w] }).mat.owner = none ∧ (m fun y => { y with queue := [w], lastCtx := some 1 }).mat.lastCtx = some 1)
    ∧ has (m fun y => { y with owner := some { w with ops := [z] }, queue := [w] }).mat.owner (fun o => o.ops == [z]) = true
    ∧ (m fun y => { y with owner := some { w with ops := [z] }, susp := [lower] }).mat.susp = [lower]
    ∧ (let c := { m (fun y => { y with owner := some lower, queue := [w] }) with
        wgs := [(0, ⟨0, 0, 4096, [], 0, 0, 0, 2, 0, 1, [0]⟩), (9, ⟨0, 0, 4096, [], 0, 0, 0, 1, 0, 1, [0]⟩)] };
      c.preemptor lower = some w) := by decide +kernel
/-- An operation that is the engine's first. -/
def engineAt (q : MatOp) : State := owning.modCore 0 fun c => { c with mat := { c.mat with owner := some { theOwner with ops := [q] } } }
theorem witness_MatrixOperationsRun :
    let q := fun (i : Instr) (vals : List DWord) => (⟨7, i, [], [owning.issuer (here owning)], vals, [], [0], ⟨0, false, 0⟩, 0, []⟩ : MatOp)
    let l := q (.mlds (e128 2 0)) [0x1000, 0, 2, 0, 0]
    let o := q (.mout (e128 0x09000002 0)) [0, 0, 2, 0x1000, 0]
    let a := q (.mstr (e128 2 0)) [0x1000, 0, 2, 0, 0]
    ([l, a, o, q (.mflp op0) [], q (.mclr { op0 with fn := 1 }) []].all fun q =>
      has ((engineAt q).core? 0) fun c => has c.mat.owner (fun w => w.ops == [q]) && c.mat.banks.length == 4) = true
    ∧ (engineAt l).memoryOk = true ∧ (engineAt l).matFault 0 l 0 256 2 false = none
    ∧ (engineAt a).matFault 0 a 0 256 2 false = none ∧ (engineAt o).matFault 0 o 3 512 4 true = none ∧ 0 < o.count
    ∧ ((engineAt l).matFault 0 (q (.mlds (e128 2 0)) [0x1001, 0, 2, 0, 0]) 0 256 2 false).isSome = true
    ∧ ((engineAt a).matFault 0 (q (.mstr (e128 2 0)) [0x1001, 0, 2, 0, 0]) 0 256 2 false).isSome = true
    ∧ ((engineAt o).matFault 0 (q (.mout (e128 0x09000002 0)) [0, 0, 2, 0x1001, 0]) 3 512 4 true).isSome = true := by decide +kernel
/-- Steps and outputs of registers, and a fault of each operation. -/
theorem witness_MatrixOperationsRun_more :
    let w := owning.issuer (here owning)
    let q := fun (i : Instr) (vals : List DWord) (rows : List (List (List Word))) =>
      (⟨7, i, [⟨.group 0, 3, 0⟩], [w], vals, rows, [0], ⟨0, false, 0⟩, 0, []⟩ : MatOp)
    let lanes := List.replicate 2 (List.replicate 128 (0x3F80 : Word))
    let a := q (.mstr { e128 2 0 with fn := 0x48 }) [0, 0, 2, 0, 0] [lanes]
    let o := q (.mout { e128 0x09000002 0 with fn := 0x44 }) [0, 0, 2, 0, 4] []
    ([a, o].all fun q => has ((engineAt q).core? 0) fun c => has c.mat.owner (fun w => w.ops == [q] && w.members == [0])
      && c.mat.banks.length == 4) = true
    ∧ (∀ l ∈ a.rows, l.length = a.count) ∧ codeBits (ebRec { e128 0x09000002 0 with fn := 0x44 }) / 8 = 4
    ∧ has ((engineAt o).group? 0 0) (fun g => decide (4 + o.count ≤ g.v.length)) = true ∧ [0].Nodup
    ∧ (let p : Op := e128 2 0
      let bad := q (.mstr p) [0x1001, 0, 2, 0, 0] [];
      bad.whos = [w] ∧ ((engineAt bad).matFault 0 bad 0 256 2 false).isSome = true ∧ (bad.vals.getD 0 0).toNat % 2 ^ 48 % 2 ≠ 0) := by
  decide +kernel
theorem witness_AccumulationOrder : (List.replicate 2 (List.replicate 128 (FV.zero false))).all (fun w => w.length == 128) = true
    ∧ (List.replicate 128 (0 : Word)).length = 128 ∧ 127 < 128 := by decide +kernel

/-- A group of 32 vector registers that executes in lane 0, with a pool of 256 slots that holds a light vertex in slot 64
and an eye vertex in slot 128; and handles of both in v0 and v1. -/
def light : Slot := ⟨true, 0, true, false, [0, 0, 0, 0, 0, 0x3F800000, 0, 0, 0, 0x3F800000, 0, 0, 0, 8, 0], false⟩
def eye : Slot := ⟨true, 0, true, false, [0, 0, 0x3F800000, 0, 0, 0xBF800000, 0, 0, 0, 0x3F800000, 0, 0, 0, 0x11, 0], false⟩
def wide (s : State) : State := s.modGroup 0 0 fun g =>
  g.modSplit 0 (fun p => { p with exec := 1 }) |> fun g =>
    { g with blocks := 4, v := List.replicate 32 (List.replicate 128 0) }
def pooled (s : State) : State := s.modCtx 0 fun c => { c with npool := 256, pool := [(64, light), (128, eye)], rho := 0x40000000 }
def graph : State := withV (pooled (wide gs)) [(0, 64), (1, 128)]
theorem witness_GraphAppends :
    let o : Op := { op0 with d := 30, a := r 2 }
    (let x := here graph;
      fits (gReq graph o (gBlock graph o.a 15) 2) graph = true ∧ (x.uni.count 1).val < 63 ∧ x.requests = [0]
      ∧ has (graph.ctx? 0) (fun c => has (graph.cctx? 0 0) fun cc => decide (x.requests.length ≤ cc.freeCount c.npool)
          && has (cc.takeFree c.npool) fun p => decide (p.1 < 2 ^ 27)) = true ∧ (List.replicate 15 (0 : Word)).length = 15)
    ∧ (let s := pooled cs
      fits (gReq s { o with d := 396, a := sr 8 } (gBlock s (sr 8) 15) 2) s = true) := by decide +kernel
theorem witness_GraphReads :
    (let q := fun (l : List (Src × Nat)) (n : Nat) (s : State) =>
      fits (gReq s { op0 with d := 16 } (l.flatMap fun p => gBlock s p.1 p.2) n) s;
      q [(r 0, 1)] 2 graph = true ∧ q [(r 0, 1), (r 1, 1)] 8 graph = true ∧ q [(r 0, 1), (r 1, 1), (r 2, 2)] 2 graph = true
      ∧ q [(r 0, 1)] 9 graph = true ∧ q [(r 0, 1), (r 1, 1)] 3 graph = true)
    ∧ (fits (gReq (pooled cs) { op0 with d := 400 } (gBlock (pooled cs) (sr 0) 1) 9) (pooled cs) = true)
    ∧ (graph.ctx? 0).isSome = true ∧ ((here graph).uni.count 1).val < 63
    ∧ has (graph.ctx? 0) (fun c => c.statusOf 64 == 1 && c.statusOf 128 == 1 && !(metaEye light.mword) && metaEye eye.mword
        && (c.mergeCandidates (0, 0, 0)).length == 1) = true := by decide +kernel
theorem witness_GraphRequests :
    (let o : Op := { op0 with a := r 0 };
      fits (gReq graph o (gBlock graph o.a 1) 0) graph = true
      ∧ fits (gReq (pooled cs) { op0 with a := sr 8 } (gBlock (pooled cs) (sr 8) 1) 0) (pooled cs) = true)
    ∧ (fits { g := Guard.none, phase := .C, who := .ct, reads := [], writes := [] } cs = true
      ∧ (let o : Op := { e128 0x3F800000 0 with d := 0 }; immBit o = false)
      ∧ (0x3F800000 : Word).getLsbD 31 = false ∧ bits (0x3F800000 : Word) 23 8 ≠ 255)
    ∧ (fits { g := Guard.none, phase := .C, who := .ct, reads := [rdS (sr 8)], writes := [] } cs = true
      ∧ immBit { op0 with fn := 0x80 } = true ∧ ((here cs).s 392).lo.toNat < 32)
    ∧ ([[], [rdS (sr 8)]].all fun l => fits { g := Guard.none, phase := .C, who := .any, reads := l, writes := [atS 390] } gs
        && decide (((here gs).s 392).toNat < 32)) = true
    ∧ (let s := withS gs [(9, 40)];
      fits { g := Guard.none, phase := .C, who := .any, reads := [rdS (sr 9)], writes := [atS 390] } s = true
      ∧ bits (7 : BitVec 8) 0 4 = 7 ∧ decide (32 ≤ ((here s).s 393).toNat) = true)
    ∧ has (graph.ctx? 0) (fun c => decide (c.openTag = some 0) && (graph.cctx? 0 0).isSome) = true := by decide +kernel
theorem witness_GraphBoundaryChanges :
    has ((pooled gs).ctx? 0) (fun c =>
      c.statusOf 64 == 1 && !(c.vertex 64).rp && !(metaKept (c.vertex 64).mword && c.retained.getLsbD 0)
      && c.statusOf 128 == 1 && !(c.vertex 128).rp && metaKept (c.vertex 128).mword && c.retained.getLsbD (metaFrame (c.vertex 128).mword)
      && c.statusOf 192 != 1) = true
    ∧ ([[GraphChange.retire 64], [.retire 192], [.append 192 []], [.release 1]].all fun l =>
        has (((pooled gs).modCtx 0 fun c => { c with changes := l.map fun g => (0, g) }).ctx? 0) fun c =>
          c.changes == l.map fun g => (0, g)) = true := by decide +kernel
/-- `graph` with the vertex in slot 64 in error. -/
def spoiled : State := graph.modCtx 0 fun c => { c with pool := [(64, { light with err := true }), (128, eye)] }
theorem witness_GraphAppends_more :
    let o : Op := { op0 with d := 30, a := r 2 }
    let ins := fun (s : State) => (here s).requests.map fun i =>
      (List.range 15).map fun j => (here s).lane (BitVec.ofNat 9 (o.a.reg.toNat + j)) i
    let bad := withV spoiled [(13, 64)]
    has (graph.ctx? 0) (fun c => (ins graph).all fun w => !c.badAppend w) = true
    ∧ fits (gReq bad o (gBlock bad o.a 15) 2) bad = true ∧ has (bad.ctx? 0) (fun c => (ins bad).any fun w => c.badAppend w) = true
    ∧ has (bad.ctx? 0) (fun c => has (bad.cctx? 0 0) fun cc => decide ((here bad).requests.length ≤ cc.freeCount c.npool)) = true
    ∧ ((here bad).uni.count 1).val < 63 ∧ (64 : Nat) < 2 ^ 27 ∧ (List.replicate 15 (0 : Word)).length = 15 := by decide +kernel
/-- Requests whose vertices are good, and one whose vertex is in error. -/
theorem witness_GraphReads_errors :
    has (graph.ctx? 0) (fun c => (here graph).requests.all fun i =>
      !c.badHandle ((here graph).lane 0 i) && !c.badHandle ((here graph).lane 1 i)) = true
    ∧ has (spoiled.ctx? 0) (fun c => (here spoiled).requests.any fun i => c.badHandle ((here spoiled).lane 0 i)) = true
    ∧ fits (gReq spoiled { op0 with d := 16 } (gBlock spoiled (r 0) 1) 2) spoiled = true
    ∧ ((here spoiled).uni.count 1).val < 63 := by decide +kernel
theorem witness_GraphBoundaryChanges_twice : let s := (pooled gs).modCtx 0 fun c => { c with changes := [(0, .retire 64), (0, .retire 64)] }
    has (s.ctx? 0) (fun c => c.changes == [(0, .retire 64), (0, .retire 64)] && c.statusOf 64 == 1 && !(c.vertex 64).rp
      && !(metaKept (c.vertex 64).mword && c.retained.getLsbD (metaFrame (c.vertex 64).mword))) = true := by decide +kernel

/-- A scene of one triangle, published in slot 0 of the context. -/
def oneTri : Scene := ⟨[[0x3F800000, 0, 0, 0, 0, 0x3F800000, 0, 0, 0, 0, 0x3F800000, 0, 0, 1, 0xFF, 0]],
  [[0, 0, 0, 0x3F800000, 0, 0, 0, 0x3F800000, 0, 0]]⟩
def scened (s : State) : State := s.modCtx 0 fun c => { c with scenes := [(0, ⟨some oneTri, .none, false⟩)] }
/-- A build of slot 0 that has issued. -/
def building : State := then_ (.scnb { e128 1 0 with a := sr 8, b := sr 9 }) (withS cs [(8, 0x1000), (9, 0x40)])
theorem witness_ScenesBuildAndPublish :
    (let o : Op := { e128 1 0 with a := sr 8, b := sr 9 }
      let s := withS cs [(8, 0x1000), (9, 0x40)]
      let x := here s
      fits { g := o.g, phase := .C, who := .ct, writes := [], reads := [rdS o.a, rdS o.b] ++ countReads o } s = true
      ∧ sceneSlot (x.s o.b.reg) = some 0 ∧ 1 ≤ (x.count o).toNat ∧ (x.count o).toNat ≤ 128 ∧ (x.uni.count 2).val < 63)
    ∧ (let s := withS cs [(8, 0x40)];
      fits { g := Guard.none, phase := .C, who := .ct, reads := [rdS (sr 8)], writes := [] } s = true
      ∧ sceneSlot ((here s).s 392) = some 0)
    ∧ has (building.core? 0) (fun d => has d.ops.head? fun op =>
        d.nextOp op.id (fun i => match i with | .scnb _ => true | _ => false) == some op && op.who.core == 0
        && (building.ctx? op.who.ctx).isSome && d.ops.length == 1) = true
    ∧ ([(0, 5, false), (0, 5, true)].all fun p =>
        has ((cs.modCtx 0 fun c => { c with sceneReqs := [p], scenes := [(5, ⟨none, .built oneTri, false⟩)] }).ctx? 0) fun c =>
          c.sceneReqs == [p] && (c.scene 5).build == .built oneTri) = true := by decide +kernel
/-- A descriptor at 0x1000 of one instance and one triangle, whose tables follow it; flags are its word 5. -/
def described (flags : Word) : State :=
  let d := toLE 8 0x80 ++ toLE 8 0x40 ++ toLE 4 1 ++ toLE 4 flags.toNat ++ List.replicate 40 0
    ++ (oneTri.insts.flatMap fun i => i.flatMap fun w => toLE 4 w.toNat) ++ oneTri.tris.flatMap fun i => i.flatMap fun w => toLE 4 w.toNat
  let s := (cs.modCctx 0 0 fun c => { c with sllim := 0x10000 }).modCtx 0 fun c => { c with scncap := List.replicate 64 1 }
  then_ (.scnb { e128 1 0 with a := sr 8, b := sr 9 }) (withS (s.sliceWrite 0 0x1000 d) [(8, 0x1000), (9, 0x40)])
/-- The first build of core 0 and how it ends. -/
def builds (s : State) (p : BuildEnd → Bool) : Bool := turnB s fun op => op.ref.isSome && has (s.ctx? 0) (fun c =>
  (match op.instr with | .scnb _ => true | _ => false) && s.cores.all (fun d => d.ops.all fun q => q.who.ctx != 0 || decide (op.id ≤ q.id))
  && p (s.buildScene op ((op.val 0).toNat % 2 ^ 48) (op.val 2).toNat (c.scncap.getD (op.val 1).toNat 0)))
/-- Builds that succeed, fail for their descriptor, exceed the slot's capacity, and meet an address that faults. -/
theorem witness_SceneBuildsComplete :
    builds (described 1) (fun e => match e with | .status 1 b => b == .built oneTri | _ => false) = true
    ∧ builds (described 3) (fun e => match e with | .status 3 .failed => true | _ => false) = true
    ∧ builds ((described 1).modCtx 0 fun c => { c with scncap := [0] }) (fun e => match e with | .status 2 .failed => true | _ => false) = true
    ∧ builds building (fun e => match e with | .fault _ _ => true | _ => false) = true := by decide +kernel
/-- The words of a ray along z, in lanes of v0 to v8. -/
def rayed : State := withV (withS (scened (wide gs)) [(8, 0x40)]) [(0, 0x3E800000), (1, 0x3E800000), (2, 0xBF800000),
  (5, 0x3F800000), (7, 0x7F800000)]
theorem witness_TracesIssue :
    (let o : Op := { op0 with d := 16, a := r 0, b := sr 8, fn := 1 }
      let x := here rayed
      fits { g := o.g, phase := .C, who := .any, reads := gBlock rayed o.a 9 ++ [rdS o.b],
             writes := regRange o.d 6 (rowKind rayed.curCt) } rayed = true
      ∧ (rayed.ctx? 0).isSome = true ∧ sceneSlot (x.s o.b.reg) = some 0 ∧ x.requests ≠ [] ∧ (x.uni.count 2).val < 63
      ∧ x.uni.openBlocks.length < 4
      ∧ (let s := rayed.modGroup 0 0 fun g => { g with helper := LaneSet.all };
        fits { g := o.g, phase := .C, who := .any, reads := gBlock s o.a 9 ++ [rdS o.b],
               writes := regRange o.d 6 (rowKind s.curCt) } s = true ∧ (here s).requests = []))
    ∧ (let o : Op := { op0 with d := 16, a := r 9 }
      let s := State.uni rayed fun u => { u with traces := [⟨16, 0, List.replicate 9 0, 0, none, none, []⟩] }
      let q := fun (s : State) => ({ g := o.g, phase := .C, who := .any, reads := gBlock s o.a 1,
                                     writes := regRange o.d 6 (rowKind s.curCt) } : Req)
      let opens := fun (x : Iss) => x.requests.filterMap fun i => x.uni.traces.find? fun t => t.dst == 16 && t.lane == i
      fits (q s) s = true ∧ opens (here s) ≠ [] ∧ ((here s).uni.count 2).val < 63 ∧ fits (q rayed) rayed = true
      ∧ opens (here rayed) = []) := by decide +kernel
/-- The ray of `rayed`, with the flags that are given. -/
def rayWords (f : Word) : List Word := [0x3E800000, 0x3E800000, 0xBF800000, 0, 0, 0x3F800000, 0, 0x7F800000, f]
theorem witness_TraceResults :
    has (rayed.ctx? 0) (fun c => decide ((c.scene 1).published = none) && decide ((c.scene 0).published = some oneTri)) = true
    ∧ rayInvalid (rayWords 0) = false ∧ rayInvalid (rayWords 0x800) = false ∧ rayInvalid (rayWords 0x1000) = true
    ∧ (sceneHits oneTri (rayWords 0x8FF) false).length = 1 ∧ (rayWords 0x800).getD 8 0 = 0x800
    ∧ sceneHits oneTri [0x40000000, 0x3E800000, 0xBF800000, 0, 0, 0x3F800000, 0, 0x7F800000, 0x800] false = []
    ∧ (let h : Hit := ⟨0x3F800000, 0, 0, 3, 2⟩
      let t : Trace := ⟨16, 0, rayWords 0, 0, none, none, []⟩
      t.next [h] (fun _ => 0) = (hitBlock h 4, some { t with cand := some h, shown := [3] })
      ∧ (t.next [] (fun _ => 0)).2 = none ∧ 2 < (3 : Word).toNat) := by decide +kernel
/-- `rayed`, with its scene in error. -/
def rayedBad : State := rayed.modCtx 0 fun c => { c with scenes := [(0, ⟨some oneTri, .none, true⟩)] }
theorem witness_TracesMeetErrors :
    (rayed.ctx? 0).any (fun c => !c.badScene 0) = true
    ∧ (let o : Op := { op0 with d := 16, a := r 0, b := sr 8, fn := 1 }
      let q : Req := { g := o.g, phase := .C, who := .any, reads := gBlock rayedBad o.a 9 ++ [rdS o.b],
                       writes := regRange o.d 6 (rowKind rayedBad.curCt) };
      fits q rayedBad = true ∧ (rayedBad.ctx? 0).any (fun c => c.badScene 0) = true ∧ (here rayedBad).requests ≠ []
      ∧ ((here rayedBad).uni.count 2).val < 63)
    ∧ (let o : Op := { op0 with d := 16, a := r 9 }
      let open_ := fun (s : State) => State.uni s fun u => { u with traces := [⟨16, 0, List.replicate 9 0, 0, none, none, []⟩] }
      let q := fun (s : State) => ({ g := o.g, phase := .C, who := .any, reads := gBlock s o.a 1,
                                     writes := regRange o.d 6 (rowKind s.curCt) } : Req);
      ([open_ rayed, open_ rayedBad].all fun s => fits (q s) s && (here s).requests.any fun i =>
        (here s).uni.traces.any fun t => t.dst == 16 && t.lane == i) = true)
    ∧ zeroArea (oneTri.tris.getD 0 []) = false ∧ zeroArea [0, 0, 0, 0, 0, 0, 0, 0, 0, 0] = true
    ∧ oneTri.insts.length ≤ 2 ^ 7 ∧ (oneTri.insts.all fun r => decide ((r.getD 13 0).toNat ≤ 2 ^ 25)) = true := by decide +kernel
/-- One group, or both groups of a gang, in the repack latch; v0 to v3 are carried. -/
def rp (mask : Word) : Op := { e128 (0x06000000 ||| mask) 0 with d := 390 }
theorem witness_RepackMovesLanes :
    (let o := rp 3;
      fits { g := o.g, phase := .C, who := .group, reads := [], writes := [atS o.d] } ganged = true
      ∧ has (here ganged).grp (fun g => (rpakMask o).getLsbD g.gidx && decide (4 ≤ 8 * g.blocks ∧ g.splitCount ≤ 1)
          && g.recs.all Option.isNone && ganged.wgSlots 0 g.wg == [0, 1] && ganged.maskSlots 0 g.wg (rpakMask o) == [0, 1]) = true
      ∧ ((List.range 16).filter fun i => (rpakMask o).getLsbD i) = [0, 1]
      ∧ has (ganged.group? 0 1) (fun h => !h.parked && !h.hasExited && (h.held Wait.isRpak).isNone) = true)
    ∧ has (gs.group? 0 0) (fun g => (g.split? 0).isSome && 8 * g.blocks == g.v.length && g.v.all (fun l => l.length == 128)) = true
    := by decide +kernel
theorem witness_RepackStepHappens :
    let s := meeting (.rpak (rp 3))
    s.wgSlots 0 0 = [0, 1] ∧ s.maskSlots 0 0 (rpakMask (rp 3)) = [0, 1]
    ∧ ([0, 1].all fun t => has (s.group? 0 t) fun g => g.held Wait.isRpak == some 0 && s.groupLive 0 t && (g.uni.count 2).val == 0
        && g.vEmpty == 0 && has (g.split? 0) fun sp => sp.wait == .rpak (rp 3)) = true := by decide +kernel

/-- A triangle that covers the whole of a tile of four pixels. -/
def rasting : State := withS gs [(10, 0x0000000000000000), (12, 0x0000000000001000), (14, 0x0000100000000000), (16, 0x020200000000),
  (18, 1)]
def ra : Op := { op0 with d := 0, a := sr 10, b := sr 16, c := sr 18 }
theorem witness_RasterInstruction :
    (let x := here rasting;
      fits { g := ra.g, phase := .C, who := .group, reads := regRange ra.a.reg 6 .s ra.a.fe ++ [rdS ra.b, rdS ra.c],
             writes := regRange ra.d 4 .v } rasting = true
      ∧ has (x.grp.bind fun g => g.split? x.entry) (fun sp => sp.owned == LaneSet.all && sp.exec == LaneSet.all) = true
      ∧ ([0, 2, 4].all fun j => vertexOk (x.uni.get (10 + j))) = true ∧ tileOk (x.s ra.b.reg) = true ∧ (x.s ra.c.reg).toNat ≤ 1024)
    ∧ has ((then_ (.rast ra) rasting).core? 0) (fun c => has c.ops.head? fun o => o.instr == .rast ra && o.party == .group 0
        && c.nextOp o.id (fun i => match i with | .rast _ => true | _ => false) == some o) = true := by decide +kernel
/-- Two triangles share the edge from (0, 0) to (4, 0); the sample is in its middle. -/
theorem witness_SharedEdgeCoveredOnce :
    let a : RastTri := ⟨[0, 4, 0], [0, 0, 4], [], []⟩
    let b : RastTri := ⟨[4, 0, 4], [0, 0, -4], [], []⟩
    0 < a.area ∧ 0 < b.area ∧ a.value 2 2 0 = 0 ∧ 0 < a.value 0 2 0 ∧ 0 < a.value 1 2 0 ∧ 0 < b.value 0 2 0 ∧ 0 < b.value 1 2 0
    := by decide +kernel

/-- A tile at 0, its destination at 0x4000 with pitch 128, its signature word at 0x2000. -/
def tw : Op := { op0 with fn := 2, d := 390, a := sr 10, b := sr 12, c := sr 14 }
def tiled : State := withS big [(10, 0), (12, 0x4000), (13, 128), (14, 0x2000)]
def tiling (o : Op) : Option EngineOp := ((then_ (.twb o) tiled).core? 0).bind fun c => c.ops.head?
theorem witness_RatesAndTileWriteBack :
    (fits { g := Guard.none, phase := .C, who := .any, reads := [rdAny (r 1), rdAny (sr 8), rdAny (r 3)], writes := regRange 2 1 (rowKind gs.curCt) } gs = true
      ∧ fits { g := Guard.none, phase := .C, who := .any, reads := [rdAny (sr 1)], writes := regRange 390 1 (rowKind cs.curCt) } cs = true)
    ∧ (let q : Req := { g := Guard.none, phase := .C, who := .any, writes := regRange tw.d 2 .s,
                        reads := [rdS tw.a] ++ regRange tw.b.reg 2 .s tw.b.fe ++ [rdS tw.c] };
      fits q tiled = true ∧ (here tiled).active ≠ 0 ∧ ((here tiled).uni.get 13).hi = 0 ∧ ((here tiled).uni.count 0).val < 63
      ∧ (let s := tiled.modGroup 0 0 fun g => { g with helper := LaneSet.all }; fits q s = true ∧ (here s).active = 0))
    ∧ (let s := then_ (.twb tw) tiled;
      has (tiling tw) (fun op => has (s.core? 0) (fun c => c.nextOp op.id (fun i => match i with | .twb _ => true | _ => false) == some op)
        && op.instr == .twb tw && (s.twbFault op 0 0x2000 0x4000 128 4).isNone
        && (s.twbFault op 0 0x2000 0x3FFFF80 128 4).isSome) = true ∧ tw.fn.getLsbD 1 = true) := by decide +kernel
theorem witness_RatesAndTileWriteBack_same :
    let s := (then_ (.twb { tw with fn := 0 }) tiled).sliceWrite 0 0x2000
        (toLE 8 (tileHash 512 (List.replicate 4096 0) 0x9E3779B97F4A7C15#64).toNat)
    has (tiling { tw with fn := 0 }) (fun op => (s.twbFault op 0 0x2000 0x4000 128 4).isNone
        && tileHash 512 (s.operandBytes op 0 0 4096) 0x9E3779B97F4A7C15#64 == BitVec.ofNat 64 (s.sliceLE 0 (aliasOff 0x2000) 8)) = true := by decide +kernel

/-- Tokens 1 to 4 in the states of Table 17.2; token 0 is the running group's. -/
def tokens : State := gs.modCctx 0 0 fun c => { c with ovqt := 256, tokens := c.tokens ++
  [(1, ⟨.filling, false, 0, 1, some 70, [], []⟩), (3, ⟨.failed, false, 2, 0, none, [], []⟩)] }
def leaving : State := tokens.modCctx 0 0 fun c => c.setToken 0 { c.token 0 with state := .evictPending }
theorem witness_OverlayTokens :
    let q : Req := { g := Guard.none, phase := .C, who := .any, reads := [rdS (sr 8)], writes := [] }
    let st := fun (n : DWord) (s : State) =>
      let u := withS s [(8, n)]
      if fits q u && bits ((here u).s 392) 12 52 == 0 && decide (((here u).uni.count 4).val < 63)
      then some ((u.settleTokens 0).token 0 0 (((here u).s 392).extractLsb' 0 12)).state else none
    st 0 tokens = some .resident ∧ st 1 tokens = some .filling ∧ st 3 tokens = some .failed ∧ st 5 tokens = some .absent
    ∧ st 0 leaving = some .evictPending
    ∧ ([3, 5].all fun n => match ((tokens.settleTokens 0).modUni (here tokens) fun u => { u with counts := u.counts.modify 4 fun e =>
        { e with done := e.done ++ [.running] } }).startFill 0 0 n [⟨.group 0, 4, 0⟩] (tokens.issuer (here tokens)) none with
        | .started _ => true | .refused => false) = true
    ∧ fits { Req.plain Guard.none with reads := [], writes := [atS 390] } tokens = true
    ∧ ((tokens.settleTokens 0).cctx? 0 0).isSome = true := by decide +kernel
/-- A fill that waits, and one that runs, of token 1. -/
def aFill (started : Bool) (bad : BitVec 3) : Fill :=
  ⟨40, 0, 1, 70, 1, started, [], bad, 0, 0, [], tokens.issuer (here tokens), none⟩
def filling (started : Bool) (bad : BitVec 3) : State := tokens.modCore 0 fun c => { c with
  fills := [aFill started bad], images := c.images ++ (if started then [⟨70, false, [], 32, 0, 1, false, [], []⟩] else []) }
theorem witness_FillsVerifyImages :
    has ((filling false 0).core? 0) (fun c => c.fills.find? (fun f => !f.started) == some (aFill false 0) && decide (1 ≤ c.freeSlots)) = true
    ∧ has ((filling true 2).core? 0) (fun c => let f := aFill true 2
        c.fills.find? (fun f => f.id == 40 && f.started) == some f && c.fills.filter (fun g => g.image == f.image) == [f]
        && (c.image? 70).isSome && has ((filling true 2).cctx? 0 0) fun cc => decide ((cc.tokens.map Prod.fst).Nodup)
          && cc.token 1 == ⟨.filling, false, 0, 1, some 70, [], []⟩) = true := by decide +kernel

/-- A callo that has waited for token 1 to fill, and whose destination is there or not. -/
theorem witness_FillsVerifyImages_awaited : ([(Dest.offset 8), (Dest.offset 64)].all fun d =>
    let w : TokWait := ⟨(here tokens).th, (here tokens).pc, some ⟨d, some (390, 5), (here tokens).sel⟩⟩
    let i : Image := ⟨70, false, [], 32, 0, 1, true, [], []⟩
    let s := (filling true 0).modCctx 0 0 fun c => c.setToken 1 { c.token 1 with waiters := [w], evict := true }
    has (s.iss? w.thread) (fun x => !x.sup && x.pc == w.pc && x.core == 0 && x.ctx == 0)
    && (i.target d).isSome == (d == .offset 8)) = true := by decide +kernel
/-- A claim of the group in slot 0 at the head of the queue; vbq is its context's limit. -/
def claiming (vbq : Nat) : State := ((gs.modCctx 0 0 fun c => { c with vbq := vbq }).modCore 0 fun c =>
  { c with claims := [⟨0, 0, 390, 1⟩] }).modGroup 0 0 fun g => g.modSplit 0 fun p => { p with wait := .claim 390 1 }
/-- Launch queue 0 is a device queue of context 0, of four records; its context's region holds 64 KiB. -/
def queued (widx : Word) : State := State.modCctx { withS cs [(8, 0x100), (9, 0)] with
  queues := cs.queues.set 0 { LaunchQueue.reset with en := true, src := true, lsz := 2, widx := widx } } 0 0 fun c =>
    { c with sllim := 0x10000 }
theorem witness_RegisterBlocksAndLaunches :
    (let s := wide gs
      let x := here s
      fits { g := Guard.none, phase := .C, who := .group, reads := [], writes := [atS 390] } s = true
      ∧ fits { g := Guard.none, phase := .C, who := .group, reads := [rdS (sr 8)], writes := [] } (withS s [(8, 2)]) = true
      ∧ has x.grp (fun g => decide (g.splitCount ≤ 1 ∧ 2 < g.blocks ∧ g.blocks + 2 ≤ 48) && g.vEmpty == 0) = true)
    ∧ fits { Req.plain Guard.none with writes := [atS 390] } cs = true
    ∧ has ((claiming 512).core? 0) (fun c => has c.claims.head? fun q => c.claimFits q && (c.group? q.slot).isSome
        && ((State.issAt (claiming 512) 0 q.slot q.entry).isSome)) = true
    ∧ has ((claiming 1).core? 0) (fun c => has c.claims.head? fun q => !c.claimFits q
        && (List.range 96).all fun t => t == 0 || (c.group? t).isNone) = true
    ∧ (let q : Req := { Req.plain Guard.none with who := .ct, reads := [rdS (sr 8), rdS (sr 9)], writes := [atS 390] }
      let x := here (queued 0);
      fits q (queued 0) = true ∧ fits q (queued 4) = true ∧ (x.s 393).toNat < 64
      ∧ (queued 0).accessCheck x [0] (fun _ => bits (x.s 392) 0 48) 64 64 false = none
      ∧ (queued 4).accessCheck (here (queued 4)) [0] (fun _ => 0x100) 64 64 false = none
      ∧ has (queued 4).queues[0]? (fun w => (w.widx - w.ridx).toNat == 2 ^ w.lsz && w.ctx == 0) = true) := by decide +kernel

/-- Firmware that handles a delivery of the group in slot 0, which it has selected and which is frozen. -/
def handler : State := State.modGroup { (gs.modCctx 0 0 fun c =>
  { c with handling := some ⟨.group 0 0, 0x16, 0, ⟨0, 0⟩, ⟨0, 8⟩, 0, 0⟩, stopped := true }) with cur := .ct 0 0 } 0 0 fun g =>
    { g with frozen := true }
/-- A window in which firmware handles an event, and a token that holds an image there. -/
def evicting : State := { handler with window := .events, phase := 1 }
theorem witness_ForcedEviction : evicting.window = .events
    ∧ has (evicting.core? 0) (fun c => c.cctx.any fun d => d.handling.isSome) = true ∧ (evicting.cctx? 0 0).isSome = true
    ∧ (evicting.codeImage 0 0 0).isSome = true ∧ (evicting.token 0 0 0).state = .resident := by decide +kernel
/-- Fills that end with each cause: their records. -/
theorem witness_FillsFail :
    ([(4, 0x19), (4, 0x07), (5, 0x1B)].all fun (p : BitVec 3 × Nat) =>
      let f : Fill := { aFill true p.1 with badCause := p.2 }
      let s := (filling true 0).modCore 0 fun c => { c with fills := [f] }
      (match s.readImage 0 f with | .error e => e.cause == p.1.toNat && e.code == p.2 | .ok _ => false) && f.refs.isEmpty
      && f.placement.isNone) = true := by decide +kernel
/-- The handler, with REG of SEL. -/
def regSel (n : Nat) : State := handler.modCctx 0 0 fun c => { c with sel := BitVec.ofNat 31 (n * 2 ^ 15) }
/-- `selects`, as a test. -/
def selectsB (s : State) (g : Group) : Bool := has (s.cctx? 0 0) fun own =>
  s.group? 0 (6 * bits own.sel 4 4 + bits own.sel 8 3) == some g && g.ctx == bits own.sel 0 4 && g.frozen
    && has own.handling fun d => d.src == .group (6 * bits own.sel 4 4 + bits own.sel 8 3) 0
theorem witness_CsrReads :
    fits (supReq Guard.none [] [atS 390]) fs = true ∧ fits (supReq Guard.none [] [atS 390]) handler = true
    ∧ (fs.cctx? 0 0).isSome = true ∧ (fs.ctx? 0).isSome = true
    ∧ ([0, 384, 511].all fun n => has ((regSel n).group? 0 0) fun g => selectsB (regSel n) g && (g.split? 0).isSome
        && (g.split? 1).isNone && decide (n < 8 * g.blocks ∨ 384 ≤ n)) = true
    ∧ ¬ csrHas 0x44 ∧ ¬ csrHas 0x6 ∧ ¬ csrHas 0xC0 := by
  refine ⟨by decide +kernel, by decide +kernel, by decide +kernel, by decide +kernel, by decide +kernel, ?_⟩
  simp [csrHas]
/-- The values that csw takes at each number's limits. -/
theorem witness_CsrWrites :
    (let s := withS fs [(8, 0x1000)];
      fits (supReq Guard.none [rdS (sr 8)] []) s = true ∧ (s.core? 0).isSome = true ∧ (s.cctx? 0 0).isSome = true
      ∧ (s.ctx? 0).isSome = true ∧ ((here s).s 392) = 0x1000)
    ∧ (∀ v : DWord, v = 0 → bits v 31 33 = 0 ∧ bits v 8 3 ≤ 5 ∧ bits v 44 20 = 0 ∧ bits v 0 2 = 0 ∧ v.toNat % 4096 = 0)
    ∧ has (gs.core? 0) (fun c => has (gs.cctx? 0 0) fun cc => decide (0 ≤ cc.sllim ∧ cc.slbase ≤ 0x03C00000 ∧ c.heldBlocks 0 ≤ 512
        ∧ cc.heldSlots ≤ 256) && c.wgs.all fun p => decide (0 ≤ p.2.base ∧ p.2.limit ≤ 0x03C00000)) = true
    ∧ (0x1FFF : DWord).toNat < 2 ^ 13 ∧ isVirtual 0x010000000000 = true ∧ isVirtual 0x020000000000 = true
    ∧ fqOk 0 = true ∧ fqOk (0x3000010000000000#64) = true ∧ fs.partitionOk 0 = true
    ∧ (regSel 0).partitionOk 0 = true ∧ ¬ csrTakes 0x20 ∧ ¬ csrTakes 0x1 ∧ ¬ csrTakes 0x44 := by
  refine ⟨by decide +kernel, ?_, by decide +kernel, by decide +kernel, by decide +kernel, by decide +kernel, by decide +kernel,
    by decide +kernel, by decide +kernel, by decide +kernel, ?_⟩
  · rintro v rfl; decide +kernel
  · simp [csrTakes]
/-- The bytes of lantern storage that s needs after a write, in GiB at most: no value of a scene's bytes is known. -/
def afterWrite (n : Nat) (v : DWord) (s : State) : State :=
  s.modCtx 0 fun d => { d with csrWrites := d.csrWrites ++ [(0, n, v)] }
def roomy (n : Nat) (v : DWord) (s : State) : State :=
  { s with lsize := (afterWrite n v s).ctxs.foldl (fun n d => n + d.lanternBytes) 0 }
theorem witness_CsrWrites_lantern (n : Nat) (v : DWord) (s : State) : (afterWrite n v (roomy n v s)).lanternFits = true := by
  refine decide_eq_true ?_
  show (afterWrite n v s).ctxs.foldl (fun n d => n + d.lanternBytes) 0
    ≤ (afterWrite n v s).ctxs.foldl (fun n d => n + d.lanternBytes) 0 * 2 ^ 30
  exact Nat.le_mul_of_pos_right _ (by decide)

/-- Context-wide writes of cores 5 and 3 that wait, and two exclusive contexts on cores apart. -/
theorem witness_WideWritesApply :
    let s := gs.modCtx 0 fun d => { d with csrWrites := [(5, 0x43, 128), (3, 0x43, 64), (0, 0x80, 7), (0, 0x45, 1), (0, 0x46, 1)] }
    has (s.ctx? 0) (fun d => d.scncap.length == 64 && d.csrWrites.all fun w => w.2.1 ∈ [0x40, 0x41, 0x42, 0x43, 0x45, 0x46] || decide (0x80 ≤ w.2.1 ∧ w.2.1 < 0xC0)) = true
    ∧ s.partitionOk 0 = true
    ∧ (s.modCtx 1 fun d => { d with cores := 1, csrWrites := [(2, 0x46, 1)] }).partitionOk 0 = false
    ∧ (s.modCtx 1 fun d => { d with cores := 2, csrWrites := [(2, 0x46, 1)] }).partitionOk 0 = true := by decide +kernel
theorem witness_DeliveriesEnd :
    (fits (supReq Guard.none [] []) handler = true ∧ has (handler.cctx? 0 0) (fun c => has c.handling fun d => d.src == .group 0 0) = true)
    ∧ (fits (supReq Guard.none [] []) fs = true ∧ has (fs.cctx? 0 0) (fun c => has c.handling fun d => d.src == .userCt) = true)
    ∧ fits (supReq Guard.none [rdS (sr 8), rdS (sr 9)] []) fs = true ∧ fits (supReq Guard.none [rdS (sr 9)] []) fs = true
    ∧ ((here fs).s 393).toNat ≤ 15
    ∧ (let s : State := { fs with window := .events, phase := 1 }; fits (supReq Guard.none [rdS (sr 8)] []) s = true ∧ s.window ≠ .closed)
    ∧ has ((cs.modCctx 0 0 fun c => { c with deliveries := [placedDelivery] }).cctx? 0 0) (fun c => c.handling.isNone
        && c.deliveries == [placedDelivery]) = true
    ∧ has (gs.iss? (.group 0 0 0)) (fun x => has (x.grp.bind fun g => g.split? 0) fun sp => !sp.urgent) = true := by decide +kernel
/-- A delivery of a group of which another waits, a straggler event, and a split that has been ready for 32 clocks. -/
theorem witness_DeliveriesEnd_more :
    (let s := handler.modCctx 0 0 fun c => { c with deliveries := [⟨.group 0 0, 0x16, 0, ⟨0, 0⟩, ⟨0, 8⟩, 0, 0⟩] };
      fits (supReq Guard.none [] []) s = true ∧ has (s.cctx? 0 0) (fun c => has c.handling (fun d => d.src == .group 0 0)
        && c.deliveries.any fun d => match d.src with | .group t _ => t == 0 | .userCt => false) = true)
    ∧ (let s := fs.modCctx 0 0 fun c => { c with handling := some ⟨.userCt, 0x18, 1, ⟨0, 0⟩, ⟨0, 0⟩, 0, 0⟩, held := true };
      fits (supReq Guard.none [] []) s = true ∧ has (s.cctx? 0 0) (fun c => has c.handling fun d => d.src == .userCt && d.cause == 0x18) = true)
    ∧ (let s := State.modGroup { gs with clock := 40 } 0 0 fun g => g.modSplit 0 fun sp => { sp with since := some 8 };
      has (s.iss? (.group 0 0 0)) (fun x => has (x.grp.bind fun g => g.split? 0) fun sp => !sp.urgent && has sp.since fun t =>
        decide (32 ≤ (s.clock - t).toNat)) = true) := by decide +kernel
/-- A group of context 1 in slot 1 beside the one of context 0. -/
theorem witness_DetachmentIsOneContexts :
    let s := gs.modCore 0 fun c => { c with groups := c.groups.set 1 ((c.group? 0).map fun g => { g with ctx := 1 }) }
    has (s.ctx? 0) (fun d => !d.detached) = true ∧ has (s.group? 0 1) (fun g => g.ctx != 0) = true
    ∧ s.cores.all (fun c => c.mat.owner.isNone && c.mat.susp.isEmpty && c.mat.queue.isEmpty) = true := by decide +kernel

/-- Firmware in a window, with an image of context 1 that is a header only, at an address that its space maps: tables at 0,
0x1000 of the device memory, and leaves of 1 GiB from 1 GiB on. -/
def mapped : State := State.modCctx (State.modCtx { withS fs [(8, 0x010000000000), (9, 1)] with
  window := .events, phase := 1, gddr := pages [] } 0 fun d => { d with ptroot := 1 }) 0 0 fun c => { c with sllim := 0 }
def stored : State := State.modCtx { mapped with
  gddr := pages (Memory.writeLE [] 0x40000000 8 (1 + 16 * 2 ^ 32)), saves := [(0, ⟨1, 16, CoreCtx.reset 0, [], [], [], [], 0, []⟩)] } 1
  fun d => { d with cores := BitVec.allOnes 64 }
theorem witness_ContextImages :
    (let q := supReq Guard.none [rdS (sr 8), rdS (sr 9)] [atS 390];
      fits q mapped = true ∧ fits q stored = true ∧ ((here mapped).s 393).toNat = 1 ∧ bits ((here mapped).s 392) 0 48 = 0x010000000000
      ∧ mapped.drained 1 = true ∧ (mapped.ctx? 1).isSome = true ∧ mapped.window ≠ .closed)
    ∧ has (stored.cctx? 0 1) (fun c => !c.resident) = true
    ∧ (match stored.readImageAt 0 0x010000000000 with | .image v => stored.roomFor 0 1 v | _ => false) = true
    ∧ (let s := stored.modCtx 1 fun d => { d with cores := 0 };
      (match s.readImageAt 0 0x010000000000 with | .image v => !s.roomFor 0 1 v | _ => false) = true)
    ∧ (match mapped.readImageAt 0 0x010000000000 with | .mismatch => true | _ => false) = true
    ∧ (match mapped.readImageAt 0 0 with | .fault _ _ => true | _ => false) = true
    ∧ (let t := State.reset.modCtx 0 fun d => { d with cores := BitVec.allOnes 64 };
      t.roomFor 0 0 (gs.imageOf 0 0 16) = true ∧ (gs.core? 0).isSome = true ∧ (gs.cctx? 0 0).isSome = true
      ∧ has (t.core? 0) (fun c => c.groups.length == 96) = true) := by decide +kernel
/-- An image of a context with a bank word in error, and one with none. -/
theorem witness_ContextImages_inError :
    let v : SavedCtx := gs.imageOf 0 0 16
    v.inError = none ∧ ({ v with poison := [7, 3] } : SavedCtx).inError = some 48
    ∧ ({ v with cctx := { v.cctx with supErr := [.fmt] } } : SavedCtx).inError = some 0 := by decide +kernel
/-- A write of an engine outside the slices that is still to be performed. -/
theorem witness_DeliveriesEnd_waits :
    let s := fs.modCore 0 fun c => { c with nodes := [{ bareNode (.engine none []) 0 [] 3 with left := [(0, 2 ^ 26)] }] }
    fits (supReq Guard.none [] []) s = true ∧ s.outerPending = true ∧ fs.outerPending = false := by decide +kernel
/-- Firmware with registers of its state in error: one that every instruction reads, its guard, and one that it writes. -/
theorem witness_StepRunsDecoded_marked :
    let s := fun (l : List SupReg) => fs.modCctx 0 0 fun c => { c with supErr := l }
    has (fs.iss? fs.cur) (fun x => (s [.pc]).supBad x SupReg.always && !(s [.mask 1, .fmt]).supBad x SupReg.always
      && (s [.mask 1]).supBad x (supReads 0x400 (.nop op0)) && !(s [.mask 2]).supBad x (supReads 0x400 (.nop op0))
      && supWrites (.scmp { ou with d := 1 }) (.mask 1)) = true := by decide +kernel
/-- A request of context 1 that is due. -/
def due (req : BitVec 2) (missed : Bool) : State :=
  { stored with window := .requests, reqs := stored.reqs.set 1 { ReqRegs.reset with busy := true, due := true, req := req, missed := missed } }
theorem witness_ContextRequests :
    ([(3, false), (3, true), (1, false), (2, false)].all fun p => has (due p.1 p.2).reqs[1]? fun r => r.busy && r.due && r.req == p.1
      && r.missed == p.2 && (due p.1 p.2).window == .requests && ((due p.1 p.2).ctx? 1).isSome) = true
    ∧ (due 1 false).earlierDue 1 = false ∧ (due 2 false).earlierDue 2 = false ∧ (due 1 false).drained 1 = true
    ∧ (State.writeImages 1 0 0 ((due 1 false).residentOn 1) (due 1 false)).2 = true
    ∧ (match (due 2 false).savedImages 1 ReqRegs.reset 0 with | .ok l => l.isEmpty | .error _ => false) = true
    ∧ (match (due 2 false).savedImages 1 ReqRegs.reset 1 with | .ok _ => false | .error _ => true) = true
    ∧ (let s : State := (State.modCtx { due 2 false with reqs := (due 2 false).reqs.modify 1 fun r => { r with savea := 0x010000000000 } }
        1 fun d => { d with savedOn := 1, ptroot := 1 });
      has s.reqs[1]? (fun r => match s.savedImages 1 r 1 with
        | .ok l => l.length == 1 && l.all fun p => s.roomFor p.1 1 p.2 | .error _ => false) = true
      ∧ (let u := s.modCctx 0 1 fun c => { c with resident := true };
        has (u.cctx? 0 1) (fun c => c.resident) = true
        ∧ has u.reqs[1]? (fun r => match u.savedImages 1 r 1 with | .ok l => l.length == 1 | .error _ => false) = true))
    ∧ (let s : State := { due 2 false with clock := 0x400 };
      has s.reqs[1]? (fun r => decide (r.dl ≤ (s.clock - r.since).toNat) && !r.missed) = true) := by decide +kernel
/-- A context that runs holds a boundary back. -/
theorem witness_DeadlineHoldsBack : let s : State := { cs with clock := 0x400, reqs := cs.reqs.set 0 { ReqRegs.reset with busy := true, dl := 0x400 } }
    has s.reqs[0]? (fun r => r.busy && !r.missed && decide (r.dl ≤ (s.clock - r.since).toNat)) = true ∧ (s.ctx? 0).isSome = true
    ∧ s.holdsBack 0 = true := by decide +kernel
/-- What a context image is made of, and the state it comes back to. -/
theorem witness_ContextImages_restored :
    let t := State.reset.modCtx 0 fun d => { d with cores := BitVec.allOnes 64 }
    gs.memoryOk = true ∧ t.memoryOk = true ∧ has (gs.core? 0) (fun c => decide ((c.wgs.map Prod.fst).Nodup) && !c.wgs.isEmpty) = true
    ∧ (gs.ctx? 0).isSome = true ∧ (t.ctx? 0).isSome = true ∧ (t.cctx? 0 0).isSome = true := by decide +kernel
/-- The walk of the tables of `pages`. -/
theorem pages_walk (s : State) (va : Nat) (h : 2 ^ 40 ≤ va) (h2 : va < 2 ^ 40 + 3 * 2 ^ 30) (hc : s.capacity = 448 * 2 ^ 30)
    (he : s.gddrErr = []) (e0 : s.tableEntry 0 2 = 0x1001) (e1 : s.tableEntry 0x1000 0 = 0x40000007 ∧ s.tableEntry 0x1000 1 = 0x80000007
      ∧ s.tableEntry 0x1000 2 = 0xC0000007) : ∃ p, s.walk 3 0 va true = some p ∧ p.fabric = false := by
  have i3 : va / 2 ^ (12 + 9 * 3) % 512 = 2 := by omega
  have gb : ∀ a, ¬ (s.gddrBad a 8).isSome = true := fun a => by simp [State.gddrBad, he, least]
  have w3 : ∀ e : DWord, s.tableEntry 0 2 = e → teV e = true → teZero e = true → teS64 e = false → teLeaf e = false →
      teTgt e = false → s.walk 3 0 va true = s.walk 2 (teAddr e) va true := by
    intro e he hv hz hs hl ht
    rw [State.walk, if_neg (by omega), i3, if_neg (gb _), he]
    simp only [hv, hz, hs, hl, ht, Bool.not_true, Bool.or_false, Bool.false_and, Bool.false_eq_true, if_false]
  have w2 : ∀ e : DWord, s.tableEntry 0x1000 (va / 2 ^ (12 + 9 * 2) % 512) = e →
      teV e = true → teZero e = true → teS64 e = false → teLeaf e = true → teTgt e = false → teW e = true →
      teAddr e % 2 ^ 30 = 0 → teAddr e + 2 ^ 30 ≤ 448 * 2 ^ 30 → ∃ p, s.walk 2 0x1000 va true = some p ∧ p.fabric = false := by
    intro e he hv hz hs hl ht hw ha hb
    refine ⟨⟨false, teAddr e + va % 2 ^ 30⟩, ?_, rfl⟩
    have hva : va < 0x018000000000 := by omega
    rw [State.walk, if_neg (by omega), if_neg (gb _), he]
    simp only [hv, hz, hs, hl, Bool.not_true, Bool.or_false, Bool.false_and, Bool.false_eq_true, if_false, if_true]
    rw [if_neg (by decide)]
    simp only [State.leaf, pageSize, hc, ht, hw, Bool.false_eq_true, if_false]
    rw [if_pos ⟨ha, fun _ => hb, fun _ => trivial, decide_eq_true hva⟩]
  have i2 : va / 2 ^ (12 + 9 * 2) % 512 = 0 ∨ va / 2 ^ (12 + 9 * 2) % 512 = 1 ∨ va / 2 ^ (12 + 9 * 2) % 512 = 2 := by omega
  rw [w3 0x1001 e0 rfl rfl rfl rfl rfl, show teAddr 0x1001 = 0x1000 by decide +kernel]
  rcases i2 with i | i | i
  · exact w2 0x40000007 (by rw [i]; exact e1.1) rfl rfl rfl rfl rfl rfl (by decide +kernel) (by decide +kernel)
  · exact w2 0x80000007 (by rw [i]; exact e1.2.1) rfl rfl rfl rfl rfl rfl (by decide +kernel) (by decide +kernel)
  · exact w2 0xC0000007 (by rw [i]; exact e1.2.2) rfl rfl rfl rfl rfl rfl (by decide +kernel) (by decide +kernel)
/-- A page table at 0 gives what its walk gives. -/
theorem walked_chunkAt (s : State) (c : Ctx) (va n : Nat) (h : s.ctx? 0 = some c) (ht : s.tlb = []) (hr : c.ptroot = 1) (hv : isVirtual va = true)
    (hw : ∃ p, s.walk 3 0 va true = some p ∧ p.fabric = false) : (s.chunkAt 0 va n true).isSome = true := by
  obtain ⟨p, hp, hf⟩ := hw
  have : s.translate 0 va true = some p := by
    simp only [State.translate, State.walked, ht, List.find?_nil, h, hr, hv, show teAddr (1 : DWord) = 0 by decide, show (1 : DWord).getLsbD 0 = true by decide, hp,
      Bool.and_self, if_true]
  simp [State.chunkAt, this, hf]
/-- Every address of the three pages of 1 GiB translates. -/
theorem mapped_chunkAt (va n : Nat) (h : 2 ^ 40 ≤ va) (h2 : va < 2 ^ 40 + 3 * 2 ^ 30) :
    (mapped.fresh.2.chunkAt 0 va n true).isSome = true := by
  have v : isVirtual va = true := by
    have : rangeOf 0 va = .gddr := by
      unfold rangeOf
      rw [if_neg (by omega), if_neg (by omega), if_neg (by omega), if_neg (by omega), if_pos (by omega)]
    simp [isVirtual, this]
  exact walked_chunkAt _ ((mapped.fresh.2.ctx? 0).getD Ctx.reset) va n (by decide +kernel) (by decide +kernel) (by decide +kernel) v
    (pages_walk _ va h h2 (by decide +kernel) (by decide +kernel) (by decide +kernel) (by decide +kernel))
/-- ctsv writes an image, whatever its length, and faults at an address that nothing maps. -/
theorem witness_ContextImages_saved : (∃ p, mapped.writeImage 0 1 0 0x010000000000 = .ok p)
    ∧ ∃ e, mapped.writeImage 0 1 0 0 = .error e := by
  have hl : ∀ n, 0 < imageLength n ∧ imageLength n < 3 * 2 ^ 30 := fun n => by unfold imageLength; omega
  constructor
  · have hv : mapped.fresh.2.virtCheck 0 0x010000000000 (imageLength mapped.fresh.1) true = .ok () := by
      refine virtCheck_ok _ _ _ _ _ fun c hc => ?_
      have := chunksFrom_bounds _ _ _ c hc
      have := hl mapped.fresh.1
      exact mapped_chunkAt _ _ (by omega) (by omega)
    cases h : mapped.writeImage 0 1 0 0x010000000000 with
    | ok p => exact ⟨p, rfl⟩
    | error e =>
      unfold State.writeImage State.virtWrite at h
      simp only [imageBytes_length, hv] at h
      cases h
  · refine ⟨0, ?_⟩
    unfold State.writeImage State.virtWrite
    simp only [imageBytes_length]
    rw [virtCheck_error _ _ _ _ _ (hl _).1]
    intro m
    have : mapped.fresh.2.translate 0 0 true = none := by decide +kernel
    simp [State.chunkAt, this]
/-- A save of one resident core, in a context whose space nothing maps, fails. -/
theorem witness_ContextRequests_failed : let s := (due 1 false).modCctx 0 1 fun c => { c with resident := true }
    s.drained 1 = true ∧ (State.writeImages 1 0 0 (s.residentOn 1) s).2 = false := by
  intro s
  refine ⟨by decide +kernel, ?_⟩
  have hr : s.residentOn 1 = [0] := by decide +kernel
  rw [hr]
  have : ∃ e, s.writeImage 0 1 1 (0 + 0 * 0) = .error e := by
    refine ⟨0 + 0 * 0, ?_⟩
    unfold State.writeImage State.virtWrite
    simp only [imageBytes_length]
    rw [virtCheck_error _ _ _ _ _ (by unfold imageLength; omega)]
    intro m
    have : s.fresh.2.translate 1 (0 + 0 * 0) true = none := by decide +kernel
    simp [State.chunkAt, this]
  obtain ⟨e, he⟩ := this
  simp only [State.writeImages, he]

/-- Every core has arrived; every control thread has ended its exchange program; and the ring. -/
def allIn : State := cs.modCctx 0 0 fun c => { c with wait := .arrived ⟨0, 8⟩ }
def allOut : State := xs.modCctx 0 0 fun c => { c with wait := .xend }
theorem witness_BoundariesAdvance :
    (allIn.boot = 6 ∧ allIn.phase.getLsbD 0 = false ∧ allIn.window = .closed ∧ allIn.allArrived = true ∧ allIn.ring.en = false
      ∧ allIn.members = [0] ∧ has (allIn.cctx? 0 0) (fun c => c.wait == .arrived ⟨0, 8⟩ && c.running) = true)
    ∧ (let s : State := { allIn with ring := { allIn.ring with en := true } };
      s.allArrived = true ∧ s.ring.sent = false ∧ s.ring.released = false ∧ s.ring.lead = false)
    ∧ (allOut.phase.getLsbD 0 = true ∧ allOut.window = .closed ∧ allOut.allEnded = true ∧ allOut.ring.en = false)
    ∧ ((List.range 16).all fun n => (allOut.dueReq n).isNone) = true ∧ allOut.handlersDone = true := by decide +kernel
/-- A window whose events go to the control thread of context 0, free and busy; and one that closes over a parked group. -/
theorem witness_WindowEventsAndClose :
    (let s : State := { xs with window := .requests, reqs := xs.reqs.modify 0 fun r => { r with wev := true } }
      let busy := s.modCctx 0 0 fun c => { c with handling := some placedDelivery };
      s.boot = 6 ∧ s.phase.getLsbD 0 = true ∧ ((List.range 16).all fun n => (s.dueReq n).isNone) = true ∧ s.members = [0]
      ∧ has s.reqs[0]? (fun r => r.wev) = true
      ∧ has (s.cctx? 0 0) (fun c => c.resident && c.handling.isNone && c.deliveries.isEmpty) = true
      ∧ has (busy.cctx? 0 0) (fun c => c.resident && c.handling.isSome) = true)
    ∧ (let s : State := State.modGroup { gs with window := .events, phase := 1 } 0 0 fun g =>
        { g.modSplit 0 fun sp => { sp with wait := .parv ⟨0, 0⟩ } with parked := true };
      s.boot = 6 ∧ s.phase.getLsbD 0 = true ∧ s.handlersDone = true
      ∧ has (s.group? 0 0) (fun g => decide (g.ctx < 16) && has (s.ctx? g.ctx) fun d => !d.detached) = true)
    ∧ (allIn.cores.all fun c => c.claims.isEmpty) = true := by decide +kernel
theorem witness_StragglersAreDetached :
    let s : State := { cs with straggle := some 0, clock := 0x400 }
    s.boot = 6 ∧ s.warned = false ∧ s.psto1 ≤ (s.clock - 0).toNat ∧ s.psto2 ≤ (s.clock - 0).toNat ∧ s.members = [0]
    ∧ s.straggles 0 0 = true := by decide +kernel
/-- A record of one workgroup of one group with one register block and a slice of 4 KiB, for token 0; its context runs on core 0
in a region of 64 KiB, with eight register blocks. -/
def aRecord : List Byte := toLE 64 (2 ^ 128 + 2 ^ 164 + 2 ^ 204 + 2 ^ 226)
def placeable : State := (gs.modCtx 0 fun d => { d with cores := 1 }).modCctx 0 0 fun c => { c with sllim := 0x10000, vbq := 8 }
theorem witness_WorkgroupsArePlaced :
    placeable.memoryOk = true ∧ has (placeable.core? 0) (fun c => has (placeable.cctx? 0 0) fun cc =>
      freeRun cc.slbase cc.sllim (lrSlice aRecord) c.extents == some 4096 && c.groups.length == 96
      && decide (lrGroups aRecord ≤ ((List.range 96).filter fun n => (c.group? n).isNone).length)) = true
    ∧ (placeable.codeImage 0 0 (lrToken aRecord)).isSome = true := by decide +kernel
theorem witness_LaunchRecordsAreExamined :
    placeable.rejection 0 aRecord = none ∧ placeable.rejection 0 (toLE 64 (2 ^ 511)) = some 1 ∧ placeable.rejection 0 (toLE 64 0) = some 2
    ∧ (match mapped.virtWrite 0 (lrDonea (toLE 64 (0x010000000000 * 2 ^ 256))) (toLE 16 1) with
      | .ok _ => true
      | .error _ => false) = true
    ∧ lrDonea (toLE 64 (0x010000000000 * 2 ^ 256)) ≠ 0 := by decide +kernel

/-- A record for each reason of Table 22.3 that an examination finds, and a head whose fill has failed. -/
theorem witness_LaunchRecordsAreRejected :
    let s := placeable.modCctx 0 0 fun c => { c with vbq := 512 }
    s.rejection 0 (toLE 64 (2 ^ 128 + 2 ^ 204 + 2 ^ 226)) = some 3 ∧ s.rejection 0 (toLE 64 (2 ^ 128 + 2 ^ 164 + 2 ^ 226)) = some 4
    ∧ s.rejection 0 (toLE 64 (12 * 2 ^ 128 + 15 * 2 ^ 160 + 2 ^ 164 + 2 ^ 204 + 12 * 2 ^ 226)) = some 5 ∧ s.rejection 0 aRecord = none
    ∧ (let l : Launch := ⟨0, 0, 0, aRecord, 0, 0, true⟩; l.rejected = true)
    ∧ (let u := s.modCore 0 fun c => { c with images := c.images.map fun i => { i with ecnt := 0 } }
      let l : Launch := ⟨0, 0, 0, aRecord, 0, 0, false⟩;
      ((u.blocksFrom 0 aRecord).any fun b => (u.blockFits [] 0 aRecord b).contains .noEntry) = true ∧ l.rejected = false)
    ∧ (let r := toLE 64 (2 ^ 48 + 2 ^ 128 + 2 ^ 164 + 2 ^ 204 + 2 ^ 226)
      let l : Launch := ⟨0, 0, 0, r, 0, 0, false⟩;
      ((s.blocksFrom 0 r).any fun b => (s.blockFits [] 0 r b).contains .noEntry) = false
      ∧ (match (s.serveHead [] l).1 with | .rejected => true | _ => false) = true)
    ∧ s.fit [] 0 aRecord 0 1 ≠ .noEntry := by decide +kernel
theorem witness_CommandWindowReadsBack :
    gs.boot = 6 ∧ gs.ring.en = false ∧ gs.reqs.length = 16 ∧ gs.loss.length = 16 ∧ gs.routes.length = 256
    ∧ (∀ v : DWord, v = 8 → bits v 8 56 = 0 ∧ 1 ≤ bits v 0 4 ∧ bits v 0 4 ≤ 8 ∧ v.toNat < 2 ^ 10)
    ∧ 2 ^ 10 ≤ (1024 : DWord).toNat ∧ 2 ^ 40 < (0x10000000001 : DWord).toNat
    ∧ has gs.queues[63]? (fun w => !w.en) = true ∧ queueWordOk 0x0800010000000000 = true ∧ gs.enabledQueues 0 < 8
    ∧ (let s : State := { gs with queues := gs.queues.set 0 { LaunchQueue.reset with en := true, lsz := 6 } };
      has s.queues[0]? (fun w => w.en && decide ((64 - w.ridx).toNat ≤ 2 ^ w.lsz) && decide (2 ^ w.lsz < (65 - w.ridx).toNat)) = true)
    := by
  refine ⟨by decide +kernel, by decide +kernel, by decide +kernel, by decide +kernel, by decide +kernel, ?_, by decide, by decide,
    by decide +kernel, by decide +kernel, by decide +kernel, by decide +kernel⟩
  rintro v rfl; decide
/-- Each kind of access, refused and answered, and the ring of a leader that has its own ARRIVE and lacks another. -/
theorem witness_OutsideAccesses :
    gs.boot = 6
    ∧ (let a : FabricAccess := ⟨1, 0x100, true, 0, [1, 2]⟩; a.off + a.data.length < 0xFFFFFF0000 ∧ gs.explim < a.off + a.data.length
      ∧ a.off + a.data.length ≤ { gs with explim := 0x1000 }.explim)
    ∧ (let a : FabricAccess := ⟨1, 0xFFFFFF0900, false, 8, []⟩; 0xFFFFFF0000 ≤ a.off ∧ (a.off - 0xFFFFFF0000) % 8 = 0
      ∧ a.off - 0xFFFFFF0000 < 0x10000)
    ∧ (let r : Ring := { gs.ring with en := true, lead := true, rmem := 6, arrived := 2, since := some 0 }
      let s : State := { gs with ring := r, node := 1, clock := 0x400 };
      s.ring.rmem.getLsbD 2 = true ∧ s.ring.rto ≤ (s.clock - 0).toNat ∧ s.ring.arrived.getLsbD s.node.toNat = true
      ∧ s.ring.released = false ∧ ({ s with ring := { r with sent := true } } : State).ring.sent = true)
    ∧ (0x0900 < 0x10000 ∧ 0x0900 % 8 = 0 ∧ 0x1010 % 32 ≠ 8 ∧ 0x1010 % 32 ≠ 0 ∧ (0x0800000000000000 : DWord).getLsbD 59 = true)
    := by decide +kernel
/-- Each step of power-on that can fail, and the inputs that pass all of them. -/
theorem witness_PowerOn :
    let b := BootInputs.good
    let off := fun (b : BootInputs) => b.cfgCoresOff ||| b.testCoresOff ||| b.testSlicesOff
    let count := fun (b : BootInputs) => ((List.range 64).filter fun k => (off b).getLsbD k).length
    b.romOk = true ∧ b.configOk = true ∧ b.finishOk = true ∧ b.linksFailed = 0 ∧ count b ≤ 32
    ∧ ~~~(b.cfgStationsOff ||| b.testStationsOff) ≠ 0#16
    ∧ ([b.management, b.core, b.config].all fun i => i.version == 1 && keyDigestOf i == b.keyDigest
        && P521.verify (Sha512.digest i.bytes) i.keyX i.keyY i.sigR i.sigS) = true
    ∧ b.management.version ≠ 2 ∧ keyDigestOf { b.core with keyX := 1 } ≠ b.keyDigest
    ∧ P521.verify (Sha512.digest [1]) b.core.keyX b.core.keyY b.core.sigR b.core.sigS = false
    ∧ 32 < count { b with cfgCoresOff := 0x1FFFFFFFF } ∧ count { b with testCoresOff := 0xFFFFFFFF } = 32
    ∧ (List.replicate 64 (0 : Byte)).length = 64 ∧ gs.boot ≠ 0 ∧ gs.bootFail ≠ 1 ∧ gs.boot = 6 := by decide +kernel

theorem witness_DecodeInvertsEncode :
    (.sadd { v96 5 with fn := 0x80, d := 385, a := sr 2 } : Instr).wf = true
    ∧ encode (.sadd { v96 5 with fn := 0x80, d := 385, a := sr 2 }) = some [0x80C08041, 0x00000182, 0x00000005] ∧ 20 + 4 * 3 ≤ 32
    ∧ (decode 0x1C [0]).toOption = some .shortPad := by decide +kernel
/-- An instruction of each class in a thread that it is not for, and in the wrong phase. -/
theorem witness_ClassesOfInstructions :
    ([((.tret op0 : Instr), gs), (.iadd op0, cs), (.gfrmOpen { v96 0 with fn := 1 }, gs), (.gfrmOpen { v96 0 with fn := 1 }, xs),
      (.sadd op0, gs), (.barv op0, xs)].all fun p => p.1.wf && p.1.raw.isSome && (p.2.iss? p.2.cur).isSome) = true
    ∧ (Raw.op 0xF0 op0).threadClass = .super ∧ (Raw.op 0x30 op0).threadClass = .group ∧ (Raw.op 0xC8 op0).threadClass = .ct
    ∧ (Raw.op 0x10 op0).threadClass = .any ∧ (Raw.op 0xC8 op0).phaseClass.admits xs.phase = false ∧ (Raw.op 0x98 op0).phaseClass.admits xs.phase = true := by decide +kernel
theorem witness_RegistersAreWaitedFor :
    (gs.iss? gs.cur).isSome = true ∧ (uReq ou true false false).check (here gs) gs.phase = none
    ∧ (lReq { ov with d := 8 } true false false).check (here gs) gs.phase ≠ none
    ∧ guardSel ⟨false, 1⟩ (here gs).uni (here gs).exec = 0
    ∧ (let s := State.uni gs fun u => u.markEmpty 8;
      ({ sr 8 with fe := true } : Src).fe = true ∧ (here s).empty 392 = true ∧ (here s).empty 393 = false) := by decide +kernel
/-- Sources in error: an s register, and one lane of a v register that the guard selects. -/
theorem witness_RegistersInError :
    (let s := State.uni gs fun u => { u with sErr := 1 <<< 8 };
      fits { Req.plain Guard.none with reads := [] } s = true ∧ (here s).inError LaneSet.all 392 ≠ 0 ∧ (here s).inError LaneSet.all 393 = 0
      ∧ (here s).empty 392 = false)
    ∧ (let s := gs.modGroup 0 0 fun g => { g with vErr := [(1, 4)] };
      (here s).inError LaneSet.all 1 = 4 ∧ (here s).inError 3 1 = 0 ∧ (here s).empty 1 = false) := by decide +kernel
/-- A thread at an instruction of its image, of firmware, and at a token that is not there; and an event. -/
theorem witness_StepRunsDecoded :
    (gs.agenda = [.issue gs.cur] ∧ has (gs.iss? gs.cur) (fun x => !x.sup && (match gs.resolve x x.pc.token true with
      | .code _ m => (decode (x.pc.off.toNat % 32) (m.codeWords x.pc.off.toNat)).toOption.isSome | _ => false)) = true)
    ∧ has (fs.iss? fs.cur) (fun x => x.sup && (fs.core? x.core).isSome) = true
    ∧ (let s := gs.modCctx 0 0 fun c => { c with ovqt := 256, tokens := [] };
      has (s.iss? s.cur) (fun x => match s.resolve x x.pc.token true with | .wait _ => true | _ => false) = true)
    ∧ (let s := gs.modCctx 0 0 fun c => { c with tokens := [(0, ⟨.failed, false, 2, 0, none, [], []⟩)] };
      has (s.iss? s.cur) (fun x => match s.resolve x x.pc.token true with | .trap _ _ => true | _ => false) = true)
    ∧ (Instr.raw (.explimWrite 0) = none ∧ (match exec (.explimWrite 0) gs with | .next _ => true | _ => false) = true) := by
  decide +kernel
/-- A token with words in error; a core with a late access, and an instruction whose access is to be late. -/
theorem witness_StepRunsDecoded_more :
    gs.quiet 0 = true
    ∧ (let s := gs.modCore 0 fun c => { c with images := c.images.map fun i => { i with bad := [0] } };
      has (s.iss? s.cur) (fun x => match s.resolve x x.pc.token true with | .code _ m => m.bad.contains (x.pc.off.toNat / 8) | _ => false) = true)
    ∧ (let s := State.reset.withFetchWord 64 (0x04C20088 + 2 ^ 32 * 0x0011FF86)
      let u := match s.runAs true s.cur with | .next t => t | _ => s;
      s.agenda = [.issue s.cur] ∧ has (s.iss? s.cur) (fun x => (s.peek x).isSome && x.core == 0) = true
      ∧ has (u.core? 0) (fun c => c.nodes.length == 1) = true ∧ (u.iss? u.cur).isSome = true) := by decide +kernel
theorem witness_InstructionsLeaveTheDeviceAlone : Instr.raw (.sadd ou) ≠ none
    ∧ (match exec (.sadd ou) gs with | .next _ => true | _ => false) = true := by decide +kernel
theorem witness_StepKeepsInvariant : (match step gs with | .next _ => true | _ => false) = true ∧ gs.memoryOk = true
    ∧ gs.registersOk = true ∧ gs.windowOk = true := by decide +kernel

/-! What the second review has widened. -/

/-- Inputs of each line of Table 6.5, a NaN and negative numbers among them. -/
theorem witness_SpecialInputs :
    let v := fun (c : Word) => decodeFloat .f32 ((here (withV gs [(1, c)])).val ov false 0).toNat
    typeF ov = 0 ∧ ov.na = false ∧ fsubF ov = 0 ∧ fsubF { ov with fn := 1 } = 1
    ∧ (specialInputs.all fun r => [0xFF800000, 0x80000000, 0, 0x7F800000].any fun c => v c == r.2.2.1) = true
    ∧ v 0x7FC00000 = .nan false ∧ v 0x7F800001 = .nan true ∧ v 0xBF800000 = .fin true 0x800000 (-23)
    ∧ v 0x40400000 = .fin false 0xC00000 (-22) ∧ v 0x41000000 = .fin false 0x800000 (-20)
    ∧ v 0xBE800000 = .fin true 0x800000 (-25) := by decide +kernel
/-- 3, 2^3 and -1/4, and the integers below and above -1/4. -/
theorem witness_SpecialInputs_values : (FV.fin false 0xC00000 (-22)).rat = (3 : Int) ∧ (FV.fin false 0x800000 (-20)).rat = (2 : Rat) ^ (3 : Int)
    ∧ (FV.fin true 0x800000 (-25)).rat = ((-1 : Int) : Rat) / 4 ∧ (FV.fin true 0x800000 (-25)).finite = true
    ∧ (FV.fin true 0x800000 (-25)).rat.floor = -1 ∧ -(-(FV.fin true 0x800000 (-25)).rat).floor = 0 ∧ fsubF { ov with fn := 4 } ≤ 4 := by
  have h : (FV.fin true 0x800000 (-25)).rat = -1 / 4 := by norm_num [FV.rat]
  refine ⟨by norm_num [FV.rat], by norm_num [FV.rat], by norm_num [FV.rat], rfl, ?_, ?_, by decide +kernel⟩
  · rw [h]; decide +kernel
  · rw [h]; decide +kernel
/-- A third of the last place and a tie in bf16, neither of which overflows. -/
theorem witness_RoundsToANeighbour : ([RMode.rne, .rz, .rd, .ru].all fun m =>
    (roundFV .bf16 (RCtl.plain m) (.fin true 0x10081 (-3))).flags &&& fOF == 0
    && (roundFV .bf16 (RCtl.plain m) (.fin false 0x101 0)).flags &&& fOF == 0) = true ∧ 0 < 0x101 := by decide +kernel
/-- Reductions in which no lane, and in which some, take part, with numbers among them. -/
theorem witness_ReductionValues_floats :
    (let s := gs.modGroup 0 0 fun g => { g with helper := LaneSet.all };
      (List.range 128).filter (fun i => (here s).active.getLsbD i) = [])
    ∧ (let part := (List.range 128).filter fun i => (here gs).active.getLsbD i
      part.filter (fun i => !(fv32 ((here gs).lane 1 i)).isNan) ≠ []
      ∧ part.filter (fun j => decide (j < 1) && !(fv32 ((here gs).lane 1 j)).isNan) ≠ []) := by decide +kernel
/-- vtos of a lane by immediate and by register, and of a lane in error. -/
theorem witness_VtosErrors :
    let s := (withS gs [(9, 5)]).modGroup 0 0 fun g => { g with vErr := [(1, 32)] }
    let q := fun (o : Op) => ({ g := o.g, phase := .C, who := .group, reads := rdV o.a :: (if immBit o then [rdS o.b] else []),
                                writes := [atS o.d], own := true } : Req)
    let o : Op := { op0 with d := 390, a := r 1, b := sr 9, fn := 0x80 }
    let p : Op := { op0 with d := 390, a := r 1, fn := 4 }
    fits (q o) s = true ∧ fits (q p) s = true ∧ immBit o = true ∧ immBit p = false ∧ isS o.a.reg = false
    ∧ (here s).inError (here s).sel o.b.reg = 0 ∧ (here s).inError (1#128 <<< 5) 1 ≠ 0 ∧ (here s).inError (1#128 <<< 4) 1 = 0
    ∧ ((here s).s o.b.reg).extractLsb' 0 7 = 5#7 := by decide +kernel
/-- yield of a group and of a control thread; brk with a record and no lane selected, with too few records, and on a control
thread. -/
theorem witness_BrkAlways :
    let q : Req := { Req.plain ⟨false, 2⟩ with always := true }
    let z := (seen q atJoin).getD nobody
    ((here gs).isCt = false ∧ (here cs).isCt = true)
    ∧ (seen q atJoin = some z ∧ z.sel = 0
      ∧ has z.grp (fun g => has (g.split? z.entry) fun sp => (g.chain 1 sp.innermost).length == 1) = true)
    ∧ (fits { Req.plain Guard.none with always := true } atJoin = true ∧ (here atJoin).sel ≠ 0
      ∧ has (here atJoin).grp (fun g => has (g.split? 0) fun sp => (g.chain 1 sp.innermost).length == 1) = true)
    ∧ (fits { Req.plain Guard.none with always := true } gs = true
      ∧ has (here gs).grp (fun g => has (g.split? 0) fun sp => decide ((g.chain 1 sp.innermost).length < 1)) = true)
    ∧ (let y := (seen q cs).getD nobody; seen q cs = some y ∧ y.grp = none ∧ y.sel = 0) := by decide +kernel
/-- A call to a resident token by a thread that has met no failed fill. -/
theorem witness_OwedTrap : (withS gs [(8, 0x20)]).owedTrap (here gs) = false
    ∧ (let s := gs.modCctx 0 0 fun c => c.setToken 0 { c.token 0 with owed := [⟨(here gs).th, (here gs).pc, none⟩] };
      has (s.cctx? 0 0) (fun cc => cc.tokens.any fun p => p.2.owed.any fun w => w.thread == (here s).th && w.pc == (here s).pc) = true
      ∧ s.owedTrap (here s) = true) := by decide +kernel
/-- A barrier object in a word in error, named by copies of a group and by transfers of a control thread. -/
def badObj (s : State) : State := (s.modCctx 0 0 fun c => { c with objs := [⟨5, 0x100, (here s).owner⟩] }).modCore 0 fun c =>
  { c with poison := [0x10] }
theorem witness_BarErrors :
    let o : Op := { e128 16 0x105 with d := 390, a := sr 8, b := sr 9 }
    let p : Op := { o with b := r 0 }
    let l := [atS p.d, rdS p.a]
    (fits { g := p.g, phase := .C, who := .any, writes := [], reads := l ++ countReads p } (badObj big) = true
      ∧ (here (badObj big)).active ≠ 0 ∧ ((here (badObj big)).count p).toNat < 2 ^ 32 ∧ ebWV p = false
      ∧ ((badObj big).barError (here (badObj big)) p).isSome = true)
    ∧ (fits { g := p.g, phase := .X, who := .ct, writes := [], reads := l ++ [] ++ countReads p } (badObj xs) = true
      ∧ fits { g := o.g, phase := .X, who := .ct, writes := [], reads := l ++ [rdS o.b] ++ countReads o } (badObj xs) = true
      ∧ ((badObj xs).barError (here (badObj xs)) p).isSome = true) := by decide +kernel
/-- A pair of extents that share a byte through the alias of core 3's slice, and a pair that does not. -/
theorem witness_ExtentsMeet : extentsMeet 3 (0x10, 0x20) (0x000100000000 + 3 * 0x04000000 + 0x1F, 0x000100000000 + 3 * 0x04000000 + 0x30) = true
    ∧ extentsMeet 3 (0x10, 0x20) (0x000100000000 + 3 * 0x04000000 - 8, 0x000100000000 + 3 * 0x04000000 + 8) = false := by decide +kernel
/-- An xadd in error nowhere, of a context that has been detached since and of one that has not; a transfer behind a deposit of
65 bytes. -/
theorem witness_ExchangeBytes_more :
    let p : Op := { e128 16 0 with d := 390, a := sr 8 }
    let s := exchanging (.xadd p) 0x200 0x100 0
    let n := (firstOp s).elim 0 EngineOp.id
    has (s.core? 0) (fun q => (q.poisoned false 0x200 64).isNone) = true ∧ s.deposits = []
    ∧ has (s.ctx? 0) (fun c => !(c.detached || decide (n < c.voidBefore))) = true
    ∧ has ((s.modCtx 0 fun c => { c with voidBefore := n + 1 }).ctx? 0) (fun c => decide (n < c.voidBefore)) = true := by decide +kernel
def bigDeposit : Deposit :=
  ⟨90, 91, gs.issuer (here gs), ⟨.ct 0 false, 0, 0⟩, 0, 0, 0, List.replicate 65 (0, 0), 65, 65, none, none, false, 0⟩
theorem witness_TransfersWait :
    let s : State := { exchanging (.xmov { e128 16 0 with d := 390, a := sr 8 }) 0x200 0x100 0 with deposits := [bigDeposit] }
    ∃ op, firstOp s = some op ∧ op.instr = .xmov { e128 16 0 with d := 390, a := sr 8 } ∧ ¬ s.unhindered op :=
  ⟨_, rfl, by decide +kernel, fun h => h bigDeposit (List.mem_singleton.2 rfl) rfl (by decide +kernel) (by decide +kernel)
    ⟨0x200, by decide +kernel⟩⟩
/-- Of two judged deposits from one core to one, the one that was judged first, and the other. -/
theorem witness_DepositsAcknowledged_order :
    let d : Deposit := { bigDeposit with verdict := some true, judged := 4 }
    let s : State := { gs with deposits := [d, { d with id := 92, judged := 3 }] }
    (s.deposits.find? fun e => e.id == 90 && e.verdict.isSome) = some d
    ∧ (¬ s.deposits.all fun e => e.verdict == none || e.who.core != d.who.core || e.target != d.target || decide (d.judged ≤ e.judged))
    ∧ (s.deposits.find? fun e => e.id == 92 && e.verdict.isSome) = some { d with id := 92, judged := 3 } := by decide +kernel
/-- A contribution of a control thread to an element in error. -/
theorem witness_StagesAdd_error :
    let c : XAdd := ⟨9, { gs.issuer (here gs) with party := some (.ct 0 false) }, 0, 0, 0, 0x200, 7⟩
    let s := gs.modCore 0 fun d => { d with poison := [0x20] }
    c.who.party = some (.ct 0 false) ∧ ((s.core? c.target).bind fun q => q.poisoned false c.off (xaddBytes c.type)) = some 0x20
    := by decide +kernel
/-- A member's accumulation step whose registers do not reach that far, and two gangs' macq: misaligned, and of no extent. -/
theorem witness_JointInstructionsTrap :
    (let i : Instr := .mstr { e128 4 0 with fn := 0xC0, a := r 6, b := sr 7 }
      let s := meeting (.joint i)
      let z := (s.issAt 0 0 0).getD nobody
      let y := (s.issAt 0 1 0).getD nobody
      ([0, 1].all fun t => has (s.group? 0 t) (fun g => g.latched == some (0, i) && g.gang == 3)
        && s.groupLive 0 t && has (s.issAt 0 t 0) fun x => decide ((x.uni.count 3).val < 63)) = true
      ∧ jointFields i (z, matFields i) (y, matFields i)
      ∧ (jointReads i (z, matFields i) (y, matFields i)).any (fun q => !q.ok false y.blocks) = true)
    ∧ (let s := meeting (.joint (.macq { op0 with fn := 0x81, a := sr 8 }));
      has (s.issAt 0 0 0) (fun y => (y.s 392).toNat % 4096 != 0) = true)
    ∧ (let s := (meeting (.joint (.macq { op0 with fn := 0x81, a := sr 8 }))).modGroup 0 0 fun g => { g with uni := g.uni.set 8 0x20000 };
      has (s.issAt 0 0 0) (fun y => (y.s 392).toNat % 4096 == 0 && (s.ownExtent y 0x20000 0x10000).isNone) = true) := by
  refine ⟨⟨by decide +kernel, by intro _; decide +kernel, by decide +kernel⟩, by decide +kernel, by decide +kernel⟩
/-- The governing member of a gang has latched mcfg.mixed, and this one issues it; an owner with operations whose waiter may
pre-empt; a first operation of an owner that none may pre-empt. -/
theorem witness_MatrixGoverned :
    (let s := (meeting (.joint (.mcfg { v96 2 with fn := 0x80 }))).modGroup 0 1 fun g => g.modSplit 0 fun sp => { sp with wait := .none };
      has (s.iss? (.group 0 1 0)) (fun x => has x.grp fun g => has (s.governing x g true { v96 2 with fn := 0x80 }) fun l =>
        l.1.slot == 0 && l.2 == { v96 2 with fn := 0x80 }) = true)
    ∧ (let w : MatOwner := { theOwner with mask := 1 }
      let z : MatOp := ⟨0, .mflp op0, [], [], [], [], [], ⟨0, false, 0⟩, 0, []⟩
      let lower : MatOwner := { w with mask := 2, wg := 9, ops := [z] }
      let s := gs.modCore 0 fun c => { c with
        mat := { c.mat with owner := some lower, queue := [w] }
        wgs := [(0, ⟨0, 0, 4096, [], 0, 0, 0, 2, 0, 1, [0]⟩), (9, ⟨0, 0, 4096, [], 0, 0, 0, 1, 0, 1, [0]⟩)] };
      has (s.core? 0) (fun c => c.mat.owner == some lower && c.preemptor lower == some w && !lower.ops.isEmpty && c.mat.susp.isEmpty) = true)
    ∧ has (owning.core? 0) (fun c => (c.preemptor theOwner).isNone) = true := by decide +kernel
/-- A reload with a word of the save area in error, all others good. -/
theorem witness_ReloadErrors : let poison := [0x400]
    let good := fun (a : Nat) => poison.all fun w => decide (a < 16 * w ∨ 16 * w + 16 ≤ a)
    theOwner.save = 0x4000 ∧ good 0x4000 = false ∧ good 0x4010 = true := by decide +kernel
/-- rpak where the other listed group has parked: nothing in the latch, this rpak in it, and another one in it; and where it
has not, with another rpak in the latch. -/
theorem witness_RepackTraps :
    let o := rp 3
    let gone := fun (s : State) => s.modGroup 0 1 fun g => { g with parked := true }
    let latch := fun (t : Nat) (p : Op) (s : State) => s.modGroup 0 t fun g => g.modSplit 0 fun sp => { sp with wait := .rpak p }
    let q : Req := { g := o.g, phase := .C, who := .group, reads := [], writes := [atS o.d] }
    let held := fun (s : State) => (s.wgSlots 0 0).filter fun t => has (s.group? 0 t) fun h => (h.held Wait.isRpak).isSome
    (fits q (gone ganged) = true ∧ (gone ganged).maskSlots 0 0 (rpakMask o) = [0, 1] ∧ held (gone ganged) = [])
    ∧ (let s := latch 1 (rp 2) (gone ganged); fits q s = true ∧ held s = [1])
    ∧ (let s := latch 1 (rp 2) ganged;
      fits q s = true ∧ held s = [1] ∧ word2 o ≠ word2 (rp 2)) := by decide +kernel
/-- A group in the repack latch with a lane in error in a register that it gives up. -/
theorem witness_RepackError : let s := (meeting (.rpak (rp 3))).modGroup 0 1 fun g => { g with vErr := [(1, 4)] }
    has (s.group? 0 1) (fun g => g.laneErr 1 &&& ~~~(g.exited ||| g.helper) != 0 && (g.repackBad (rp 3)).isSome
      && (s.issAt 0 1 0).isSome) = true := by decide +kernel
/-- The scan of the triangle of `rasting` finds a covered sample. -/
theorem witness_CoverageIsExact :
    let t : RastTri := ⟨[0, 4096, 0], [0, 0, 4096], [], []⟩
    tileOk 0x020200000000 = true ∧ (rastScan t false 0x020200000000 4 0 []).1.any (fun p => p.2) = true := by decide +kernel
/-- Two triangles of the other winding that share an edge. -/
theorem witness_SharedEdgeCoveredOnce_negative :
    let a : RastTri := ⟨[4, 0, 0], [0, 0, 4], [], []⟩
    let b : RastTri := ⟨[0, 4, 4], [0, 0, -4], [], []⟩
    a.area < 0 ∧ b.area < 0 ∧ a.value 2 2 0 = 0 ∧ a.value 0 2 0 < 0 ∧ a.value 1 2 0 < 0 ∧ b.value 0 2 0 < 0 ∧ b.value 1 2 0 < 0 := by
  decide +kernel
/-- Claims of a frozen group, and of one whose context is detached. -/
theorem witness_ClaimsBehindTheBack :
    (let s := (claiming 512).modGroup 0 0 fun g => { g with frozen := true };
      s.groupLive 0 0 = false ∧ (s.issAt 0 0 0).isSome = true)
    ∧ (let s := (claiming 1).modCtx 0 fun d => { d with detached := true };
      has (s.core? 0) (fun c => has c.claims.head? fun q => !c.claimFits q) = true ∧ (s.issAt 0 0 0).isSome = true
      ∧ has (s.ctx? 0) (fun d => d.detached) = true) := by decide +kernel
/-- GREG in error, of an s register and of a lane; a group that the delivery being handled has not frozen. -/
theorem witness_CsrReads_errors :
    (let s := (regSel 384).modGroup 0 0 fun g => { g with uni := { g.uni with sErr := 1 } };
      has (s.group? 0 0) (fun g => selectsB s g && g.uni.sErr.getLsbD 0) = true ∧ fits (supReq Guard.none [] [atS 390]) s = true)
    ∧ (let s := (regSel 1).modGroup 0 0 fun g => { g with vErr := [(1, 1)] };
      has (s.group? 0 0) (fun g => selectsB s g && (g.laneErr 1).getLsbD 0) = true)
    ∧ (let s := handler.modCctx 0 0 fun c => { c with handling := c.handling.map fun d => { d with src := .userCt } };
      fits (supReq Guard.none [] [atS 390]) s = true ∧ has (s.group? 0 0) (fun g => !g.parked) = true
      ∧ has (s.cctx? 0 0) (fun c => !c.held && c.handling.all fun d => d.src == .userCt) = true) := by decide +kernel
/-- Two splits of a partition: ready at clocks 8 and 9, the first one yielding, the second one urgent; two control threads. -/
def pair : State := State.modCore { gs with clock := 40 } 0 fun c =>
  { c with groups := c.groups.set 1 ((c.group? 0).map fun g => g.modSplit 0 fun sp => { sp with since := some 8 }) }
def onSplit (t : Nat) (f : Split → Split) (s : State) : State := s.modGroup 0 t fun g => g.modSplit 0 f
theorem witness_PartitionChoice :
    let a := onSplit 0 (fun sp => { sp with since := some 7 }) pair
    let b := onSplit 0 (fun sp => { sp with since := some 7, yielded := true }) pair
    let c := onSplit 0 (fun sp => { sp with since := some 9, urgent := true, urgentAt := 40 }) pair
    let d := onSplit 0 (fun sp => { sp with since := some 9 }) (onSplit 1 (fun sp => { sp with passed := true }) pair)
    let e := onSplit 0 (fun sp => { sp with since := some 9 }) pair
    ([a, c].all fun s => (s.split? (.group 0 1 0)).isSome && has (s.split? (.group 0 0 0)) fun sq => sq.since.isSome && !sq.yielded) = true
    ∧ ([b, d].all fun s => (s.split? (.group 0 0 0)).isSome && has (s.split? (.group 0 1 0)) fun sq => sq.since == some 8 && !sq.yielded) = true
    ∧ (40 - 9 : DWord).toNat < (40 - 8 : DWord).toNat ∧ (40 - 8 : DWord).toNat < (40 - 7 : DWord).toNat
    ∧ e.firstOf (.group 0 0 0) (fun _ => true) = some (.group 0 1 0)
    ∧ e.firstOf (.group 0 0 0) (fun v => v != .group 0 1 0) = some (.group 0 0 0) ∧ e.mayIssue (.group 0 0 0) = true
    ∧ d.mayIssue (.group 0 0 0) = false
    ∧ (let s := onSplit 0 (fun sp => { sp with wait := .macq }) gs;
      s.iss? (.group 0 0 0) = none ∧ (s.split? (.group 0 0 0)).isSome = true)
    ∧ (let s := cs.modCctx 0 1 fun c => { c with resident := true };
      has (s.core? 0) (fun c => c.residents.contains 0 && decide ((0 + 15 - c.lastCt) % 16 < (1 + 15 - c.lastCt) % 16)) = true
      ∧ s.isReady (.ct 0 0) = true)
    ∧ gs.isReady (.ct 0 0) = false ∧ (gs.iss? (.group 0 0 0)).isSome = true ∧ (gs.split? (.group 0 0 0)).isSome = true := by
  decide +kernel
/-- A delivery that waits in a context with a group that a halted one has left frozen. -/
theorem witness_DeliveryStarts : let s := (cs.modCctx 0 0 fun c => { c with deliveries := [placedDelivery] }).modCore 0 fun c =>
      { c with groups := c.groups.set 3 (((gs.core? 0).bind fun c => c.group? 0).map fun g => { g with frozen := true }) }
    has (s.cctx? 0 0) (fun c => c.handling.isNone && c.deliveries == [placedDelivery]) = true
    ∧ has (s.group? 0 3) (fun g => g.frozen) = true := by decide +kernel
/-- PSTO1 before PSTO2, its event still to come and past; and no later than it. -/
theorem witness_StragglersAreWarned :
    let s : State := { cs with straggle := some 0, clock := 0x400, psto2 := 0x800 }
    let u : State := { s with warned := true, clock := 0x800 }
    s.psto1 < s.psto2 ∧ s.warned = false ∧ s.psto1 ≤ (s.clock - 0).toNat ∧ s.straggles 0 0 = true ∧ s.members = [0]
    ∧ u.psto2 ≤ (u.clock - 0).toNat ∧ u.straggles 0 0 = true ∧ cs.psto2 ≤ cs.psto1 := by decide +kernel
/-- Values that each register of the window takes and that it does not take. -/
theorem witness_WindowWrites :
    gs.boot = 6 ∧ gs.ring.en = false ∧ ({ gs with boot := 0 } : State).boot ≠ 6
    ∧ (bits (8 : DWord) 8 56 = 0 ∧ 1 ≤ bits (8 : DWord) 0 4 ∧ bits (8 : DWord) 0 4 ≤ 8) ∧ bits (9 : DWord) 0 4 = 9
    ∧ (2 ^ 10 ≤ (0x400 : DWord).toNat ∧ (0x400 : DWord).toNat ≤ 2 ^ 40) ∧ (0x3FF : DWord).toNat < 2 ^ 10
    ∧ (bits (0x30501 : DWord) 18 46 = 0 ∧ bits (0x30501 : DWord) 1 7 = 0) ∧ bits (2 : DWord) 1 7 ≠ 0
    ∧ (gs.reqs.all fun q => !q.busy) = true ∧ (bits (0x1001 : DWord) 13 51 = 0 ∧ bits (0x1001 : DWord) 0 2 ≠ 0) ∧ bits (0x2000 : DWord) 13 51 ≠ 0
    ∧ bits (0x1000 : DWord) 0 2 = 0 ∧ isVirtual (0x010000001000 : DWord).toNat = true ∧ (0x010000001000 : DWord).toNat % 4096 = 0
    ∧ queueWordOk 0x0800010000000000 = true ∧ queueWordOk 0x8000000000000000 = false ∧ (gs.queues.all fun w => !w.en) = true := by
  decide +kernel
/-- A leader that has one of two ARRIVE messages, and takes that one again or the other. -/
theorem witness_RingArrives :
    let s : State := { gs with ring := { gs.ring with en := true, lead := true, rmem := 6, arrived := 2 } }
    let all := fun (n : Nat) => (List.range 256).all fun m => !s.ring.rmem.getLsbD m || (s.ring.arrived ||| (1#256 <<< n)).getLsbD m
    s.boot = 6 ∧ s.ring.rmem.getLsbD 1 = true ∧ s.ring.rmem.getLsbD 2 = true ∧ all 1 = false ∧ all 2 = true := by decide +kernel
/-- An instruction that its entry has act without a lane, and one that looks for errors itself. -/
theorem witness_RegistersAreWaitedFor_always :
    ({ Req.plain ⟨false, 1⟩ with always := true }.check (here gs) gs.phase = none) ∧ guardSel ⟨false, 1⟩ (here gs).uni (here gs).exec = 0
    ∧ ({ Req.plain Guard.none with own := true }.check (here gs) gs.phase = none) := by decide +kernel
/-- A thread that may issue where no access waits, one that another comes before, one whose claim has ended behind its back; a
core with an access still to be performed; an event of the agenda on cores where none is. -/
theorem witness_StepRunsDecoded_choices :
    (gs.mayIssue gs.cur = true ∧ (List.range 64).all gs.quiet = true)
    ∧ (onSplit 0 (fun sp => { sp with since := some 7 }) pair).mayIssue (.group 0 1 0) = false
    ∧ has ((onSplit 0 (fun sp => { sp with wait := .claimed }) gs).iss? gs.cur) (fun x => x.claimed) = true
    ∧ (let s := State.reset.withFetchWord 64 (0x04C20088 + 2 ^ 32 * 0x0011FF86)
      let u := match s.runAs true s.cur with | .next t => t | _ => s;
      u.quiet 0 = false ∧ has (u.iss? u.cur) (fun x => !x.claimed && x.core == 0) = true)
    ∧ (let s := then_ (.ld { mv with fn := 4 }) at100
      has (s.core? 0) (fun c => has c.results.head? fun q => (Instr.loadDataReturn 0 q.id).raw.isNone
        && (match exec (.loadDataReturn 0 q.id) s with | .next _ => true | _ => false)) = true) := by decide +kernel

end Sys2Proof.Tests
end

/-! SUPPORT. The integer operations of rows 0x1 and 0x3 on numbers (`intOp`, `intResult`) against the same operations on bit
vectors (`exactInt`, `intValue`), for every width, and what follows for row 0x3 (06 R119). They agree everywhere but at a
left shift with SAT: `intOp` clamps the product a * 2^k, `exactInt` what is left of it in n bits. Table 6.2 gives ishl no SAT,
so only terms that `Instr.wf` refuses meet the difference. -/
namespace Sys2Proof.Machine

/-! The operands and operations, one by one. -/

section
variable {n : Nat} (a b c : BitVec n) (u : Bool)

/-- Ext of a number that is a bit vector's. -/
theorem extInt_toNat : extInt n u a.toNat = extOf u a := by
  cases u <;> simp [extInt, extOf, Nat.mod_eq_of_lt a.isLt, BitVec.toInt_eq_msb_cond, BitVec.msb_eq_decide]

theorem extOf_inj : extOf u a = extOf u b ↔ a = b := by
  cases u
  · exact BitVec.toInt_inj
  · exact Int.ofNat_inj.trans BitVec.toNat_inj

theorem extOf_eq_zero : extOf u a = 0 ↔ a = 0 := by
  rw [← extOf_inj a 0 u]; cases u <;> simp [extOf]

/-- Equal and unequal extended operands are equal and unequal bit vectors. -/
theorem exactInt_cmp (sub : Nat) (choose : Bool) :
    exactInt .cmp u sub choose a b c = if intCond sub (extOf u a) (extOf u b) then 1 else 0 := by
  have heq : (extOf u a == extOf u b) = (a == b) := by rw [Bool.eq_iff_iff, beq_iff_eq, beq_iff_eq, extOf_inj]
  rcases sub with _ | _ | _ | _ | _ | sub
  · simp only [exactInt, intCond, heq]
  · simp only [exactInt, intCond, bne, heq]
  all_goals rfl

/-- A right shift of the extended operand divides and rounds down. -/
theorem extOf_div_two_pow (k : Nat) :
    extOf u a / 2 ^ k = if u then ((a >>> k).toNat : Int) else (a.sshiftRight k).toInt := by
  cases u <;> simp [extOf, BitVec.toInt_sshiftRight, Int.shiftRight_eq_div_pow, Nat.shiftRight_eq_div_pow]

/-! Fields. -/

theorem bitField_toNat (pos len : Nat) : bitField n a.toNat pos len = ((a >>> pos).setWidth len).toNat := by
  simp [bitField, Nat.mod_eq_of_lt a.isLt, Nat.shiftRight_eq_div_pow]

/-- An extracted field; one of length 0 extracts 0. -/
theorem extInt_bitField (pos len : Nat) :
    extInt (if len = 0 then 1 else len) (u || len == 0) (bitField n a.toNat pos len)
      = if len = 0 then 0 else extOf u ((a >>> pos).setWidth len) := by
  split
  case isTrue h => subst h; simp [extInt, bitField, Nat.mod_one]
  case isFalse h => rw [bitField_toNat, extInt_toNat, beq_eq_false_iff_ne.2 h, Bool.or_false]

theorem getLsbD_fieldMask {pos len : Nat} (hlen : len ≤ n) (i : Nat) :
    (fieldMask n pos len).getLsbD i = decide (i < n ∧ pos ≤ i ∧ i < pos + len) := by
  rw [Bool.eq_iff_iff]
  simp [fieldMask]
  omega

/-- An inserted field, bit by bit: below it, in it and above it. -/
theorem insertField_toNat {pos len : Nat} (hlen : len ≤ n) :
    insertField n a.toNat c.toNat pos len
      = ((a &&& ~~~(fieldMask n pos len)) ||| ((c <<< pos) &&& fieldMask n pos len)).toNat := by
  have hsplit : a.toNat % 2 ^ pos + c.toNat % 2 ^ len * 2 ^ pos + a.toNat / 2 ^ (pos + len) * 2 ^ (pos + len)
      = 2 ^ pos * (2 ^ len * (a.toNat / 2 ^ (pos + len)) + c.toNat % 2 ^ len) + a.toNat % 2 ^ pos := by ring
  refine Nat.eq_of_testBit_eq fun i => ?_
  rw [insertField, hsplit, Nat.testBit_mod_two_pow, Nat.testBit_two_pow_mul_add _ (Nat.mod_lt _ (by positivity)),
    Nat.testBit_two_pow_mul_add _ (Nat.mod_lt _ (by positivity))]
  simp only [BitVec.testBit_toNat, BitVec.getLsbD_or, BitVec.getLsbD_and, BitVec.getLsbD_not, BitVec.getLsbD_shiftLeft,
    getLsbD_fieldMask hlen, Nat.testBit_mod_two_pow, Nat.testBit_div_two_pow]
  by_cases hn : i < n
  · by_cases hbelow : i < pos
    · simp [hn, hbelow, show ¬ pos ≤ i by omega]
    · by_cases hin : i < pos + len
      · simp [hn, hbelow, hin, show i - pos < len by omega, show pos ≤ i by omega]
      · simp [hn, hbelow, hin, show ¬ i - pos < len by omega, show i - pos - len + (pos + len) = i by omega]
  · simp [hn]

/-! Counts of bits, and their reversal. -/

theorem popBits_toNat : intOp.popBits' n a.toNat = (List.range n).countP fun i => a.getLsbD i := by
  simp [intOp.popBits', List.countP_eq_length_filter, BitVec.getLsbD]

theorem countP_range_ge (n k : Nat) : (List.range n).countP (fun i => decide (k ≤ i)) = n - k := by
  induction n with
  | zero => simp
  | succ n ih =>
    rw [List.range_succ, List.countP_append, ih, List.countP_singleton]
    split <;> simp_all <;> omega

/-- Bit i and those above it are clear where a < 2^i. -/
theorem clzN_toNat : clzN n a.toNat = (List.range n).countP fun i => decide (a.toNat < 2 ^ i) := by
  rw [clzN, Nat.mod_eq_of_lt a.isLt]
  split
  case isTrue h => simp [h]
  case isFalse h => simp only [← Nat.log2_lt h, ← Nat.succ_le_iff, countP_range_ge]; omega

/-- The place of the first hit below n is the number of places that come before any hit. -/
theorem find?_range_getD (p : Nat → Bool) (n : Nat) :
    ((List.range n).find? p).getD n = (List.range n).countP fun i => decide (∀ j ≤ i, p j = false) := by
  induction n with
  | zero => rfl
  | succ n ih =>
    rw [List.range_succ, List.find?_append, List.countP_append, ← ih, List.countP_singleton]
    cases h : (List.range n).find? p with
    | some k =>
      have hk := List.find?_some h
      have hlt := List.mem_range.1 (List.mem_of_find?_eq_some h)
      have hhit : ¬ ∀ j ≤ n, p j = false := fun hall => by simp [hall k hlt.le] at hk
      simp [hhit]
    | none =>
      have hnone : ∀ j < n, p j = false := by simpa using h
      have hlast : (∀ j ≤ n, p j = false) ↔ p n = false :=
        ⟨fun hall => hall n le_rfl, fun hp j hj => hj.lt_or_eq.elim (hnone j) (· ▸ hp)⟩
      cases hp : p n <;> simp [hlast, hp]

theorem mod_two_pow_succ_eq_zero (a i : Nat) : a % 2 ^ (i + 1) = 0 ↔ ∀ j ≤ i, a.testBit j = false := by
  constructor
  · intro h j hj
    have hbit := congrArg (Nat.testBit · j) h
    simpa [Nat.testBit_mod_two_pow, Nat.lt_succ_of_le hj] using hbit
  · intro h
    refine Nat.eq_of_testBit_eq fun j => ?_
    rw [Nat.testBit_mod_two_pow, Nat.zero_testBit]
    by_cases hj : j < i + 1
    · simp [h j (Nat.le_of_lt_succ hj)]
    · simp [hj]

/-- Bit i and those below it are clear where 2^(i+1) divides a. -/
theorem ctzN_toNat : ctzN n a.toNat = (List.range n).countP fun i => decide (a.toNat % 2 ^ (i + 1) = 0) := by
  simp only [ctzN, find?_range_getD, mod_two_pow_succ_eq_zero]

/-- The first k steps of `brevN` put the reverse of the low k bits at the top. -/
theorem brevN_fold_toNat {k : Nat} (hk : k ≤ n) :
    (List.range k).foldl (fun r i => if a.toNat.testBit i then r + 2 ^ (n - 1 - i) else r) 0
      = 2 ^ (n - k) * (a.setWidth k).reverse.toNat := by
  induction k with
  | zero => simp [BitVec.reverse, Nat.mod_one]
  | succ k ih =>
    have hpow : 2 ^ (n - k) = 2 ^ (n - (k + 1)) * 2 := by rw [← Nat.pow_succ]; congr 1; omega
    have hrev : (a.setWidth (k + 1)).reverse.toNat = (a.setWidth k).reverse.toNat * 2 + (a.getLsbD k).toNat := by
      simp [BitVec.reverse, BitVec.toNat_concat, BitVec.msb_setWidth, BitVec.truncate_eq_setWidth]
    rw [List.range_succ, List.foldl_append, ih (by omega), hrev, hpow]
    simp only [List.foldl, BitVec.testBit_toNat, show n - 1 - k = n - (k + 1) by omega]
    cases a.getLsbD k <;> simp <;> ring

theorem brevN_toNat : brevN n a.toNat = a.reverse.toNat := by
  rw [brevN, brevN_fold_toNat a le_rfl]; simp

/-! The bounds of SAT, and the results. -/

theorem minOf_eq (hn : 0 < n) : minOf n u = if u then 0 else (BitVec.intMin n).toInt := by
  cases u <;> simp [minOf, BitVec.toInt_intMin_of_pos hn]
theorem maxOf_eq (n : Nat) (u : Bool) :
    maxOf n u = if u then ((BitVec.allOnes n).toNat : Int) else (BitVec.intMax n).toInt := by
  cases u <;> simp [maxOf, BitVec.toInt_intMax]

/-- The exact results are the same for every operation but the left shift. -/
theorem intOp_eq_exactInt {op : IntOp} (hop : op ≠ .shl) (sub : Nat) (choose : Bool) :
    intOp op n u sub choose a.toNat b.toNat c.toNat = exactInt op u sub choose a b c := by
  by_cases hcmp : op = .cmp
  · subst hcmp
    simp only [intOp, extInt_toNat, exactInt_cmp]
  have hlen : fieldLen n b.toNat ≤ n := Nat.min_le_right _ _
  simp only [intOp, exactInt, extInt_toNat]
  cases op with
  | add | sub | mul | mad | sel | min => rfl
  | shl => exact absurd rfl hop
  | cmp => exact absurd rfl hcmp
  | div => simp only [extOf_eq_zero]; simp
  | and => rw [← BitVec.toNat_and, Nat.mod_eq_of_lt (BitVec.isLt _)]
  | or => rw [← BitVec.toNat_or, Nat.mod_eq_of_lt (BitVec.isLt _)]
  | xor => rw [← BitVec.toNat_xor, Nat.mod_eq_of_lt (BitVec.isLt _)]
  | shr => exact extOf_div_two_pow ..
  | max => exact max_def ..
  | bfx => exact extInt_bitField ..
  | bfi => rw [Nat.mod_eq_of_lt a.isLt, insertField_toNat a c hlen]; rfl
  | bit =>
    simp only [popBits_toNat, clzN_toNat, ctzN_toNat, brevN_toNat]
    rcases sub with _ | _ | _ | sub <;> rfl

/-- A left shift without SAT: Trunc drops what the bit vector has dropped. -/
theorem intResult_shl (sub : Nat) (choose : Bool) :
    intResult .shl n u false sub choose a.toNat b.toNat c.toNat = (intValue .shl u false sub choose a b c).toNat := by
  simp [intResult, intValue, intOp, exactInt, truncInt, BitVec.toNat_ofInt, Nat.mod_eq_of_lt a.isLt, Nat.shiftLeft_eq]

theorem intResult_eq_intValue (hn : 0 < n) {op : IntOp} {sat : Bool} (hshl : op = .shl → sat = false) (sub : Nat)
    (choose : Bool) :
    intResult op n u sat sub choose a.toNat b.toNat c.toNat = (intValue op u sat sub choose a b c).toNat := by
  by_cases hop : op = .shl
  · subst hop
    rw [hshl rfl, intResult_shl]
  · simp only [intResult, intValue, intOp_eq_exactInt a b c u hop, minOf_eq u hn, maxOf_eq, clampInt, truncInt,
      BitVec.toNat_ofInt, Nat.cast_pow, Nat.cast_ofNat]
end

/-! Row 0x3. -/

theorem iLane_eq_laneValue {op : IntOp} {o : Op} (hshl : op = .shl → satF o = false) (x : Iss) (i : Nat) :
    iLane op o x i = (laneValue op o x i).toNat :=
  intResult_eq_intValue _ _ _ _ (by decide) hshl ..

/-- An instruction whose meaning is `execI` has the course of its row: result, completion and frame. -/
theorem runs_intRow {i : Instr} {op : IntOp} {readsB readsC : Bool} {o : Op}
    (hexec : ∀ s, exec i s = execI op readsB readsC o s) (hshl : op = .shl → satF o = false) :
    Runs i (intRow op readsB readsC o) := by
  intro s x hready _
  replace hready : Ready (lReq o readsB readsC false) s x := hready
  refine ⟨?_, setV_unchanged (ready_group hready rfl) ..⟩
  rw [hexec, execI, issue_ready hready]
  simp only [iLane_eq_laneValue hshl, BitVec.ofNat_toNat, BitVec.setWidth_eq]
  rfl

theorem runs_icmp (o : Op) : Runs (.icmp o) fun s x => writesLanes (lReq o true false true) (opLen o) o.d
    (LaneSet.ofTest fun i => laneValue .cmp o x i == 1) s x := by
  intro s x hready _
  replace hready : Ready (lReq o true false true) s x := hready
  have htest (i : Nat) : (iLane .cmp o x i == 1) = (laneValue .cmp o x i == 1) := by
    rw [iLane_eq_laneValue (op := .cmp) nofun, Bool.eq_iff_iff, beq_iff_eq, beq_iff_eq, ← BitVec.toNat_inj]
    rfl
  refine ⟨?_, setM_unchanged ..⟩
  change execIcmp o s = _
  rw [execIcmp, issue_ready hready]
  simp only [htest]
  rfl

/-- R119 for all of row 0x3 but ishl, whatever the fields. -/
theorem runs_row3_but_ishl (o : Op) :
    Runs (.iadd o) (intRow .add true false o) ∧ Runs (.isub o) (intRow .sub true false o)
      ∧ Runs (.imul o) (intRow .mul true false o) ∧ Runs (.imad o) (intRow .mad true true o)
      ∧ Runs (.iand o) (intRow .and true false o) ∧ Runs (.ior o) (intRow .or true false o)
      ∧ Runs (.ixor o) (intRow .xor true false o) ∧ Runs (.ishr o) (intRow .shr true false o)
      ∧ Runs (.imin o) (intRow .min true false o) ∧ Runs (.imax o) (intRow .max true false o)
      ∧ Runs (.isel o) (intRow .sel true false o) ∧ Runs (.ibfx o) (intRow .bfx true false o)
      ∧ Runs (.ibfi o) (intRow .bfi true true o) ∧ Runs (.ibit o) (intRow .bit false false o)
      ∧ Runs (.icmp o) fun s x => writesLanes (lReq o true false true) (opLen o) o.d
          (LaneSet.ofTest fun i => laneValue .cmp o x i == 1) s x :=
  have row {i : Instr} {op : IntOp} {readsB readsC : Bool} (hop : op ≠ .shl)
      (hexec : ∀ s, exec i s = execI op readsB readsC o s) : Runs i (intRow op readsB readsC o) :=
    runs_intRow hexec fun h => absurd h hop
  ⟨row nofun fun _ => rfl, row nofun fun _ => rfl, row nofun fun _ => rfl, row nofun fun _ => rfl, row nofun fun _ => rfl,
    row nofun fun _ => rfl, row nofun fun _ => rfl, row nofun fun _ => rfl, row nofun fun _ => rfl, row nofun fun _ => rfl,
    row nofun fun _ => rfl, row nofun fun _ => rfl, row nofun fun _ => rfl, row nofun fun _ => rfl, runs_icmp o⟩

/-- Table 6.2: SAT = 0 in a well-formed ishl. -/
theorem satF_of_ishl_wf {o : Op} (hwf : (Instr.ishl o).wf = true) : satF o = false := by
  simp only [Instr.wf, fieldsOk, irow, Bool.and_eq_true] at hwf
  obtain ⟨⟨⟨-, hsat⟩, -⟩, -⟩ := hwf
  simpa using hsat

/-- R119 for every ishl that an instruction word can name. -/
theorem runs_ishl_of_wf {o : Op} (hwf : (Instr.ishl o).wf = true) : Runs (.ishl o) (intRow .shl true false o) :=
  runs_intRow (fun _ => rfl) fun _ => satF_of_ishl_wf hwf

/-! A left shift with SAT. -/

/-- ishl v2, v1, 1 with a given FN. -/
def shlByOne (fn : BitVec 8) : Op := ⟨⟨false, 0⟩, fn, 2, ⟨false, 1⟩, ⟨false, 0⟩, ⟨false, 0⟩, false, false, .w2 1⟩
/-- A group with one register block and bit 31 set in every lane of v1. -/
def bit31Group : Group := (startGroup 0 0 0 1 ⟨0, 0⟩ [0, 4096, 0, 0, 0, 0]).setV 1 LaneSet.all fun _ => 0x80000000
/-- The group as an instruction sees it. -/
def bit31Iss : Iss :=
  ⟨.group 0 0 0, 0, 0, false, 0, 0, some bit31Group, bit31Group.uni, Flow.start ⟨0, 0⟩, LaneSet.all, LaneSet.all⟩
/-- The device with that group in slot 0 of core 0, about to issue. -/
def bit31State : State := (State.reset.place0 0 [0xC0]).modGroup 0 0 fun _ => bit31Group
/-- Lane 0 of v2 of that group after an instruction. -/
def lane0OfV2 (r : Host.Outcome State Fault Refusal) : Option Word :=
  match r with
  | .next t => (t.group? 0 0).map fun g => (g.v.getD 2 []).getD 0 0
  | _ => none

theorem shlByOne_ready : Ready (lReq (shlByOne 0x84) true false false) bit31State bit31Iss :=
  ⟨bit31Iss, by decide +kernel, by decide +kernel⟩

/-- Without SAT the same shift is well formed and has its course. -/
theorem witness_runs_ishl_of_wf : Runs (.ishl (shlByOne 0x80)) (intRow .shl true false (shlByOne 0x80)) :=
  runs_ishl_of_wf (by decide)

/-- Refutes O2: it takes every `Op`, also an ishl with SAT = 1, which Table 6.2 does not allow. There the model clamps
0x80000000 * 2 to 0x7FFFFFFF, and the statement's bit vector has lost the bit and gives 0. All else of it holds:
`runs_row3_but_ishl` and `runs_ishl_of_wf`. -/
theorem not_vectorIntegerResults : ¬ Obligations.VectorIntegerResults := by
  unfold Obligations.VectorIntegerResults
  intro h
  obtain ⟨-, -, -, -, -, -, -, hshl, -⟩ := h (shlByOne 0x84)
  have hrun := (hshl bit31State bit31Iss shlByOne_ready trivial).1
  have hmodel : lane0OfV2 (exec (.ishl (shlByOne 0x84)) bit31State) = some 0x7FFFFFFF := by decide +kernel
  have hclaim : lane0OfV2 (.next (intRow .shl true false (shlByOne 0x84) bit31State bit31Iss).next) = some 0 := by
    decide +kernel
  rw [hrun, hclaim] at hmodel
  exact absurd hmodel (by decide)

end Sys2Proof.Machine

/-! SUPPORT. Coverage of the rasteriser (15 R268, R269): the sign test of a sample, the lanes that its scan emits, and two
triangles that share an edge. -/
namespace Sys2Proof.Machine

/-! The sign test. -/

/-- The sign that turns a triangle to positive area (R268). -/
def RastTri.orient (t : RastTri) : Int := if t.area < 0 then -1 else 1

/-- R268: an edge keeps a position where its value, turned to positive area, is positive, or 0 on an edge that belongs to the
triangle. -/
def RastTri.Keeps (t : RastTri) (px py : Int) (j : Nat) : Prop :=
  0 < t.orient * t.value j px py ∨ (t.value j px py = 0 ∧
    (t.orient * (t.edge j).2 < 0 ∨ ((t.edge j).2 = 0 ∧ 0 < t.orient * (t.edge j).1)))

section
variable {t : RastTri} {px py : Int}

theorem RastTri.orient_eq : t.orient = if t.area < 0 then -1 else 1 := rfl

theorem RastTri.orient_of_area_pos (h : 0 < t.area) : t.orient = 1 := if_neg h.not_gt

theorem RastTri.orient_of_area_neg (h : t.area < 0) : t.orient = -1 := if_pos h

theorem RastTri.orient_eq_one_or : t.orient = 1 ∨ t.orient = -1 :=
  (lt_or_ge t.area 0).symm.imp (fun h => if_neg h.not_gt) RastTri.orient_of_area_neg

/-- R268: A is independent of the sample. -/
theorem RastTri.area_eq_sum_value (t : RastTri) (px py : Int) :
    t.area = t.value 0 px py + t.value 1 px py + t.value 2 px py := by
  simp only [RastTri.area, RastTri.value, RastTri.edge, Nat.reduceAdd, Nat.reduceMod]
  ring

theorem RastTri.covers_iff : t.covers px py = true ↔ t.area ≠ 0 ∧ ∀ j < 3, t.Keeps px py j := by
  have hzero (j : Nat) : t.orient * t.value j px py = 0 ↔ t.value j px py = 0 := by
    rcases t.orient_eq_one_or with h | h <;> simp [h]
  simp only [RastTri.covers, RastTri.Keeps, ← hzero, t.orient_eq, Bool.and_eq_true, Bool.or_eq_true, decide_eq_true_eq,
    List.all_eq_true, List.mem_range]

end

/-! The scan. -/

/-- The first result word of a sample: x, y and the sample's number (R269). -/
def sampleWord (x y smp : Nat) : Word := BitVec.ofNat 32 (x + y * 2 ^ 14 + smp * 2 ^ 28)

/-- The lane of sample smp, at offset off, of the pixel (x, y) of a tile, with its coverage (R268, R269). -/
def RastTri.laneOf (t : RastTri) (lin : Bool) (tile : DWord) (x y smp : Nat) (off : Int × Int) : List Word × Bool :=
  let px : Int := 256 * (tileX0 tile + x : Nat) + off.1
  let py : Int := 256 * (tileY0 tile + y : Nat) + off.2
  (t.sample lin px py (sampleWord (tileX0 tile + x) (tileY0 tile + y) smp),
    decide (x < tileW tile ∧ y < tileH tile) && t.covers px py)

/-- The lanes of the quad that the scan tests at an index (R269). -/
def RastTri.lanesAt (t : RastTri) (lin : Bool) (tile : DWord) (i : Nat) : List (List Word × Bool) :=
  let pat := samplePattern (tilePat tile)
  let m := i / pat.length
  let smp := i % pat.length
  (List.range 4).map fun k =>
    t.laneOf lin tile (2 * unspread m + k % 2) (2 * unspread (m / 2) + k / 2) smp (pat.getD smp (0, 0))

/-- R268: a result word names a sample of a pixel of the tile that the triangle covers. -/
def RastTri.CoversWord (t : RastTri) (tile : DWord) (w : Word) : Prop :=
  ∃ o, (samplePattern (tilePat tile))[bits w 28 4]? = some o
    ∧ tileX0 tile ≤ bits w 0 14 ∧ bits w 0 14 < tileX0 tile + tileW tile
    ∧ tileY0 tile ≤ bits w 14 14 ∧ bits w 14 14 < tileY0 tile + tileH tile
    ∧ t.covers (256 * (bits w 0 14 : Nat) + o.1) (256 * (bits w 14 14 : Nat) + o.2) = true

section
variable {t : RastTri} {lin : Bool} {tile : DWord} {p : List Word × Bool}

/-- R269: an index of a quad outside of the tile is passed over, and any other one emits its quad where a lane is covered. -/
theorem rastScan_succ (t : RastTri) (lin : Bool) (tile : DWord) (fuel i : Nat) (out : List (List Word × Bool)) :
    rastScan t lin tile (fuel + 1) i out =
      if tileW tile ≤ 2 * unspread (i / (samplePattern (tilePat tile)).length)
        ∨ tileH tile ≤ 2 * unspread (i / (samplePattern (tilePat tile)).length / 2) then rastScan t lin tile fuel (i + 1) out
      else if out.length = 128 then (out, i + 1)
      else rastScan t lin tile fuel (i + 1)
        (if (t.lanesAt lin tile i).any fun l => l.2 then out ++ t.lanesAt lin tile i else out) := rfl

/-- The scan emits only lanes of the quads that it tests. -/
theorem mem_rastScan {fuel i : Nat} {out : List (List Word × Bool)} (h : p ∈ (rastScan t lin tile fuel i out).1) :
    p ∈ out ∨ ∃ j, p ∈ t.lanesAt lin tile j := by
  induction fuel generalizing i out with
  | zero => exact .inl h
  | succ fuel ih =>
    rw [rastScan_succ] at h
    split at h
    next => exact ih h
    next =>
      split at h
      next => exact .inl h
      next =>
        rcases ih h with hout | hlater
        · split at hout
          next => exact (List.mem_append.1 hout).imp_right fun hquad => ⟨i, hquad⟩
          next => exact .inl hout
        · exact .inr hlater

theorem toNat_sampleWord {x y smp : Nat} (hx : x < 16384) (hy : y < 16384) (hsmp : smp < 16) :
    (sampleWord x y smp).toNat = x + y * 2 ^ 14 + smp * 2 ^ 28 := by
  rw [sampleWord, BitVec.toNat_ofNat, Nat.mod_eq_of_lt]
  omega

/-- R269: the fields of the first result word of a sample. -/
theorem bits_sampleWord {x y smp : Nat} (hx : x < 16384) (hy : y < 16384) (hsmp : smp < 16) :
    bits (sampleWord x y smp) 0 14 = x ∧ bits (sampleWord x y smp) 14 14 = y ∧ bits (sampleWord x y smp) 28 4 = smp := by
  refine ⟨?_, ?_, ?_⟩ <;>
  · rw [bits, BitVec.extractLsb'_toNat, toNat_sampleWord hx hy hsmp, Nat.shiftRight_eq_div_pow]
    omega

theorem samplePattern_length (n : Nat) : 0 < (samplePattern n).length ∧ (samplePattern n).length ≤ 4 := by
  unfold samplePattern; split <;> decide

/-- R267: a well-formed tile lies within 16384 pixels each way. -/
theorem tile_bounds_of_tileOk (h : tileOk tile = true) :
    tileX0 tile + tileW tile ≤ 16384 ∧ tileY0 tile + tileH tile ≤ 16384 := by
  simp only [tileOk, Bool.and_eq_true, decide_eq_true_eq] at h
  obtain ⟨⟨-, hx⟩, hy⟩ := h
  exact ⟨hx, hy⟩

/-- R268, R269: a covered lane's first word names the sample that it stands at. -/
theorem RastTri.coversWord_of_laneOf {x y smp : Nat} {off : Int × Int} (htile : tileOk tile = true)
    (hoff : (samplePattern (tilePat tile))[smp]? = some off) (hcov : (t.laneOf lin tile x y smp off).2 = true) :
    t.CoversWord tile ((t.laneOf lin tile x y smp off).1.getD 0 0) := by
  obtain ⟨hX, hY⟩ := tile_bounds_of_tileOk htile
  have hsmp := (List.getElem?_eq_some_iff.1 hoff).1
  have hlen := samplePattern_length (tilePat tile)
  simp only [RastTri.laneOf, Bool.and_eq_true, decide_eq_true_eq] at hcov
  obtain ⟨⟨hx, hy⟩, hcov⟩ := hcov
  obtain ⟨hbx, hby, hbs⟩ := bits_sampleWord (x := tileX0 tile + x) (y := tileY0 tile + y) (smp := smp)
    (by omega) (by omega) (by omega)
  have hword : (t.laneOf lin tile x y smp off).1.getD 0 0 = sampleWord (tileX0 tile + x) (tileY0 tile + y) smp := rfl
  rw [RastTri.CoversWord, hword, hbx, hby, hbs]
  exact ⟨off, hoff, Nat.le_add_right .., Nat.add_lt_add_left hx _, Nat.le_add_right .., Nat.add_lt_add_left hy _, hcov⟩

theorem RastTri.coversWord_of_mem_lanesAt {i : Nat} (htile : tileOk tile = true) (hmem : p ∈ t.lanesAt lin tile i)
    (hcov : p.2 = true) : t.CoversWord tile (p.1.getD 0 0) := by
  obtain ⟨k, -, rfl⟩ := List.mem_map.1 hmem
  have hsmp := Nat.mod_lt i (samplePattern_length (tilePat tile)).1
  exact RastTri.coversWord_of_laneOf htile (by simp [hsmp]) hcov

end

/-- R268: coverage by the signs of the edge values, at every position and in every lane of the scan. -/
theorem coverageIsExact : Claims.CoverageIsExact := by
  intro t
  refine ⟨fun px py => ⟨t.area_eq_sum_value px py, ?_⟩, fun lin tile fuel i p htile hmem hcov => ?_⟩
  · have hsign := t.orient_eq.symm
    rw [t.area_eq_sum_value px py] at hsign
    rw [RastTri.covers_iff, t.area_eq_sum_value px py]
    refine and_congr_right fun _ => forall₂_congr fun j hj => ?_
    interval_cases j <;> exact hsign ▸ Iff.rfl
  · obtain hnil | ⟨j, hquad⟩ := mem_rastScan hmem
    · cases hnil
    · exact RastTri.coversWord_of_mem_lanesAt htile hquad hcov

/-! A shared edge. -/

/-- A position on edge 2 of a triangle and inside of its other two edges. -/
def RastTri.OnEdgeTwo (t : RastTri) (px py : Int) : Prop :=
  t.area ≠ 0 ∧ 0 < t.orient * t.value 0 px py ∧ 0 < t.orient * t.value 1 px py ∧ t.value 2 px py = 0

section
variable {a b : RastTri} {px py : Int}

theorem RastTri.onEdgeTwo_of_area_pos (harea : 0 < a.area) (h0 : 0 < a.value 0 px py) (h1 : 0 < a.value 1 px py)
    (h2 : a.value 2 px py = 0) : a.OnEdgeTwo px py := by
  rw [RastTri.OnEdgeTwo, RastTri.orient_of_area_pos harea, one_mul, one_mul]
  exact ⟨harea.ne', h0, h1, h2⟩

theorem RastTri.onEdgeTwo_of_area_neg (harea : a.area < 0) (h0 : a.value 0 px py < 0) (h1 : a.value 1 px py < 0)
    (h2 : a.value 2 px py = 0) : a.OnEdgeTwo px py := by
  rw [RastTri.OnEdgeTwo, RastTri.orient_of_area_neg harea, neg_one_mul, neg_one_mul]
  exact ⟨harea.ne, neg_pos.2 h0, neg_pos.2 h1, h2⟩

/-- An edge from a point to itself leaves no area. -/
theorem RastTri.area_eq_zero_of_edge (hdx : (a.edge 2).1 = 0) (hdy : (a.edge 2).2 = 0) : a.area = 0 := by
  simp only [RastTri.area, RastTri.value, RastTri.edge, Nat.reduceAdd, Nat.reduceMod] at hdx hdy ⊢
  linear_combination (a.y.getD 2 0 - a.y.getD 0 0) * hdx - (a.x.getD 2 0 - a.x.getD 0 0) * hdy

/-- R268: on edge 2 its direction decides. -/
theorem RastTri.OnEdgeTwo.covers_iff (h : a.OnEdgeTwo px py) : a.covers px py = true ↔
    a.orient * (a.edge 2).2 < 0 ∨ ((a.edge 2).2 = 0 ∧ 0 < a.orient * (a.edge 2).1) := by
  obtain ⟨harea, h0, h1, h2⟩ := h
  rw [RastTri.covers_iff, and_iff_right harea]
  constructor
  · intro hkeeps
    simpa [RastTri.Keeps, h2] using hkeeps 2 (by decide)
  · intro hdir j hj
    interval_cases j
    · exact .inl h0
    · exact .inl h1
    · exact .inr ⟨h2, hdir⟩

/-- R268: two triangles of one winding run through a common edge in opposite directions, and one direction belongs. -/
theorem RastTri.OnEdgeTwo.covers_eq_not (ha : a.OnEdgeTwo px py) (hb : b.OnEdgeTwo px py) (hor : b.orient = a.orient)
    (hedge : b.edge 2 = -a.edge 2) : a.covers px py = !b.covers px py := by
  have hlong : ¬ ((a.edge 2).1 = 0 ∧ (a.edge 2).2 = 0) := fun ⟨hdx, hdy⟩ => ha.1 (RastTri.area_eq_zero_of_edge hdx hdy)
  rw [Bool.eq_iff_iff, Bool.not_eq_true', ← Bool.not_eq_true, ha.covers_iff, hb.covers_iff, hor, hedge, Prod.fst_neg,
    Prod.snd_neg]
  rcases a.orient_eq_one_or with h | h <;> rw [h] <;> omega

end

section
variable (x0 y0 x1 y1 x2 y2 x3 y3 : Int) (z w z' w' : List Word)

theorem RastTri.edge_two_swap : RastTri.edge ⟨[x1, x0, x3], [y1, y0, y3], z', w'⟩ 2 =
    -RastTri.edge ⟨[x0, x1, x2], [y0, y1, y2], z, w⟩ 2 := by
  simp [RastTri.edge]

theorem RastTri.value_two_swap (px py : Int) : RastTri.value ⟨[x1, x0, x3], [y1, y0, y3], z', w'⟩ 2 px py =
    -RastTri.value ⟨[x0, x1, x2], [y0, y1, y2], z, w⟩ 2 px py := by
  simp only [RastTri.value, RastTri.edge, Nat.reduceAdd, Nat.reduceMod, List.getD_cons_zero, List.getD_cons_succ]
  ring

end

/-- R268: a shared edge, for both windings. -/
theorem sharedEdges : Claims.SharedEdges := by
  intro x0 y0 x1 y1 x2 y2 x3 y3 px py z w z' w' a b
  have hedge : b.edge 2 = -a.edge 2 := RastTri.edge_two_swap ..
  have hvalue (h : a.value 2 px py = 0) : b.value 2 px py = 0 := by
    rw [← neg_zero, ← h]
    exact RastTri.value_two_swap ..
  constructor
  · intro ha hb ha2 ha0 ha1 hb0 hb1
    have hor : b.orient = a.orient := by rw [RastTri.orient_of_area_pos ha, RastTri.orient_of_area_pos hb]
    exact (RastTri.onEdgeTwo_of_area_pos ha ha0 ha1 ha2).covers_eq_not
      (RastTri.onEdgeTwo_of_area_pos hb hb0 hb1 (hvalue ha2)) hor hedge
  · intro ha hb ha2 ha0 ha1 hb0 hb1
    have hor : b.orient = a.orient := by rw [RastTri.orient_of_area_neg ha, RastTri.orient_of_area_neg hb]
    exact (RastTri.onEdgeTwo_of_area_neg ha ha0 ha1 ha2).covers_eq_not
      (RastTri.onEdgeTwo_of_area_neg hb hb0 hb1 (hvalue ha2)) hor hedge

/-- Settles O38: coverage is the sign test, and where two triangles of one winding share an edge it runs through them in
opposite directions, of which the test takes exactly one. -/
theorem sharedEdgeCoveredOnce : Obligations.SharedEdgeCoveredOnce :=
  ⟨coverageIsExact, sharedEdges⟩

end Sys2Proof.Machine
